-- ==== Sys2Proof/Word.lean ====
section
/-! DEFINITION. Sys2Proof/Word.lean: the word types of the DT4256 (R2, R110, R200). -/

namespace Sys2Proof

/-- A byte of memory. -/
abbrev Byte := BitVec 8

/-- A lane of a 32-bit register (R110). -/
abbrev Word := BitVec 32

/-- A scalar register, a code address or an instruction word (R29, R110). -/
abbrev DWord := BitVec 64

/-- A 32-byte bundle, W0 in the low 64 bits (R2, R29). -/
abbrev BundleBits := BitVec 256

/-- A table keyed by numbers, keys strictly rising: the machine's indexed state as plain data. -/
abbrev Tbl (α : Type) := List (Nat × α)

end Sys2Proof
end

