-- ==== Sys2Proof/Config.lean ====
section
/-! DEFINITION. Sys2Proof/Config.lean: the constants the manual fixes for the part, and the values it leaves
open as constants WITHOUT a body, of which nothing can be proved (log 8, 11, 13, 14, 17 to 21, 23, 24). -/

namespace Sys2Proof.Config

/-! ### Constants of the part (R5, R10, R11, R13) -/

/-- Chip cycles of a slot (R10). -/
def slotCycles : Nat := 27200
/-- Chip cycles of a frame (R10). -/
def frameCycles : Nat := 1740800
/-- Chip cycles of the scan pitch (R13). -/
def scanPitch : Nat := 34000
/-- Cores of the device (R6). -/
def cores : Nat := 256
/-- Clusters of the device (R6). -/
def clusters : Nat := 32
/-- Dies of the device (R5). -/
def dies : Nat := 4
/-- HBM bytes of each device (R200). -/
def hbmBytes : Nat := 384 * 2 ^ 30
/-- Cellar size in GiB, the firmware default (R317). -/
def cellarGiB : Nat := 16
/-- Devices of a domain (R341). -/
def devices : Nat := 144

/-! ### Values the manual leaves open -/

/-- FREE VALUE, log 13: the bits a special function (op8 0x67–0x6E) returns where R183 gives a bound only. -/
opaque special : Nat → Word → Word
/-- FREE VALUE, log 115: whether the scan of a core that began at a cycle passes (R325, R326). -/
opaque scanPasses : Nat → Nat → Bool
/-- FREE VALUE, log 115: whether the retest of a core in the maintenance slot at a cycle passes (R326). -/
opaque retestPasses : Nat → Nat → Bool
/-- FREE VALUE, log 8: the temperature sensor of a core at a cycle, degrees C above zero (R321). -/
opaque coreTemp : Nat → Nat → Nat
/-- FREE VALUE, log 17: what the fabric reservation of a request grants, its base or none (R343). -/
opaque fabricBase : Nat → Option Nat
/-- FREE VALUE, log 24: what stands in place of the home's base in the promise of a request whose bytes have no home at
issue, since they do not translate (R232). -/
opaque homelessBase : Nat → Option Nat
/-- FREE VALUE, log 18: the home die of a line of this device's HBM (01: lines interleave onto the stacks). -/
opaque homeDie : Nat → Nat
/-- FREE VALUE, log 19: which other devices of the domain are present, with their Cellar sizes in GiB (R200, R317). -/
opaque otherDevice : Nat → Option Nat
/-- FREE VALUE, log 25: what FTGET writes for a task handle that is not FULL (R272, R286). -/
opaque taskValue : Nat → DWord
/-- FREE VALUE, log 26: whether the management engine parks a waiting block at a slot boundary (R320). -/
opaque parks : Nat → Nat → Bool
/-- FREE VALUE, log 20: bytes of provisional versions that the home slices hold before versions spill (R327). -/
opaque stagingStore : Nat
/-- FREE VALUE, log 21: whether a home slice must first read a line from HBM for the access of an operation (R220, R353). -/
opaque sliceMiss : Nat → Nat → Bool
/-- FREE VALUE, log 21: the context for whose sake a view gives up an unpublished line, by line and cycle (R220). -/
opaque evictor : Nat → Nat → Nat
/-- FREE VALUE, log 21: the dirty lines a home slice evicts for that access (R220). -/
opaque evicted : Nat → Nat → Nat
/-- FREE VALUE, log 21: the dirty lines of the home slices that a CFLSH `.sys` `.all` writes to HBM, by cycle (R217). -/
opaque dirtyLines : Nat → Nat
/-- FREE VALUE, log 21: the die of the home slice that holds a routing counter of a context (R353). -/
opaque counterDie : Nat → Nat → Nat
/-- FREE VALUE, log 114: the scale byte that a request of MMAU reads at an offset beyond the window (R261, R262). -/
opaque strayScale : Nat → Int → Byte
/-- FREE VALUE, log 23: `%faddr` of a fault for which the manual states none, by fault code and bundle address. -/
opaque faddr : Nat → Nat → BitVec 64
/-- FREE VALUE, log 14: SHA-512 (R84, R349, R350). -/
opaque sha512 : List Byte → Nat
/-- FREE VALUE, log 14: the device's ECDSA P-521 signature (R348, R350). -/
opaque ecdsaSign : List Byte → Nat
/-- FREE VALUE, log 11: the bytes of the Izunou image at boot (R75, R347). -/
opaque image : List Byte
/-- FREE VALUE, log 14: does a pair r, s verify a digest under the public key of a SHA-512 digest (ECDSA over P-521, R84)? -/
opaque ecdsaVerify : Nat → Nat → Nat → Nat → Bool
/-- FREE VALUE, log 11: the rollback floor in the fuses (R347). -/
opaque rollbackFloor : Nat
/-- FREE VALUE, log 11: the digest in key slot 0, fixed in ROM (R349). -/
opaque romKeyDigest : Nat

end Sys2Proof.Config
end

