-- ==== Sys2Proof/Syntax.lean ====
section
/-! DEFINITION. Sys2Proof/Syntax.lean: the instruction words and the machine's events, one constructor for each
row of spec/opcode_table.json. A word holds its decoded operand specifiers (R40, R41) and its modifier field as
the encoding has it, read through named accessors; an event holds what the environment or the machine's own
choice supplies. -/

namespace Sys2Proof

/-- The last-result registers of word positions 1, 2 and 3 (R40). -/
inductive LastPos where
  | la | lb | lc
deriving DecidableEq, Repr

/-- An operand specifier (R40, R41). -/
inductive Reg where
  /-- `$v0`–`$v255`, mapped, per lane. -/
  | v (n : BitVec 8)
  /-- `$o0`–`$o7`, the operand file, per lane. -/
  | o (n : BitVec 3)
  /-- `$la`, `$lb`, `$lc`. -/
  | last (p : LastPos)
  /-- `$z`. -/
  | z
  /-- `$s0`–`$s63`, scalar, per warp. -/
  | s (n : BitVec 6)
deriving DecidableEq, Repr

/-- The operands of an F-form word (R35). -/
structure FWord where
  d : Reg
  a : Reg
  b : Reg
  c : Reg
  tba : Bool
  tbb : Bool
  tbc : Bool
  g : BitVec 3
  gn : Bool
  mod : BitVec 11
deriving DecidableEq, Repr

/-- The operands of an I-form word (R36). -/
structure IWord where
  d : Reg
  a : Reg
  g : BitVec 3
  gn : Bool
  imm : Word
deriving DecidableEq, Repr

/-- One half of a P-form word (R38). -/
structure PHalf where
  d : Reg
  s : Reg
  tbs : Bool
  tbd : Bool
  pmod : BitVec 7
deriving DecidableEq, Repr

/-- The operands of an M-form word (R39). -/
structure MWord where
  d : Reg
  a : Reg
  b : Reg
  g : BitVec 3
  gn : Bool
  tbb : Bool
  kind : BitVec 4
  imm : BitVec 20
deriving DecidableEq, Repr

/-- The three caching levels of a path (R17): core, cluster and device view. -/
inductive ViewLevel where
  | v | g | d
deriving DecidableEq, Repr

/-- What a TRANSLATION event completes: a global access of a block (R106), or a request of a copy queue (R231). -/
inductive Xlat where
  | mem (b q : Nat)
  | req (c q : Nat)
deriving DecidableEq, Repr

/-- What one Deliver step delivers: bytes of a part of a copy request, as a mask (R26). -/
structure PartBytes where
  part : Nat
  mask : Nat
deriving DecidableEq, Repr

/-- Hardware units that can fail (R5, R7, R333). -/
inductive HwUnit where
  | row (c n : Nat)
  | column (c : Nat)
  | core (c : Nat)
  | cluster (k : Nat)
deriving DecidableEq, Repr

/-- A bind record (R276). -/
structure BindRec where
  ctx : Nat
  cls : Nat
  valid : Bool
  mask : Word
  bmax : Nat
deriving DecidableEq, Repr

/-- Firmware writes other than slot kinds, the rotation period and the commit bit (R9, R276, R281, R321, R337, R338). -/
inductive FwWrite where
  | bind (i : Nat) (r : BindRec)
  | energy (k : Nat) (e : Word)
  | peak (k : Nat) (i : Word)
  | tokens (n : Nat)
  | threshold (n : Nat)
  | gateSlots (n : Nat)
  /-- A fault record is cleared (R9). -/
  | clearRecord (n : Nat)
  /-- The Cellar's size in GiB, before boot reserves it (R317). -/
  | cellar (gib : Nat)
  /-- A die that lost a cluster and has no spare left is fenced at the next slot boundary (R335). -/
  | fence (die : Nat)
deriving DecidableEq, Repr

/-- Who sends a management message (R345). -/
inductive Sender where
  /-- A node that holds the host credential. -/
  | host
  /-- Another device of the domain. -/
  | device
  /-- Any other node of the domain. -/
  | node
deriving DecidableEq, Repr

/-- What every management message carries: sender, tag, and whether its payload has the wrong length or a nonzero
reserved field (R345). -/
structure MsgHdr where
  sender : Sender
  tag : Word
  bad : Bool
deriving DecidableEq, Repr

/-- The fields of a SHAPE entry at its offsets 0x00 and 0x10–0x33 (R83, R344). -/
structure ShapeFields where
  base : DWord
  extents : List Word
  strides : List Word
  fmt : Byte
  dims : Byte
  rights : Byte
  reserved : Byte
deriving DecidableEq, Repr

/-- A host access to device memory through the fabric (R328, R344). -/
inductive HostAccess where
  | read (pa n : Nat)
  | write (pa : Nat) (bytes : List Byte)
deriving DecidableEq, Repr

/-- What an HBM sector error is (R352). -/
inductive SectorErr where
  | corrected | uncorrectable | badTag
deriving DecidableEq, Repr

/-- Where a soft error strikes (R323, R324, R351). -/
inductive SoftErr where
  | row (b row lane : Nat)
  | oreg (b w n lane : Nat)
  | last (b w lane : Nat) (p : LastPos)
  | sector (pa : Nat) (e : SectorErr)
  /-- Errors that ECC cannot correct, in a scalar register, a predicate, a rejoin register, a map entry or a reference count
  (R323). -/
  | scalar (b w n : Nat)
  | pred (b w lane k : Nat)
  | rejoin (b w k : Nat)
  | map (b w n : Nat)
  | count (b row : Nat)
  /-- A sector of a block's Trunk (R318, R351, R352): 0 to 1,024 of the tile save area, from 1,025 of the image. -/
  | trunk (b n : Nat) (e : SectorErr)
  /-- The sector of a spilled version of a byte, by its place among the versions, newest first (R327, R351). -/
  | version (n : Nat) (e : SectorErr)
deriving DecidableEq, Repr

/-- Links that can fail (R335). -/
inductive LinkUnit where
  /-- A link between a die and the I/O die; `last` says that none of the die's links is left. -/
  | die (n : Nat) (last : Bool)
  /-- A fabric lane. -/
  | lane (n : Nat)
deriving DecidableEq, Repr

/-- The instruction words (R47–R49) and the machine's events: every row of spec/opcode_table.json. -/
inductive Instr where
  /-- NOP -/
  | nop (w : FWord)
  /-- BRA -/
  | bra (w : IWord)
  /-- BR -/
  | br (w : FWord)
  /-- JMPI -/
  | jmpi (w : FWord)
  /-- CALL -/
  | call (w : IWord)
  /-- CALLI -/
  | calli (w : FWord)
  /-- RET -/
  | ret (w : FWord)
  /-- JSET -/
  | jset (w : FWord)
  /-- JSET_I -/
  | jsetI (w : IWord)
  /-- JWAIT -/
  | jwait (w : FWord)
  /-- ELECT -/
  | elect (w : FWord)
  /-- EXIT -/
  | exit (w : FWord)
  /-- TRAP -/
  | trap (w : IWord)
  /-- BKPT -/
  | bkpt (w : IWord)
  /-- SYSC -/
  | sysc (w : IWord)
  /-- SLEEPC -/
  | sleepc (w : FWord)
  /-- SLEEPC_I -/
  | sleepcI (w : IWord)
  /-- NAPTO -/
  | napto (w : FWord)
  /-- HINT -/
  | hint (w : FWord)
  /-- YIELD -/
  | yield (w : FWord)
  /-- ERET -/
  | eret (w : FWord)
  /-- SRD -/
  | srd (w : FWord)
  /-- SWR -/
  | swr (w : FWord)
  /-- RNEW -/
  | rnew (w : FWord)
  /-- RFREE -/
  | rfree (w : FWord)
  /-- RMOV -/
  | rmov (w : FWord)
  /-- RSWAP -/
  | rswap (w : FWord)
  /-- RALIAS -/
  | ralias (w : FWord)
  /-- GIVE -/
  | give (w : FWord)
  /-- TAKE -/
  | take (w : FWord)
  /-- MAPQ -/
  | mapq (w : FWord)
  /-- SETE -/
  | sete (w : FWord)
  /-- EMPQ -/
  | empq (w : FWord)
  /-- IADD -/
  | iadd (w : FWord)
  /-- IADD_I -/
  | iaddI (w : IWord)
  /-- IADD_PAIR -/
  | iaddPair (h : PHalf)
  /-- ISUB -/
  | isub (w : FWord)
  /-- ISUB_I -/
  | isubI (w : IWord)
  /-- ISUB_PAIR -/
  | isubPair (h : PHalf)
  /-- IMUL -/
  | imul (w : FWord)
  /-- IMUL_I -/
  | imulI (w : IWord)
  /-- IMUL_PAIR -/
  | imulPair (h : PHalf)
  /-- IMULH -/
  | imulh (w : FWord)
  /-- IMULH_I -/
  | imulhI (w : IWord)
  /-- IMAD -/
  | imad (w : FWord)
  /-- IMIN -/
  | imin (w : FWord)
  /-- IMIN_I -/
  | iminI (w : IWord)
  /-- IMIN_PAIR -/
  | iminPair (h : PHalf)
  /-- IMAX -/
  | imax (w : FWord)
  /-- IMAX_I -/
  | imaxI (w : IWord)
  /-- IMAX_PAIR -/
  | imaxPair (h : PHalf)
  /-- IABS -/
  | iabs (w : FWord)
  /-- IABS_PAIR -/
  | iabsPair (h : PHalf)
  /-- AND -/
  | and (w : FWord)
  /-- AND_I -/
  | andI (w : IWord)
  /-- AND_PAIR -/
  | andPair (h : PHalf)
  /-- OR -/
  | or (w : FWord)
  /-- OR_I -/
  | orI (w : IWord)
  /-- OR_PAIR -/
  | orPair (h : PHalf)
  /-- XOR -/
  | xor (w : FWord)
  /-- XOR_I -/
  | xorI (w : IWord)
  /-- XOR_PAIR -/
  | xorPair (h : PHalf)
  /-- NOT -/
  | not (w : FWord)
  /-- NOT_PAIR -/
  | notPair (h : PHalf)
  /-- SHL -/
  | shl (w : FWord)
  /-- SHL_I -/
  | shlI (w : IWord)
  /-- SHL_PAIR -/
  | shlPair (h : PHalf)
  /-- SHR -/
  | shr (w : FWord)
  /-- SHR_I -/
  | shrI (w : IWord)
  /-- SHR_PAIR -/
  | shrPair (h : PHalf)
  /-- SAR -/
  | sar (w : FWord)
  /-- SAR_I -/
  | sarI (w : IWord)
  /-- SAR_PAIR -/
  | sarPair (h : PHalf)
  /-- ROTL -/
  | rotl (w : FWord)
  /-- ROTL_I -/
  | rotlI (w : IWord)
  /-- POPC -/
  | popc (w : FWord)
  /-- POPC_PAIR -/
  | popcPair (h : PHalf)
  /-- CLZ -/
  | clz (w : FWord)
  /-- CLZ_PAIR -/
  | clzPair (h : PHalf)
  /-- BREV -/
  | brev (w : FWord)
  /-- BFX -/
  | bfx (w : FWord)
  /-- BFX_I -/
  | bfxI (w : IWord)
  /-- BFI -/
  | bfi (w : FWord)
  /-- LEA -/
  | lea (w : FWord)
  /-- ISET -/
  | iset (w : FWord)
  /-- SEL -/
  | sel (w : FWord)
  /-- SEL_I -/
  | selI (w : IWord)
  /-- MOVI -/
  | movi (w : IWord)
  /-- DUP -/
  | dup (w : FWord)
  /-- DUP_PAIR -/
  | dupPair (h : PHalf)
  /-- IADDX -/
  | iaddx (w : FWord)
  /-- IDOT4 -/
  | idot4 (w : FWord)
  /-- FADD -/
  | fadd (w : FWord)
  /-- FADD_I -/
  | faddI (w : IWord)
  /-- FADD_PAIR -/
  | faddPair (h : PHalf)
  /-- FSUB -/
  | fsub (w : FWord)
  /-- FSUB_I -/
  | fsubI (w : IWord)
  /-- FSUB_PAIR -/
  | fsubPair (h : PHalf)
  /-- FMUL -/
  | fmul (w : FWord)
  /-- FMUL_I -/
  | fmulI (w : IWord)
  /-- FMUL_PAIR -/
  | fmulPair (h : PHalf)
  /-- FFMA -/
  | ffma (w : FWord)
  /-- FMIN -/
  | fmin (w : FWord)
  /-- FMIN_I -/
  | fminI (w : IWord)
  /-- FMIN_PAIR -/
  | fminPair (h : PHalf)
  /-- FMAX -/
  | fmax (w : FWord)
  /-- FMAX_I -/
  | fmaxI (w : IWord)
  /-- FMAX_PAIR -/
  | fmaxPair (h : PHalf)
  /-- FSET -/
  | fset (w : FWord)
  /-- FRCP -/
  | frcp (w : FWord)
  /-- FRSQ -/
  | frsq (w : FWord)
  /-- FSQRT -/
  | fsqrt (w : FWord)
  /-- FEX2 -/
  | fex2 (w : FWord)
  /-- FLG2 -/
  | flg2 (w : FWord)
  /-- FSIN -/
  | fsin (w : FWord)
  /-- FCOS -/
  | fcos (w : FWord)
  /-- FTNH -/
  | ftnh (w : FWord)
  /-- FCVT -/
  | fcvt (w : FWord)
  /-- CVTEF -/
  | cvtef (w : FWord)
  /-- HADD2 -/
  | hadd2 (w : FWord)
  /-- HADD2_I -/
  | hadd2I (w : IWord)
  /-- HADD2_PAIR -/
  | hadd2Pair (h : PHalf)
  /-- HMUL2 -/
  | hmul2 (w : FWord)
  /-- HMUL2_I -/
  | hmul2I (w : IWord)
  /-- HMUL2_PAIR -/
  | hmul2Pair (h : PHalf)
  /-- HFMA2 -/
  | hfma2 (w : FWord)
  /-- FDOT8 -/
  | fdot8 (w : FWord)
  /-- TOPKI -/
  | topki (w : FWord)
  /-- FRND -/
  | frnd (w : FWord)
  /-- FRND_PAIR -/
  | frndPair (h : PHalf)
  /-- F2I -/
  | f2i (w : FWord)
  /-- I2F -/
  | i2f (w : FWord)
  /-- QSWP -/
  | qswp (w : FWord)
  /-- QBRD -/
  | qbrd (w : FWord)
  /-- SHFL -/
  | shfl (w : FWord)
  /-- SHFL_I -/
  | shflI (w : IWord)
  /-- SHFLX -/
  | shflx (w : FWord)
  /-- SHFLX_I -/
  | shflxI (w : IWord)
  /-- VOTE -/
  | vote (w : FWord)
  /-- REDW -/
  | redw (w : FWord)
  /-- SCANW -/
  | scanw (w : FWord)
  /-- MATCH -/
  | matchW (w : FWord)
  /-- LDG -/
  | ldg (w : MWord)
  /-- STG -/
  | stg (w : MWord)
  /-- LDL -/
  | ldl (w : MWord)
  /-- STL -/
  | stl (w : MWord)
  /-- LDK -/
  | ldk (w : MWord)
  /-- PREF -/
  | pref (w : MWord)
  /-- PHASE -/
  | phase (w : MWord)
  /-- FENCEL -/
  | fencel (w : MWord)
  /-- AMO -/
  | amo (w : MWord)
  /-- AMOL -/
  | amol (w : MWord)
  /-- AMOS -/
  | amos (w : MWord)
  /-- ACAS -/
  | acas (w : MWord)
  /-- RCTR -/
  | rctr (w : MWord)
  /-- RSNAP -/
  | rsnap (w : MWord)
  /-- CFLSH -/
  | cflsh (w : MWord)
  /-- TLBI -/
  | tlbi (w : MWord)
  /-- CPYL -/
  | cpyl (w : MWord)
  /-- BCPY -/
  | bcpy (w : MWord)
  /-- BCPYM -/
  | bcpym (w : MWord)
  /-- BCPYG -/
  | bcpyg (w : MWord)
  /-- BCPYA -/
  | bcpya (w : MWord)
  /-- BCPYQ -/
  | bcpyq (w : MWord)
  /-- BBINI -/
  | bbini (w : MWord)
  /-- BBWT -/
  | bbwt (w : MWord)
  /-- LNEMP -/
  | lnemp (w : MWord)
  /-- MMA -/
  | mma (w : MWord)
  /-- MMAU -/
  | mmau (w : MWord)
  /-- ACCZ -/
  | accz (w : MWord)
  /-- ACCLD -/
  | accld (w : MWord)
  /-- ACCST -/
  | accst (w : MWord)
  /-- ACCVQ -/
  | accvq (w : MWord)
  /-- UNFCF -/
  | unfcf (w : MWord)
  /-- ACCSV -/
  | accsv (w : MWord)
  /-- ACCRS -/
  | accrs (w : MWord)
  /-- ACCOWN -/
  | accown (w : MWord)
  /-- BAR -/
  | bar (w : MWord)
  /-- BARA -/
  | bara (w : MWord)
  /-- BARW -/
  | barw (w : MWord)
  /-- SPAWN -/
  | spawn (w : MWord)
  /-- TNEXT -/
  | tnext (w : MWord)
  /-- FTNEW -/
  | ftnew (w : MWord)
  /-- FTFUL -/
  | ftful (w : MWord)
  /-- FTGET -/
  | ftget (w : MWord)
  /-- FTWAIT -/
  | ftwait (w : MWord)
  /-- FTDROP -/
  | ftdrop (w : MWord)
  /-- RESAMP -/
  | resamp (w : MWord)
  /-- RAND -/
  | rand (w : MWord)
  /-- EMPTY_BUNDLE -/
  | emptyBundle
  /-- HANDLER_ENTRY -/
  | handlerEntry (b : Nat) (w : Nat) (l : Nat)
  /-- RESULT_LANDING -/
  | resultLanding (b : Nat)
  /-- TRANSLATION -/
  | translation (t : Xlat)
  /-- MEMORY_FAULT_DETECTION -/
  | memoryFaultDetection (b : Nat) (w : Nat) (l : Nat)
  /-- LOAD_ARRIVAL -/
  | loadArrival (b : Nat) (q : Nat)
  /-- REGISTER_REPAIR -/
  | registerRepair (b : Nat) (w : Nat) (l : Nat) (r : Reg)
  /-- MEMORY_HOLD_RELEASE -/
  | memoryHoldRelease (b : Nat) (w : Nat) (l : Nat)
  /-- MOVE -/
  | move (lv : ViewLevel) (u : Nat) (line : Nat)
  /-- FILL -/
  | fill (lv : ViewLevel) (u : Nat) (line : Nat)
  /-- DROP -/
  | drop (lv : ViewLevel) (u : Nat) (line : Nat)
  /-- ICACHE_FILL -/
  | icacheFill (c : Nat) (pa : Nat)
  /-- ICACHE_DROP -/
  | icacheDrop (c : Nat) (pa : Nat)
  /-- COPY_START -/
  | copyStart (c : Nat) (q : Nat)
  /-- COPY_DELIVER -/
  | copyDeliver (c : Nat) (q : Nat) (n : PartBytes)
  /-- LATE -/
  | late (b : Nat) (q : Nat)
  /-- MATRIX_START -/
  | matrixStart (c : Nat) (q : Nat)
  /-- MATRIX_COMPLETE -/
  | matrixComplete (c : Nat) (q : Nat)
  /-- TILE_CLAIM_TRANSFER -/
  | tileClaimTransfer (b : Nat) (t : Nat)
  /-- TILE_AUTOLOAD -/
  | tileAutoload (c : Nat) (t : Nat)
  /-- WAKE_TIME -/
  | wakeTime (b : Nat) (w : Nat) (l : Nat)
  /-- BLOCK_COMPLETION -/
  | blockCompletion (b : Nat)
  /-- BLOCK_ADMISSION -/
  | blockAdmission (t : Nat)
  /-- RESAMP_COLLECTIVE -/
  | resampCollective (t : Nat)
  /-- DRAIN_END -/
  | drainEnd (b : Nat)
  /-- RELOCATION_RESUME -/
  | relocationResume (b : Nat)
  /-- SLOT_BOUNDARY -/
  | slotBoundary
  /-- RESTORE -/
  | restore (b : Nat)
  /-- MIGRATION -/
  | migration (b : Nat)
  /-- SCAN_START -/
  | scanStart (die : Nat)
  /-- SCAN_END -/
  | scanEnd (c : Nat) (pass : Bool)
  /-- CORE_RETEST -/
  | coreRetest (c : Nat) (p1 : Bool) (p2 : Bool)
  /-- NODE_COMMIT -/
  | nodeCommit (t : Nat)
  /-- ROLLBACK -/
  | rollback (ts : List Nat)
  /-- CONTEXT_END -/
  | contextEnd (x : Nat)
  /-- DIE_FENCE -/
  | dieFence (die : Nat)
  /-- MASTER_ELECTION -/
  | masterElection
  /-- HARDWARE_UNIT_FAILURE -/
  | hardwareUnitFailure (u : HwUnit)
  /-- SPARE_SUBSTITUTION -/
  | spareSubstitution (u : HwUnit)
  /-- CLUSTER_GATING -/
  | clusterGating (k : Nat)
  /-- CLUSTER_UNGATING -/
  | clusterUngating (k : Nat)
  /-- CLASS_REASSIGNMENT -/
  | classReassignment (k : Nat) (cls : Nat)
  /-- LEASE_EXPIRY -/
  | leaseExpiry (x : Nat)
  /-- SLOT_TABLE_COMMIT -/
  | slotTableCommit
  /-- SLOT_KIND_WRITE -/
  | slotKindWrite (slot : Nat) (kind : Nat)
  /-- RPERIOD_WRITE -/
  | rperiodWrite (v : Nat)
  /-- FIRMWARE_REGISTER_WRITE -/
  | firmwareRegisterWrite (w : FwWrite)
  /-- DEVICE_RESET -/
  | deviceReset
  /-- BOOT_ROM_START -/
  | bootRomStart
  /-- BOOT_IMAGE_VERIFY -/
  | bootImageVerify
  /-- HBM_TRAINING -/
  | hbmTraining (ok : Bool)
  /-- FABRIC_JOIN -/
  | fabricJoin (ok : Bool) (dev : Nat) (cyc : Nat)
  /-- ATTESTATION_READY -/
  | attestationReady
  /-- LAUNCH -/
  | launch (h : MsgHdr) (x : Nat) (lpb : DWord) (node : Bool)
  /-- SHAPE_CREATE -/
  | shapeCreate (h : MsgHdr) (x : Nat) (f : ShapeFields)
  /-- SHAPE_FREE -/
  | shapeFree (h : MsgHdr) (x : Nat) (hd : Word)
  /-- IDENT -/
  | ident (h : MsgHdr)
  /-- CTXNEW -/
  | ctxnew (h : MsgHdr) (root : Nat) (tvec : DWord) (quota : Nat)
  /-- CTXEND -/
  | ctxend (h : MsgHdr) (x : Nat)
  /-- LEASE -/
  | lease (h : MsgHdr) (x : Nat) (dur : Nat)
  /-- TELEM -/
  | telem (h : MsgHdr) (x : Nat)
  /-- CAPREAD -/
  | capread (h : MsgHdr)
  /-- KEYSET -/
  | keyset (h : MsgHdr) (slot : Nat) (dig : Nat)
  /-- ATTEST -/
  | attest (h : MsgHdr) (nonce : Nat)
  /-- UNKNOWN_MESSAGE_CODE -/
  | unknownMessageCode (h : MsgHdr) (code : Nat)
  /-- HOST_FABRIC_ACCESS -/
  | hostFabricAccess (a : HostAccess)
  /-- SOFT_ERROR -/
  | softError (e : SoftErr)
  /-- LINK_FAILURE -/
  | linkFailure (k : LinkUnit)
deriving DecidableEq, Repr

end Sys2Proof
end

