-- ==== Sys2Proof/WellFormed.lean ====
section
/-! DEFINITION. Sys2Proof/WellFormed.lean: which instruction words the device accepts (R37, R40–R46 and the
encoding tables of the chapters). A word or bundle that fails a check raises ILLEGAL (R51). -/

namespace Sys2Proof

/-- Operand classes: what a field may hold and whether it is read, written or edited. -/
inductive Cls where
  /-- Must hold `$z` (R42 rule 1). -/
  | none
  /-- The I form's imm32 stands in place of b (R36). -/
  | immediate
  /-- Any source class. -/
  | src
  /-- Destination: mapped, operand-file or `$z` (R177's N). -/
  | per
  /-- Destination: mapped or operand-file only (R205's N). -/
  | lane
  /-- Destination of an integer word: as `per`, or scalar on the scalar unit (R42 rules 4, 6). -/
  | int
  /-- Destination: as `per`, or scalar (R42 rule 6). -/
  | wide
  /-- Destination: mapped, operand-file or scalar (R290). -/
  | laneScalar
  /-- Destination: a scalar register. -/
  | scalarDst
  /-- Destination: a scalar register or `$z`. -/
  | scalarZDst
  /-- Destination: `$sN` with N even (R290, TNEXT). -/
  | evenScalar
  /-- Source: a scalar register. -/
  | scalar
  /-- Source: a scalar register or `$z`. -/
  | scalarZ
  /-- A mapped name read as a name (R125). -/
  | name
  /-- A mapped name that a map edit maps (R125). -/
  | nameDst
  /-- An address operand (R133). -/
  | addr
  /-- An address operand or `$z`. -/
  | addrZ
  /-- CPYL's a: an address operand, or any source for `.l2l` (R226). -/
  | copyAddr
  /-- A link destination: an address operand or `$z` (R135, R137). -/
  | link
  /-- A rejoin register number (R135). -/
  | rejoin
  /-- A destination group of a load (R207). -/
  | load
  /-- A data group of a store (R207). -/
  | store
  /-- ACCST `.reg`'s group of four, or `$z` (R250). -/
  | quad
  /-- A scale pair or `$z` (R250). -/
  | scales
deriving DecidableEq, Repr

/-- The classes of a word's four fields. -/
structure Sig where
  d : Cls
  a : Cls
  b : Cls
  c : Cls
deriving DecidableEq, Repr

/-- Families of words (R45). -/
inductive Family where
  | control | transfer | mapEdit | integer | float | special | crossLane | memory | copy | matrix | task | event
deriving DecidableEq, Repr

/-- A word's operands in one shape. For a binary pair half a is d and b is s; for a unary half a is s (R38). -/
structure WordView where
  d : Reg
  a : Reg
  b : Reg
  c : Reg
  tba : Bool
  tbb : Bool
  tbc : Bool
  g : BitVec 3
  gn : Bool
deriving DecidableEq, Repr

/-- The F form's operands. -/
def FWord.view (w : FWord) : WordView := ⟨w.d, w.a, w.b, w.c, w.tba, w.tbb, w.tbc, w.g, w.gn⟩

/-- The I form's operands: no c, all trap bits 0 (R36). -/
def IWord.view (w : IWord) : WordView := ⟨w.d, w.a, .z, .z, false, false, false, w.g, w.gn⟩

/-- A pair half's operands (R38): no guard. -/
def PHalf.view (h : PHalf) (unary : Bool) : WordView :=
  if unary then ⟨h.d, h.s, .z, .z, h.tbs, false, false, 7, false⟩
  else ⟨h.d, h.d, h.s, .z, h.tbd, h.tbs, false, 7, false⟩

/-- The M form's operands. -/
def MWord.view (w : MWord) : WordView := ⟨w.d, w.a, w.b, .z, false, w.tbb, false, w.g, w.gn⟩

namespace Reg

/-- Is it a mapped name? -/
def isV : Reg → Bool
  | .v _ => true
  | .o _ => false | .last _ => false | .z => false | .s _ => false

/-- Is it an operand-file register? -/
def isO : Reg → Bool
  | .o _ => true
  | .v _ => false | .last _ => false | .z => false | .s _ => false

/-- Is it a last-result register? -/
def isLast : Reg → Bool
  | .last _ => true
  | .v _ => false | .o _ => false | .z => false | .s _ => false

/-- Is it a scalar register? -/
def isScalar : Reg → Bool
  | .s _ => true
  | .v _ => false | .o _ => false | .last _ => false | .z => false

/-- Can it be empty, so that a trap bit counts (R44)? -/
def canEmpty (r : Reg) : Bool := r.isV || r.isO

/-- A scalar register or `$z`, the operands of the scalar unit (R42 rule 4). -/
def scalarOrZ (r : Reg) : Bool := r.isScalar || r == .z

/-- An address operand: a scalar register or an even operand-file register (R133). -/
def isAddr : Reg → Bool
  | .s _ => true
  | .o n => !n.getLsbD 0
  | .v _ => false | .last _ => false | .z => false

/-- A first name that a group of k registers may have, k a power of two (R207). -/
def groupBase (k : Nat) : Reg → Bool
  | .v n => n.toNat % k == 0
  | .o n => n.toNat % k == 0 && n.toNat + k ≤ 8
  | .last _ => false | .z => false | .s _ => false

end Reg

/-- The reserved bits of a modifier field are 0: only bits of `mask` may be set. -/
def modBits (m mask : BitVec 11) : Bool := (m &&& mask) == m

/-- Special-register numbers that exist (R150). -/
def srKnown (n : Nat) : Bool :=
  n ≤ 0x0D || n == 0x10 || n == 0x11 || n == 0x12 || n == 0x14 || n == 0x15 || (0x18 ≤ n && n ≤ 0x1B) ||
  (0x20 ≤ n && n ≤ 0x22) || (0x28 ≤ n && n ≤ 0x2C) || n == 0x30 || n == 0x31

/-- Special registers writable at user level (R150, U). -/
def srUser (n : Nat) : Bool := n == 0x14 || n == 0x15

/-- Special registers writable at supervisor level only (R150, S). -/
def srSuper (n : Nat) : Bool := n == 0x20 || n == 0x22 || (0x28 ≤ n && n ≤ 0x2C)

/-- The number field of SRD and SWR. -/
def FWord.sreg (w : FWord) : Nat := (w.mod &&& 0xFF#11).toNat
/-- The `.hi` bit of SRD and SWR. -/
def FWord.hi (w : FWord) : Bool := w.mod.getLsbD 8

/-- SRD: a known register, and no `.hi` with a scalar destination (R149, R151). -/
def srdOk (w : FWord) : Bool := srKnown w.sreg && !(w.hi && w.d.isScalar)
/-- SWR: a writable register, and no `.hi` with a scalar source (R149, R151). -/
def swrOk (w : FWord) : Bool := (srUser w.sreg || srSuper w.sreg) && !(w.hi && w.a.isScalar)

/-- Second destination: differs from d unless both are `$z`; tbc is 0 (R177, R178). -/
def secondOk (w : FWord) : Bool := (w.c != w.d || w.c == .z) && !w.tbc

/-- 8-bit float format codes (R163, R179). -/
def narrow8 (f : BitVec 11) : Bool := f == 3 || f == 4 || f == 9

/-- FCVT's and CVTEF's fields (R179). -/
def FWord.cfmt (w : FWord) : BitVec 11 := (w.mod >>> 6) &&& 0xF#11
def FWord.cov (w : FWord) : Bool := w.mod.getLsbD 5
def FWord.crnd (w : FWord) : BitVec 11 := (w.mod >>> 2) &&& 7#11
def FWord.cel (w : FWord) : Nat := (w.mod &&& 3#11).toNat

/-- A narrowing's fields: format, rounding, overflow, element position, and b `$z` unless `.rs` (R166, R179, R184). -/
def narrowOk (w : FWord) : Bool :=
  let half := w.cfmt == 1 || w.cfmt == 2
  (half || narrow8 w.cfmt) && w.crnd.ult 5#11 && (w.cfmt != 9 || w.crnd == 0 || w.crnd == 4) &&
  (!w.cov || narrow8 w.cfmt) && (!half || w.cel < 2) && (w.crnd == 4 || (w.b == .z && !w.tbb))

/-- FCVT (R179, R184). -/
def fcvtOk (w : FWord) : Bool :=
  if w.mod.getLsbD 10 then
    (w.cfmt == 1 || w.cfmt == 2 || narrow8 w.cfmt || w.cfmt == 5) && w.crnd == 0 && !w.cov &&
    (!(w.cfmt == 1 || w.cfmt == 2) || w.cel < 2) && w.b == .z && w.c == .z && !w.tbb && !w.tbc
  else narrowOk w

/-- CVTEF (R179, R185). -/
def cvtefOk (w : FWord) : Bool := !w.mod.getLsbD 10 && narrowOk w && secondOk w

/-- F2I and I2F (R179). -/
def intFmtOk (m : BitVec 11) : Bool :=
  modBits m 0x7B#11 && ((m >>> 3) == 6 || (m >>> 3) == 7 || (m >>> 3) == 8)

/-- Bytes of the width field (R206). -/
def widthBytes (f : Nat) : Nat := if f = 0 then 4 else if f = 1 then 8 else if f = 2 then 16 else 1

/-- The width of a load or store, in bytes. -/
def MWord.bytes (w : MWord) : Nat := widthBytes (w.kind >>> 2).toNat

/-- Registers of the word's group (R207). -/
def MWord.regs (w : MWord) : Nat := (w.bytes + 3) / 4

/-- A load's destination group; `sc` says that the instruction may have a scalar destination here: LDK, and LDG with a
scalar a and b = `$z` (R207). -/
def loadOk (w : MWord) (sc : Bool) : Bool :=
  w.d == .z || w.d.groupBase w.regs || (sc && w.d.isScalar && (w.bytes == 4 || w.bytes == 8))

/-- A store's data group (R207). -/
def storeOk (w : MWord) : Bool :=
  w.b == .z || w.b.groupBase w.regs || (w.b.isScalar && (w.bytes == 4 || w.bytes == 8)) ||
  (w.b.isLast && (w.bytes == 4 || w.bytes == 1))

/-- MMA and MMAU: a defined format, scales and byte select only where they mean something (R250, R251). -/
def mmaOk (w : MWord) : Bool :=
  let f := w.kind >>> 1
  f.ult 6#4 && (w.imm >>> 13) == 0 && (f.ult 4#4 || (w.b == .z && !w.imm.getLsbD 12)) &&
  (!f.ult 4#4 || w.kind.getLsbD 0 || !w.imm.getLsbD 12) && (w.b == .z || w.b.groupBase 2)

/-- ACCST: destination kind, register group and rg (R250, R251, R260). -/
def accstOk (w : MWord) : Bool :=
  w.kind.ult 3#4 && (w.imm >>> 15) == 0 &&
  (if w.kind == 2#4 then w.a == .z && (w.d == .z || w.d.groupBase 4) else w.d == .z && ((w.imm >>> 12) &&& 7#20) == 0)

/-- The operands of a word, in one shape for all forms; none for an event. -/
def Instr.view : Instr → Option WordView
  | .nop w => some w.view
  | .bra w => some w.view
  | .br w => some w.view
  | .jmpi w => some w.view
  | .call w => some w.view
  | .calli w => some w.view
  | .ret w => some w.view
  | .jset w => some w.view
  | .jsetI w => some w.view
  | .jwait w => some w.view
  | .elect w => some w.view
  | .exit w => some w.view
  | .trap w => some w.view
  | .bkpt w => some w.view
  | .sysc w => some w.view
  | .sleepc w => some w.view
  | .sleepcI w => some w.view
  | .napto w => some w.view
  | .hint w => some w.view
  | .yield w => some w.view
  | .eret w => some w.view
  | .srd w => some w.view
  | .swr w => some w.view
  | .rnew w => some w.view
  | .rfree w => some w.view
  | .rmov w => some w.view
  | .rswap w => some w.view
  | .ralias w => some w.view
  | .give w => some w.view
  | .take w => some w.view
  | .mapq w => some w.view
  | .sete w => some w.view
  | .empq w => some w.view
  | .iadd w => some w.view
  | .iaddI w => some w.view
  | .iaddPair h => some (h.view false)
  | .isub w => some w.view
  | .isubI w => some w.view
  | .isubPair h => some (h.view false)
  | .imul w => some w.view
  | .imulI w => some w.view
  | .imulPair h => some (h.view false)
  | .imulh w => some w.view
  | .imulhI w => some w.view
  | .imad w => some w.view
  | .imin w => some w.view
  | .iminI w => some w.view
  | .iminPair h => some (h.view false)
  | .imax w => some w.view
  | .imaxI w => some w.view
  | .imaxPair h => some (h.view false)
  | .iabs w => some w.view
  | .iabsPair h => some (h.view true)
  | .and w => some w.view
  | .andI w => some w.view
  | .andPair h => some (h.view false)
  | .or w => some w.view
  | .orI w => some w.view
  | .orPair h => some (h.view false)
  | .xor w => some w.view
  | .xorI w => some w.view
  | .xorPair h => some (h.view false)
  | .not w => some w.view
  | .notPair h => some (h.view true)
  | .shl w => some w.view
  | .shlI w => some w.view
  | .shlPair h => some (h.view false)
  | .shr w => some w.view
  | .shrI w => some w.view
  | .shrPair h => some (h.view false)
  | .sar w => some w.view
  | .sarI w => some w.view
  | .sarPair h => some (h.view false)
  | .rotl w => some w.view
  | .rotlI w => some w.view
  | .popc w => some w.view
  | .popcPair h => some (h.view true)
  | .clz w => some w.view
  | .clzPair h => some (h.view true)
  | .brev w => some w.view
  | .bfx w => some w.view
  | .bfxI w => some w.view
  | .bfi w => some w.view
  | .lea w => some w.view
  | .iset w => some w.view
  | .sel w => some w.view
  | .selI w => some w.view
  | .movi w => some w.view
  | .dup w => some w.view
  | .dupPair h => some (h.view true)
  | .iaddx w => some w.view
  | .idot4 w => some w.view
  | .fadd w => some w.view
  | .faddI w => some w.view
  | .faddPair h => some (h.view false)
  | .fsub w => some w.view
  | .fsubI w => some w.view
  | .fsubPair h => some (h.view false)
  | .fmul w => some w.view
  | .fmulI w => some w.view
  | .fmulPair h => some (h.view false)
  | .ffma w => some w.view
  | .fmin w => some w.view
  | .fminI w => some w.view
  | .fminPair h => some (h.view false)
  | .fmax w => some w.view
  | .fmaxI w => some w.view
  | .fmaxPair h => some (h.view false)
  | .fset w => some w.view
  | .frcp w => some w.view
  | .frsq w => some w.view
  | .fsqrt w => some w.view
  | .fex2 w => some w.view
  | .flg2 w => some w.view
  | .fsin w => some w.view
  | .fcos w => some w.view
  | .ftnh w => some w.view
  | .fcvt w => some w.view
  | .cvtef w => some w.view
  | .hadd2 w => some w.view
  | .hadd2I w => some w.view
  | .hadd2Pair h => some (h.view false)
  | .hmul2 w => some w.view
  | .hmul2I w => some w.view
  | .hmul2Pair h => some (h.view false)
  | .hfma2 w => some w.view
  | .fdot8 w => some w.view
  | .topki w => some w.view
  | .frnd w => some w.view
  | .frndPair h => some (h.view true)
  | .f2i w => some w.view
  | .i2f w => some w.view
  | .qswp w => some w.view
  | .qbrd w => some w.view
  | .shfl w => some w.view
  | .shflI w => some w.view
  | .shflx w => some w.view
  | .shflxI w => some w.view
  | .vote w => some w.view
  | .redw w => some w.view
  | .scanw w => some w.view
  | .matchW w => some w.view
  | .ldg w => some w.view
  | .stg w => some w.view
  | .ldl w => some w.view
  | .stl w => some w.view
  | .ldk w => some w.view
  | .pref w => some w.view
  | .phase w => some w.view
  | .fencel w => some w.view
  | .amo w => some w.view
  | .amol w => some w.view
  | .amos w => some w.view
  | .acas w => some w.view
  | .rctr w => some w.view
  | .rsnap w => some w.view
  | .cflsh w => some w.view
  | .tlbi w => some w.view
  | .cpyl w => some w.view
  | .bcpy w => some w.view
  | .bcpym w => some w.view
  | .bcpyg w => some w.view
  | .bcpya w => some w.view
  | .bcpyq w => some w.view
  | .bbini w => some w.view
  | .bbwt w => some w.view
  | .lnemp w => some w.view
  | .mma w => some w.view
  | .mmau w => some w.view
  | .accz w => some w.view
  | .accld w => some w.view
  | .accst w => some w.view
  | .accvq w => some w.view
  | .unfcf w => some w.view
  | .accsv w => some w.view
  | .accrs w => some w.view
  | .accown w => some w.view
  | .bar w => some w.view
  | .bara w => some w.view
  | .barw w => some w.view
  | .spawn w => some w.view
  | .tnext w => some w.view
  | .ftnew w => some w.view
  | .ftful w => some w.view
  | .ftget w => some w.view
  | .ftwait w => some w.view
  | .ftdrop w => some w.view
  | .resamp w => some w.view
  | .rand w => some w.view
  | .emptyBundle => none
  | .handlerEntry _ _ _ => none
  | .resultLanding _ => none
  | .translation _ => none
  | .memoryFaultDetection _ _ _ => none
  | .loadArrival _ _ => none
  | .registerRepair _ _ _ _ => none
  | .memoryHoldRelease _ _ _ => none
  | .move _ _ _ => none
  | .fill _ _ _ => none
  | .drop _ _ _ => none
  | .icacheFill _ _ => none
  | .icacheDrop _ _ => none
  | .copyStart _ _ => none
  | .copyDeliver _ _ _ => none
  | .late _ _ => none
  | .matrixStart _ _ => none
  | .matrixComplete _ _ => none
  | .tileClaimTransfer _ _ => none
  | .tileAutoload _ _ => none
  | .wakeTime _ _ _ => none
  | .blockCompletion _ => none
  | .blockAdmission _ => none
  | .resampCollective _ => none
  | .drainEnd _ => none
  | .relocationResume _ => none
  | .slotBoundary => none
  | .restore _ => none
  | .migration _ => none
  | .scanStart _ => none
  | .scanEnd _ _ => none
  | .coreRetest _ _ _ => none
  | .nodeCommit _ => none
  | .rollback _ => none
  | .contextEnd _ => none
  | .dieFence _ => none
  | .masterElection => none
  | .hardwareUnitFailure _ => none
  | .spareSubstitution _ => none
  | .clusterGating _ => none
  | .clusterUngating _ => none
  | .classReassignment _ _ => none
  | .leaseExpiry _ => none
  | .slotTableCommit => none
  | .slotKindWrite _ _ => none
  | .rperiodWrite _ => none
  | .firmwareRegisterWrite _ => none
  | .deviceReset => none
  | .bootRomStart => none
  | .bootImageVerify => none
  | .hbmTraining _ => none
  | .fabricJoin _ _ _ => none
  | .attestationReady => none
  | .launch _ _ _ _ => none
  | .shapeCreate _ _ _ => none
  | .shapeFree _ _ _ => none
  | .ident _ => none
  | .ctxnew _ _ _ _ => none
  | .ctxend _ _ => none
  | .lease _ _ _ => none
  | .telem _ _ => none
  | .capread _ => none
  | .keyset _ _ _ => none
  | .attest _ _ => none
  | .unknownMessageCode _ _ => none
  | .hostFabricAccess _ => none
  | .softError _ => none
  | .linkFailure _ => none

/-- The operand classes of fields d, a, b, c (R125, R135, R152, R177, R190, R205, R226, R250, R290). -/
def Instr.sig : Instr → Sig
  | .nop _ => ⟨.none, .none, .none, .none⟩
  | .bra _ => ⟨.none, .none, .immediate, .none⟩
  | .br _ => ⟨.none, .addr, .none, .none⟩
  | .jmpi _ => ⟨.none, .addr, .src, .none⟩
  | .call _ => ⟨.link, .none, .immediate, .none⟩
  | .calli _ => ⟨.link, .addr, .none, .none⟩
  | .ret _ => ⟨.none, .addrZ, .none, .none⟩
  | .jset _ => ⟨.none, .rejoin, .src, .none⟩
  | .jsetI _ => ⟨.none, .rejoin, .immediate, .none⟩
  | .jwait _ => ⟨.none, .rejoin, .none, .none⟩
  | .elect _ => ⟨.scalarZDst, .none, .none, .none⟩
  | .exit _ => ⟨.none, .none, .none, .none⟩
  | .trap _ => ⟨.none, .none, .immediate, .none⟩
  | .bkpt _ => ⟨.none, .none, .immediate, .none⟩
  | .sysc _ => ⟨.none, .none, .immediate, .none⟩
  | .sleepc _ => ⟨.none, .none, .scalarZ, .none⟩
  | .sleepcI _ => ⟨.none, .none, .immediate, .none⟩
  | .napto _ => ⟨.none, .scalar, .none, .none⟩
  | .hint _ => ⟨.none, .none, .none, .none⟩
  | .yield _ => ⟨.none, .none, .none, .none⟩
  | .eret _ => ⟨.none, .none, .none, .none⟩
  | .srd _ => ⟨.wide, .none, .none, .none⟩
  | .swr _ => ⟨.none, .src, .none, .none⟩
  | .rnew _ => ⟨.nameDst, .none, .none, .none⟩
  | .rfree _ => ⟨.none, .name, .none, .none⟩
  | .rmov _ => ⟨.nameDst, .name, .none, .none⟩
  | .rswap _ => ⟨.nameDst, .name, .none, .none⟩
  | .ralias _ => ⟨.nameDst, .name, .none, .none⟩
  | .give _ => ⟨.none, .name, .scalarZ, .none⟩
  | .take _ => ⟨.nameDst, .none, .scalarZ, .none⟩
  | .mapq _ => ⟨.scalarDst, .name, .none, .none⟩
  | .sete _ => ⟨.none, .name, .none, .none⟩
  | .empq _ => ⟨.scalarDst, .name, .none, .none⟩
  | .iadd _ => ⟨.int, .src, .src, .none⟩
  | .iaddI _ => ⟨.int, .src, .immediate, .none⟩
  | .iaddPair _ => ⟨.int, .src, .src, .none⟩
  | .isub _ => ⟨.int, .src, .src, .none⟩
  | .isubI _ => ⟨.int, .src, .immediate, .none⟩
  | .isubPair _ => ⟨.int, .src, .src, .none⟩
  | .imul _ => ⟨.int, .src, .src, .none⟩
  | .imulI _ => ⟨.int, .src, .immediate, .none⟩
  | .imulPair _ => ⟨.int, .src, .src, .none⟩
  | .imulh _ => ⟨.int, .src, .src, .none⟩
  | .imulhI _ => ⟨.int, .src, .immediate, .none⟩
  | .imad _ => ⟨.int, .src, .src, .src⟩
  | .imin _ => ⟨.int, .src, .src, .none⟩
  | .iminI _ => ⟨.int, .src, .immediate, .none⟩
  | .iminPair _ => ⟨.int, .src, .src, .none⟩
  | .imax _ => ⟨.int, .src, .src, .none⟩
  | .imaxI _ => ⟨.int, .src, .immediate, .none⟩
  | .imaxPair _ => ⟨.int, .src, .src, .none⟩
  | .iabs _ => ⟨.int, .src, .none, .none⟩
  | .iabsPair _ => ⟨.int, .src, .none, .none⟩
  | .and _ => ⟨.int, .src, .src, .none⟩
  | .andI _ => ⟨.int, .src, .immediate, .none⟩
  | .andPair _ => ⟨.int, .src, .src, .none⟩
  | .or _ => ⟨.int, .src, .src, .none⟩
  | .orI _ => ⟨.int, .src, .immediate, .none⟩
  | .orPair _ => ⟨.int, .src, .src, .none⟩
  | .xor _ => ⟨.int, .src, .src, .none⟩
  | .xorI _ => ⟨.int, .src, .immediate, .none⟩
  | .xorPair _ => ⟨.int, .src, .src, .none⟩
  | .not _ => ⟨.int, .src, .none, .none⟩
  | .notPair _ => ⟨.int, .src, .none, .none⟩
  | .shl _ => ⟨.int, .src, .src, .none⟩
  | .shlI _ => ⟨.int, .src, .immediate, .none⟩
  | .shlPair _ => ⟨.int, .src, .src, .none⟩
  | .shr _ => ⟨.int, .src, .src, .none⟩
  | .shrI _ => ⟨.int, .src, .immediate, .none⟩
  | .shrPair _ => ⟨.int, .src, .src, .none⟩
  | .sar _ => ⟨.int, .src, .src, .none⟩
  | .sarI _ => ⟨.int, .src, .immediate, .none⟩
  | .sarPair _ => ⟨.int, .src, .src, .none⟩
  | .rotl _ => ⟨.int, .src, .src, .none⟩
  | .rotlI _ => ⟨.int, .src, .immediate, .none⟩
  | .popc _ => ⟨.int, .src, .none, .none⟩
  | .popcPair _ => ⟨.int, .src, .none, .none⟩
  | .clz _ => ⟨.int, .src, .none, .none⟩
  | .clzPair _ => ⟨.int, .src, .none, .none⟩
  | .brev _ => ⟨.int, .src, .none, .none⟩
  | .bfx _ => ⟨.int, .src, .src, .none⟩
  | .bfxI _ => ⟨.int, .src, .immediate, .none⟩
  | .bfi _ => ⟨.int, .src, .src, .src⟩
  | .lea _ => ⟨.int, .src, .src, .none⟩
  | .iset _ => ⟨.int, .src, .src, .none⟩
  | .sel _ => ⟨.int, .src, .src, .none⟩
  | .selI _ => ⟨.int, .src, .immediate, .none⟩
  | .movi _ => ⟨.int, .none, .immediate, .none⟩
  | .dup _ => ⟨.int, .src, .none, .none⟩
  | .dupPair _ => ⟨.int, .src, .none, .none⟩
  | .iaddx _ => ⟨.int, .src, .src, .none⟩
  | .idot4 _ => ⟨.int, .src, .src, .src⟩
  | .fadd _ => ⟨.per, .src, .src, .none⟩
  | .faddI _ => ⟨.per, .src, .immediate, .none⟩
  | .faddPair _ => ⟨.per, .src, .src, .none⟩
  | .fsub _ => ⟨.per, .src, .src, .none⟩
  | .fsubI _ => ⟨.per, .src, .immediate, .none⟩
  | .fsubPair _ => ⟨.per, .src, .src, .none⟩
  | .fmul _ => ⟨.per, .src, .src, .none⟩
  | .fmulI _ => ⟨.per, .src, .immediate, .none⟩
  | .fmulPair _ => ⟨.per, .src, .src, .none⟩
  | .ffma _ => ⟨.per, .src, .src, .src⟩
  | .fmin _ => ⟨.per, .src, .src, .none⟩
  | .fminI _ => ⟨.per, .src, .immediate, .none⟩
  | .fminPair _ => ⟨.per, .src, .src, .none⟩
  | .fmax _ => ⟨.per, .src, .src, .none⟩
  | .fmaxI _ => ⟨.per, .src, .immediate, .none⟩
  | .fmaxPair _ => ⟨.per, .src, .src, .none⟩
  | .fset _ => ⟨.per, .src, .src, .none⟩
  | .frcp _ => ⟨.per, .src, .none, .none⟩
  | .frsq _ => ⟨.per, .src, .none, .none⟩
  | .fsqrt _ => ⟨.per, .src, .none, .none⟩
  | .fex2 _ => ⟨.per, .src, .none, .none⟩
  | .flg2 _ => ⟨.per, .src, .none, .none⟩
  | .fsin _ => ⟨.per, .src, .none, .none⟩
  | .fcos _ => ⟨.per, .src, .none, .none⟩
  | .ftnh _ => ⟨.per, .src, .none, .none⟩
  | .fcvt _ => ⟨.per, .src, .src, .src⟩
  | .cvtef _ => ⟨.per, .src, .src, .per⟩
  | .hadd2 _ => ⟨.per, .src, .src, .none⟩
  | .hadd2I _ => ⟨.per, .src, .immediate, .none⟩
  | .hadd2Pair _ => ⟨.per, .src, .src, .none⟩
  | .hmul2 _ => ⟨.per, .src, .src, .none⟩
  | .hmul2I _ => ⟨.per, .src, .immediate, .none⟩
  | .hmul2Pair _ => ⟨.per, .src, .src, .none⟩
  | .hfma2 _ => ⟨.per, .src, .src, .src⟩
  | .fdot8 _ => ⟨.per, .src, .src, .src⟩
  | .topki _ => ⟨.per, .src, .src, .per⟩
  | .frnd _ => ⟨.per, .src, .none, .none⟩
  | .frndPair _ => ⟨.per, .src, .none, .none⟩
  | .f2i _ => ⟨.per, .src, .none, .none⟩
  | .i2f _ => ⟨.per, .src, .none, .none⟩
  | .qswp _ => ⟨.per, .src, .none, .none⟩
  | .qbrd _ => ⟨.per, .src, .none, .none⟩
  | .shfl _ => ⟨.per, .src, .src, .none⟩
  | .shflI _ => ⟨.per, .src, .immediate, .none⟩
  | .shflx _ => ⟨.per, .src, .src, .none⟩
  | .shflxI _ => ⟨.per, .src, .immediate, .none⟩
  | .vote _ => ⟨.wide, .src, .none, .none⟩
  | .redw _ => ⟨.wide, .src, .none, .none⟩
  | .scanw _ => ⟨.per, .src, .none, .none⟩
  | .matchW _ => ⟨.wide, .src, .none, .none⟩
  | .ldg _ => ⟨.load, .addr, .src, .none⟩
  | .stg _ => ⟨.none, .addr, .store, .none⟩
  | .ldl _ => ⟨.load, .src, .src, .none⟩
  | .stl _ => ⟨.none, .src, .store, .none⟩
  | .ldk _ => ⟨.load, .src, .none, .none⟩
  | .pref _ => ⟨.none, .addr, .src, .none⟩
  | .phase _ => ⟨.none, .none, .none, .none⟩
  | .fencel _ => ⟨.none, .none, .none, .none⟩
  | .amo _ => ⟨.per, .addr, .src, .none⟩
  | .amol _ => ⟨.per, .src, .src, .none⟩
  | .amos _ => ⟨.none, .addr, .src, .none⟩
  | .acas _ => ⟨.per, .addr, .src, .none⟩
  | .rctr _ => ⟨.per, .src, .src, .none⟩
  | .rsnap _ => ⟨.lane, .src, .none, .none⟩
  | .cflsh _ => ⟨.none, .addrZ, .none, .none⟩
  | .tlbi _ => ⟨.none, .addrZ, .scalarZ, .none⟩
  | .cpyl _ => ⟨.scalarZDst, .copyAddr, .src, .none⟩
  | .bcpy _ => ⟨.scalarZDst, .scalarZ, .scalarZ, .none⟩
  | .bcpym _ => ⟨.scalarZDst, .scalarZ, .scalarZ, .none⟩
  | .bcpyg _ => ⟨.scalarZDst, .scalarZ, .scalarZ, .none⟩
  | .bcpya _ => ⟨.scalarZDst, .scalarZ, .scalarZ, .none⟩
  | .bcpyq _ => ⟨.scalarZDst, .scalarZ, .scalarZ, .none⟩
  | .bbini _ => ⟨.none, .scalarZ, .scalarZ, .none⟩
  | .bbwt _ => ⟨.scalarZDst, .scalarZ, .none, .none⟩
  | .lnemp _ => ⟨.none, .scalarZ, .scalarZ, .none⟩
  | .mma _ => ⟨.none, .scalarZ, .scales, .none⟩
  | .mmau _ => ⟨.none, .scalarZ, .scales, .none⟩
  | .accz _ => ⟨.none, .none, .none, .none⟩
  | .accld _ => ⟨.none, .scalarZ, .none, .none⟩
  | .accst _ => ⟨.quad, .scalarZ, .none, .none⟩
  | .accvq _ => ⟨.scalarDst, .none, .none, .none⟩
  | .unfcf _ => ⟨.none, .scalarZ, .scalarZ, .none⟩
  | .accsv _ => ⟨.none, .none, .scalarZ, .none⟩
  | .accrs _ => ⟨.none, .none, .scalarZ, .none⟩
  | .accown _ => ⟨.none, .none, .none, .none⟩
  | .bar _ => ⟨.none, .none, .src, .none⟩
  | .bara _ => ⟨.scalarZDst, .none, .src, .none⟩
  | .barw _ => ⟨.none, .src, .none, .none⟩
  | .spawn _ => ⟨.per, .addr, .none, .none⟩
  | .tnext _ => ⟨.evenScalar, .none, .none, .none⟩
  | .ftnew _ => ⟨.laneScalar, .none, .src, .none⟩
  | .ftful _ => ⟨.none, .src, .src, .none⟩
  | .ftget _ => ⟨.laneScalar, .src, .none, .none⟩
  | .ftwait _ => ⟨.wide, .src, .none, .none⟩
  | .ftdrop _ => ⟨.none, .src, .none, .none⟩
  | .resamp _ => ⟨.per, .src, .scalarZ, .none⟩
  | .rand _ => ⟨.laneScalar, .src, .none, .none⟩
  | .emptyBundle => ⟨.none, .none, .none, .none⟩
  | .handlerEntry _ _ _ => ⟨.none, .none, .none, .none⟩
  | .resultLanding _ => ⟨.none, .none, .none, .none⟩
  | .translation _ => ⟨.none, .none, .none, .none⟩
  | .memoryFaultDetection _ _ _ => ⟨.none, .none, .none, .none⟩
  | .loadArrival _ _ => ⟨.none, .none, .none, .none⟩
  | .registerRepair _ _ _ _ => ⟨.none, .none, .none, .none⟩
  | .memoryHoldRelease _ _ _ => ⟨.none, .none, .none, .none⟩
  | .move _ _ _ => ⟨.none, .none, .none, .none⟩
  | .fill _ _ _ => ⟨.none, .none, .none, .none⟩
  | .drop _ _ _ => ⟨.none, .none, .none, .none⟩
  | .icacheFill _ _ => ⟨.none, .none, .none, .none⟩
  | .icacheDrop _ _ => ⟨.none, .none, .none, .none⟩
  | .copyStart _ _ => ⟨.none, .none, .none, .none⟩
  | .copyDeliver _ _ _ => ⟨.none, .none, .none, .none⟩
  | .late _ _ => ⟨.none, .none, .none, .none⟩
  | .matrixStart _ _ => ⟨.none, .none, .none, .none⟩
  | .matrixComplete _ _ => ⟨.none, .none, .none, .none⟩
  | .tileClaimTransfer _ _ => ⟨.none, .none, .none, .none⟩
  | .tileAutoload _ _ => ⟨.none, .none, .none, .none⟩
  | .wakeTime _ _ _ => ⟨.none, .none, .none, .none⟩
  | .blockCompletion _ => ⟨.none, .none, .none, .none⟩
  | .blockAdmission _ => ⟨.none, .none, .none, .none⟩
  | .resampCollective _ => ⟨.none, .none, .none, .none⟩
  | .drainEnd _ => ⟨.none, .none, .none, .none⟩
  | .relocationResume _ => ⟨.none, .none, .none, .none⟩
  | .slotBoundary => ⟨.none, .none, .none, .none⟩
  | .restore _ => ⟨.none, .none, .none, .none⟩
  | .migration _ => ⟨.none, .none, .none, .none⟩
  | .scanStart _ => ⟨.none, .none, .none, .none⟩
  | .scanEnd _ _ => ⟨.none, .none, .none, .none⟩
  | .coreRetest _ _ _ => ⟨.none, .none, .none, .none⟩
  | .nodeCommit _ => ⟨.none, .none, .none, .none⟩
  | .rollback _ => ⟨.none, .none, .none, .none⟩
  | .contextEnd _ => ⟨.none, .none, .none, .none⟩
  | .dieFence _ => ⟨.none, .none, .none, .none⟩
  | .masterElection => ⟨.none, .none, .none, .none⟩
  | .hardwareUnitFailure _ => ⟨.none, .none, .none, .none⟩
  | .spareSubstitution _ => ⟨.none, .none, .none, .none⟩
  | .clusterGating _ => ⟨.none, .none, .none, .none⟩
  | .clusterUngating _ => ⟨.none, .none, .none, .none⟩
  | .classReassignment _ _ => ⟨.none, .none, .none, .none⟩
  | .leaseExpiry _ => ⟨.none, .none, .none, .none⟩
  | .slotTableCommit => ⟨.none, .none, .none, .none⟩
  | .slotKindWrite _ _ => ⟨.none, .none, .none, .none⟩
  | .rperiodWrite _ => ⟨.none, .none, .none, .none⟩
  | .firmwareRegisterWrite _ => ⟨.none, .none, .none, .none⟩
  | .deviceReset => ⟨.none, .none, .none, .none⟩
  | .bootRomStart => ⟨.none, .none, .none, .none⟩
  | .bootImageVerify => ⟨.none, .none, .none, .none⟩
  | .hbmTraining _ => ⟨.none, .none, .none, .none⟩
  | .fabricJoin _ _ _ => ⟨.none, .none, .none, .none⟩
  | .attestationReady => ⟨.none, .none, .none, .none⟩
  | .launch _ _ _ _ => ⟨.none, .none, .none, .none⟩
  | .shapeCreate _ _ _ => ⟨.none, .none, .none, .none⟩
  | .shapeFree _ _ _ => ⟨.none, .none, .none, .none⟩
  | .ident _ => ⟨.none, .none, .none, .none⟩
  | .ctxnew _ _ _ _ => ⟨.none, .none, .none, .none⟩
  | .ctxend _ _ => ⟨.none, .none, .none, .none⟩
  | .lease _ _ _ => ⟨.none, .none, .none, .none⟩
  | .telem _ _ => ⟨.none, .none, .none, .none⟩
  | .capread _ => ⟨.none, .none, .none, .none⟩
  | .keyset _ _ _ => ⟨.none, .none, .none, .none⟩
  | .attest _ _ => ⟨.none, .none, .none, .none⟩
  | .unknownMessageCode _ _ => ⟨.none, .none, .none, .none⟩
  | .hostFabricAccess _ => ⟨.none, .none, .none, .none⟩
  | .softError _ => ⟨.none, .none, .none, .none⟩
  | .linkFailure _ => ⟨.none, .none, .none, .none⟩

/-- The family of a word (R45, R47–R49). -/
def Instr.family : Instr → Family
  | .nop _ => .control
  | .bra _ => .transfer
  | .br _ => .transfer
  | .jmpi _ => .transfer
  | .call _ => .transfer
  | .calli _ => .transfer
  | .ret _ => .transfer
  | .jset _ => .control
  | .jsetI _ => .control
  | .jwait _ => .control
  | .elect _ => .control
  | .exit _ => .transfer
  | .trap _ => .transfer
  | .bkpt _ => .transfer
  | .sysc _ => .transfer
  | .sleepc _ => .control
  | .sleepcI _ => .control
  | .napto _ => .control
  | .hint _ => .control
  | .yield _ => .control
  | .eret _ => .transfer
  | .srd _ => .control
  | .swr _ => .control
  | .rnew _ => .mapEdit
  | .rfree _ => .mapEdit
  | .rmov _ => .mapEdit
  | .rswap _ => .mapEdit
  | .ralias _ => .mapEdit
  | .give _ => .mapEdit
  | .take _ => .mapEdit
  | .mapq _ => .mapEdit
  | .sete _ => .mapEdit
  | .empq _ => .mapEdit
  | .iadd _ => .integer
  | .iaddI _ => .integer
  | .iaddPair _ => .integer
  | .isub _ => .integer
  | .isubI _ => .integer
  | .isubPair _ => .integer
  | .imul _ => .integer
  | .imulI _ => .integer
  | .imulPair _ => .integer
  | .imulh _ => .integer
  | .imulhI _ => .integer
  | .imad _ => .integer
  | .imin _ => .integer
  | .iminI _ => .integer
  | .iminPair _ => .integer
  | .imax _ => .integer
  | .imaxI _ => .integer
  | .imaxPair _ => .integer
  | .iabs _ => .integer
  | .iabsPair _ => .integer
  | .and _ => .integer
  | .andI _ => .integer
  | .andPair _ => .integer
  | .or _ => .integer
  | .orI _ => .integer
  | .orPair _ => .integer
  | .xor _ => .integer
  | .xorI _ => .integer
  | .xorPair _ => .integer
  | .not _ => .integer
  | .notPair _ => .integer
  | .shl _ => .integer
  | .shlI _ => .integer
  | .shlPair _ => .integer
  | .shr _ => .integer
  | .shrI _ => .integer
  | .shrPair _ => .integer
  | .sar _ => .integer
  | .sarI _ => .integer
  | .sarPair _ => .integer
  | .rotl _ => .integer
  | .rotlI _ => .integer
  | .popc _ => .integer
  | .popcPair _ => .integer
  | .clz _ => .integer
  | .clzPair _ => .integer
  | .brev _ => .integer
  | .bfx _ => .integer
  | .bfxI _ => .integer
  | .bfi _ => .integer
  | .lea _ => .integer
  | .iset _ => .integer
  | .sel _ => .integer
  | .selI _ => .integer
  | .movi _ => .integer
  | .dup _ => .integer
  | .dupPair _ => .integer
  | .iaddx _ => .integer
  | .idot4 _ => .integer
  | .fadd _ => .float
  | .faddI _ => .float
  | .faddPair _ => .float
  | .fsub _ => .float
  | .fsubI _ => .float
  | .fsubPair _ => .float
  | .fmul _ => .float
  | .fmulI _ => .float
  | .fmulPair _ => .float
  | .ffma _ => .float
  | .fmin _ => .float
  | .fminI _ => .float
  | .fminPair _ => .float
  | .fmax _ => .float
  | .fmaxI _ => .float
  | .fmaxPair _ => .float
  | .fset _ => .float
  | .frcp _ => .special
  | .frsq _ => .special
  | .fsqrt _ => .special
  | .fex2 _ => .special
  | .flg2 _ => .special
  | .fsin _ => .special
  | .fcos _ => .special
  | .ftnh _ => .special
  | .fcvt _ => .float
  | .cvtef _ => .float
  | .hadd2 _ => .float
  | .hadd2I _ => .float
  | .hadd2Pair _ => .float
  | .hmul2 _ => .float
  | .hmul2I _ => .float
  | .hmul2Pair _ => .float
  | .hfma2 _ => .float
  | .fdot8 _ => .float
  | .topki _ => .float
  | .frnd _ => .float
  | .frndPair _ => .float
  | .f2i _ => .float
  | .i2f _ => .float
  | .qswp _ => .crossLane
  | .qbrd _ => .crossLane
  | .shfl _ => .crossLane
  | .shflI _ => .crossLane
  | .shflx _ => .crossLane
  | .shflxI _ => .crossLane
  | .vote _ => .crossLane
  | .redw _ => .crossLane
  | .scanw _ => .crossLane
  | .matchW _ => .crossLane
  | .ldg _ => .memory
  | .stg _ => .memory
  | .ldl _ => .memory
  | .stl _ => .memory
  | .ldk _ => .memory
  | .pref _ => .memory
  | .phase _ => .memory
  | .fencel _ => .memory
  | .amo _ => .memory
  | .amol _ => .memory
  | .amos _ => .memory
  | .acas _ => .memory
  | .rctr _ => .memory
  | .rsnap _ => .memory
  | .cflsh _ => .memory
  | .tlbi _ => .memory
  | .cpyl _ => .copy
  | .bcpy _ => .copy
  | .bcpym _ => .copy
  | .bcpyg _ => .copy
  | .bcpya _ => .copy
  | .bcpyq _ => .copy
  | .bbini _ => .copy
  | .bbwt _ => .copy
  | .lnemp _ => .copy
  | .mma _ => .matrix
  | .mmau _ => .matrix
  | .accz _ => .matrix
  | .accld _ => .matrix
  | .accst _ => .matrix
  | .accvq _ => .matrix
  | .unfcf _ => .matrix
  | .accsv _ => .matrix
  | .accrs _ => .matrix
  | .accown _ => .matrix
  | .bar _ => .task
  | .bara _ => .task
  | .barw _ => .task
  | .spawn _ => .task
  | .tnext _ => .task
  | .ftnew _ => .task
  | .ftful _ => .task
  | .ftget _ => .task
  | .ftwait _ => .task
  | .ftdrop _ => .task
  | .resamp _ => .task
  | .rand _ => .task
  | .emptyBundle => .event
  | .handlerEntry _ _ _ => .event
  | .resultLanding _ => .event
  | .translation _ => .event
  | .memoryFaultDetection _ _ _ => .event
  | .loadArrival _ _ => .event
  | .registerRepair _ _ _ _ => .event
  | .memoryHoldRelease _ _ _ => .event
  | .move _ _ _ => .event
  | .fill _ _ _ => .event
  | .drop _ _ _ => .event
  | .icacheFill _ _ => .event
  | .icacheDrop _ _ => .event
  | .copyStart _ _ => .event
  | .copyDeliver _ _ _ => .event
  | .late _ _ => .event
  | .matrixStart _ _ => .event
  | .matrixComplete _ _ => .event
  | .tileClaimTransfer _ _ => .event
  | .tileAutoload _ _ => .event
  | .wakeTime _ _ _ => .event
  | .blockCompletion _ => .event
  | .blockAdmission _ => .event
  | .resampCollective _ => .event
  | .drainEnd _ => .event
  | .relocationResume _ => .event
  | .slotBoundary => .event
  | .restore _ => .event
  | .migration _ => .event
  | .scanStart _ => .event
  | .scanEnd _ _ => .event
  | .coreRetest _ _ _ => .event
  | .nodeCommit _ => .event
  | .rollback _ => .event
  | .contextEnd _ => .event
  | .dieFence _ => .event
  | .masterElection => .event
  | .hardwareUnitFailure _ => .event
  | .spareSubstitution _ => .event
  | .clusterGating _ => .event
  | .clusterUngating _ => .event
  | .classReassignment _ _ => .event
  | .leaseExpiry _ => .event
  | .slotTableCommit => .event
  | .slotKindWrite _ _ => .event
  | .rperiodWrite _ => .event
  | .firmwareRegisterWrite _ => .event
  | .deviceReset => .event
  | .bootRomStart => .event
  | .bootImageVerify => .event
  | .hbmTraining _ => .event
  | .fabricJoin _ _ _ => .event
  | .attestationReady => .event
  | .launch _ _ _ _ => .event
  | .shapeCreate _ _ _ => .event
  | .shapeFree _ _ _ => .event
  | .ident _ => .event
  | .ctxnew _ _ _ _ => .event
  | .ctxend _ _ => .event
  | .lease _ _ _ => .event
  | .telem _ _ => .event
  | .capread _ => .event
  | .keyset _ _ _ => .event
  | .attest _ _ => .event
  | .unknownMessageCode _ _ => .event
  | .hostFabricAccess _ => .event
  | .softError _ => .event
  | .linkFailure _ => .event

/-- Words that honour the guard (R43). -/
def Instr.guarded : Instr → Bool
  | .nop _ => false
  | .bra _ => true
  | .br _ => true
  | .jmpi _ => true
  | .call _ => true
  | .calli _ => true
  | .ret _ => true
  | .jset _ => false
  | .jsetI _ => false
  | .jwait _ => false
  | .elect _ => false
  | .exit _ => false
  | .trap _ => false
  | .bkpt _ => false
  | .sysc _ => false
  | .sleepc _ => false
  | .sleepcI _ => false
  | .napto _ => false
  | .hint _ => false
  | .yield _ => false
  | .eret _ => false
  | .srd _ => false
  | .swr _ => false
  | .rnew _ => false
  | .rfree _ => false
  | .rmov _ => false
  | .rswap _ => false
  | .ralias _ => false
  | .give _ => false
  | .take _ => false
  | .mapq _ => false
  | .sete _ => false
  | .empq _ => false
  | .iadd _ => false
  | .iaddI _ => false
  | .iaddPair _ => false
  | .isub _ => false
  | .isubI _ => false
  | .isubPair _ => false
  | .imul _ => false
  | .imulI _ => false
  | .imulPair _ => false
  | .imulh _ => false
  | .imulhI _ => false
  | .imad _ => false
  | .imin _ => false
  | .iminI _ => false
  | .iminPair _ => false
  | .imax _ => false
  | .imaxI _ => false
  | .imaxPair _ => false
  | .iabs _ => false
  | .iabsPair _ => false
  | .and _ => false
  | .andI _ => false
  | .andPair _ => false
  | .or _ => false
  | .orI _ => false
  | .orPair _ => false
  | .xor _ => false
  | .xorI _ => false
  | .xorPair _ => false
  | .not _ => false
  | .notPair _ => false
  | .shl _ => false
  | .shlI _ => false
  | .shlPair _ => false
  | .shr _ => false
  | .shrI _ => false
  | .shrPair _ => false
  | .sar _ => false
  | .sarI _ => false
  | .sarPair _ => false
  | .rotl _ => false
  | .rotlI _ => false
  | .popc _ => false
  | .popcPair _ => false
  | .clz _ => false
  | .clzPair _ => false
  | .brev _ => false
  | .bfx _ => false
  | .bfxI _ => false
  | .bfi _ => false
  | .lea _ => false
  | .iset _ => false
  | .sel _ => true
  | .selI _ => true
  | .movi _ => false
  | .dup _ => false
  | .dupPair _ => false
  | .iaddx _ => false
  | .idot4 _ => false
  | .fadd _ => false
  | .faddI _ => false
  | .faddPair _ => false
  | .fsub _ => false
  | .fsubI _ => false
  | .fsubPair _ => false
  | .fmul _ => false
  | .fmulI _ => false
  | .fmulPair _ => false
  | .ffma _ => false
  | .fmin _ => false
  | .fminI _ => false
  | .fminPair _ => false
  | .fmax _ => false
  | .fmaxI _ => false
  | .fmaxPair _ => false
  | .fset _ => false
  | .frcp _ => false
  | .frsq _ => false
  | .fsqrt _ => false
  | .fex2 _ => false
  | .flg2 _ => false
  | .fsin _ => false
  | .fcos _ => false
  | .ftnh _ => false
  | .fcvt _ => false
  | .cvtef _ => false
  | .hadd2 _ => false
  | .hadd2I _ => false
  | .hadd2Pair _ => false
  | .hmul2 _ => false
  | .hmul2I _ => false
  | .hmul2Pair _ => false
  | .hfma2 _ => false
  | .fdot8 _ => false
  | .topki _ => false
  | .frnd _ => false
  | .frndPair _ => false
  | .f2i _ => false
  | .i2f _ => false
  | .qswp _ => false
  | .qbrd _ => false
  | .shfl _ => false
  | .shflI _ => false
  | .shflx _ => false
  | .shflxI _ => false
  | .vote _ => false
  | .redw _ => false
  | .scanw _ => false
  | .matchW _ => false
  | .ldg _ => false
  | .stg _ => true
  | .ldl _ => false
  | .stl _ => true
  | .ldk _ => false
  | .pref _ => false
  | .phase _ => false
  | .fencel _ => false
  | .amo _ => true
  | .amol _ => true
  | .amos _ => true
  | .acas _ => true
  | .rctr _ => false
  | .rsnap _ => false
  | .cflsh _ => false
  | .tlbi _ => false
  | .cpyl _ => false
  | .bcpy _ => false
  | .bcpym _ => false
  | .bcpyg _ => false
  | .bcpya _ => false
  | .bcpyq _ => false
  | .bbini _ => false
  | .bbwt _ => false
  | .lnemp _ => false
  | .mma _ => false
  | .mmau _ => false
  | .accz _ => false
  | .accld _ => false
  | .accst _ => false
  | .accvq _ => false
  | .unfcf _ => false
  | .accsv _ => false
  | .accrs _ => false
  | .accown _ => false
  | .bar _ => false
  | .bara _ => false
  | .barw _ => false
  | .spawn _ => false
  | .tnext _ => false
  | .ftnew _ => false
  | .ftful _ => false
  | .ftget _ => false
  | .ftwait _ => false
  | .ftdrop _ => false
  | .resamp _ => false
  | .rand _ => false
  | .emptyBundle => false
  | .handlerEntry _ _ _ => false
  | .resultLanding _ => false
  | .translation _ => false
  | .memoryFaultDetection _ _ _ => false
  | .loadArrival _ _ => false
  | .registerRepair _ _ _ _ => false
  | .memoryHoldRelease _ _ _ => false
  | .move _ _ _ => false
  | .fill _ _ _ => false
  | .drop _ _ _ => false
  | .icacheFill _ _ => false
  | .icacheDrop _ _ => false
  | .copyStart _ _ => false
  | .copyDeliver _ _ _ => false
  | .late _ _ => false
  | .matrixStart _ _ => false
  | .matrixComplete _ _ => false
  | .tileClaimTransfer _ _ => false
  | .tileAutoload _ _ => false
  | .wakeTime _ _ _ => false
  | .blockCompletion _ => false
  | .blockAdmission _ => false
  | .resampCollective _ => false
  | .drainEnd _ => false
  | .relocationResume _ => false
  | .slotBoundary => false
  | .restore _ => false
  | .migration _ => false
  | .scanStart _ => false
  | .scanEnd _ _ => false
  | .coreRetest _ _ _ => false
  | .nodeCommit _ => false
  | .rollback _ => false
  | .contextEnd _ => false
  | .dieFence _ => false
  | .masterElection => false
  | .hardwareUnitFailure _ => false
  | .spareSubstitution _ => false
  | .clusterGating _ => false
  | .clusterUngating _ => false
  | .classReassignment _ _ => false
  | .leaseExpiry _ => false
  | .slotTableCommit => false
  | .slotKindWrite _ _ => false
  | .rperiodWrite _ => false
  | .firmwareRegisterWrite _ => false
  | .deviceReset => false
  | .bootRomStart => false
  | .bootImageVerify => false
  | .hbmTraining _ => false
  | .fabricJoin _ _ _ => false
  | .attestationReady => false
  | .launch _ _ _ _ => false
  | .shapeCreate _ _ _ => false
  | .shapeFree _ _ _ => false
  | .ident _ => false
  | .ctxnew _ _ _ _ => false
  | .ctxend _ _ => false
  | .lease _ _ _ => false
  | .telem _ _ => false
  | .capread _ => false
  | .keyset _ _ _ => false
  | .attest _ _ => false
  | .unknownMessageCode _ _ => false
  | .hostFabricAccess _ => false
  | .softError _ => false
  | .linkFailure _ => false

/-- Does the word run on the scalar unit: an integer word whose registers are all scalar or `$z` (R42 rule 4)? -/
def Instr.scalarUnit (i : Instr) : Bool :=
  match i.view with
  | some v => i.family == .integer && v.d.scalarOrZ && v.a.scalarOrZ && v.b.scalarOrZ && v.c.scalarOrZ
  | none => false

/-- A register fits an operand class. `su`: the word runs on the scalar unit; `copyGlobal`: CPYL's a is a global address. -/
def Reg.fits (r : Reg) (su copyGlobal : Bool) : Cls → Bool
  | .none => r == .z
  | .immediate => r == .z
  | .src => true
  | .per => r.canEmpty || r == .z
  | .lane => r.canEmpty
  | .int => r.canEmpty || r == .z || (r.isScalar && su)
  | .wide => r.canEmpty || r == .z || r.isScalar
  | .laneScalar => r.canEmpty || r.isScalar
  | .scalarDst => r.isScalar
  | .scalarZDst => r.scalarOrZ
  | .evenScalar => match r with
    | .s n => !n.getLsbD 0
    | .v _ => false | .o _ => false | .last _ => false | .z => false
  | .scalar => r.isScalar
  | .scalarZ => r.scalarOrZ
  | .name => r.isV
  | .nameDst => r.isV
  | .addr => r.isAddr
  | .addrZ => r.isAddr || r == .z
  | .copyAddr => !copyGlobal || r.isAddr
  | .link => r.isAddr || r == .z
  | .rejoin => match r with
    | .v n => n.ult 8#8
    | .o _ => false | .last _ => false | .z => false | .s _ => false
  | .load => true
  | .store => true
  | .quad => true
  | .scales => true

/-- A field on which a trap bit may be 1 in the F and P forms: one read as a per-lane source (R42 rule 1, R135, R177). -/
def Cls.trapF : Cls → Bool
  | .src => true | .addr => true | .addrZ => true
  | .none => false | .immediate => false | .per => false | .lane => false | .int => false | .wide => false
  | .laneScalar => false | .scalarDst => false | .scalarZDst => false | .evenScalar => false | .scalar => false
  | .scalarZ => false | .name => false | .nameDst => false | .copyAddr => false | .link => false | .rejoin => false
  | .load => false | .store => false | .quad => false | .scales => false

/-- A field on which tbb may be 1 in the M form (R44, R205, R227, R250, R290). -/
def Cls.trapM : Cls → Bool
  | .src => true | .store => true | .scales => true
  | .none => false | .immediate => false | .per => false | .lane => false | .int => false | .wide => false
  | .laneScalar => false | .scalarDst => false | .scalarZDst => false | .evenScalar => false | .scalar => false
  | .scalarZ => false | .name => false | .nameDst => false | .copyAddr => false | .link => false | .rejoin => false
  | .load => false | .quad => false | .addr => false | .addrZ => false

/-- CPYL's direction is not `.l2l`, so its a names a global address (R226). -/
def Instr.copyGlobal : Instr → Bool
  | .cpyl w => (w.kind >>> 2) != 2#4
  | _ => false

/-- Is it an M-form word (an engine word, R45)? -/
def Instr.isEngine (i : Instr) : Bool :=
  i.family == .memory || i.family == .copy || i.family == .matrix || i.family == .task

/-- A register read in each thread's own lane: mapped, operand file or last result (R135). -/
def Reg.perLane (r : Reg) : Bool := r.isV || r.isO || r.isLast

/-- May the trap bit of a field of class c that holds r be 1? In the control group r must be read per lane (R135); in the M
form it must be able to be empty (R205), but for CPYL, on whose scalar, last-result or `$z` source it is ignored (R44, R227);
elsewhere it is ignored on a source that is never empty (R44; log 34, DEDUCED). -/
def Instr.trapOk (i : Instr) (c : Cls) (r : Reg) : Bool :=
  match i with
  | .cpyl _ => c.trapM
  | _ =>
    if i.isEngine then c.trapM && r.canEmpty
    else if i.family == .control || i.family == .transfer then c.trapF && r.perLane
    else c.trapF

/-- Is a number one of a unit of the level: a core, a cluster, the device (R17)? -/
def ViewLevel.unitOk (lv : ViewLevel) (u : Nat) : Bool :=
  match lv with
  | .v => decide (u < 256)
  | .g => decide (u < 32)
  | .d => u == 0

/-- Does the device have the unit (R6, R112)? -/
def HwUnit.ok (u : HwUnit) : Bool :=
  match u with
  | .row c n => decide (c < 256 ∧ n < 4096)
  | .column c => decide (c < 256)
  | .core c => decide (c < 256)
  | .cluster k => decide (k < 32)

/-- The fields of a firmware write are in range (R276, R317, R335, R337, R338). -/
def FwWrite.ok (w : FwWrite) : Bool :=
  match w with
  | .bind i r => decide (i < 512 ∧ r.ctx < 65536 ∧ r.cls ≤ 2 ∧ 1 ≤ r.bmax ∧ r.bmax ≤ 16)
  | .energy k _ => decide (k < 32)
  | .peak k _ => decide (k < 32)
  | .tokens n => decide (n < 4096)
  | .threshold _ => true
  | .gateSlots n => decide (1 ≤ n ∧ n ≤ 64)
  | .clearRecord _ => true
  | .cellar g => decide (8 ≤ g ∧ g ≤ 96)
  | .fence d => decide (d < 4)

/-- A host access lies in the physical address space (R200). -/
def HostAccess.ok (a : HostAccess) : Bool :=
  match a with
  | .read pa n => decide (pa + n ≤ 2 ^ 52)
  | .write pa bs => decide (pa + bs.length ≤ 2 ^ 52)

/-- The place of a soft error exists. -/
def SoftErr.ok (e : SoftErr) : Bool :=
  match e with
  | .row _ r l => decide (r < 4096 ∧ l < 32)
  | .oreg _ w n l => decide (w < 32 ∧ n < 8 ∧ l < 32)
  | .last _ w l _ => decide (w < 32 ∧ l < 32)
  | .sector pa _ => decide (pa < 2 ^ 52)
  | .scalar _ w n => decide (w < 32 ∧ n < 32)
  | .pred _ w l k => decide (w < 32 ∧ l < 32 ∧ k < 7)
  | .rejoin _ w k => decide (w < 32 ∧ k < 8)
  | .map _ w n => decide (w < 32 ∧ n < 256)
  | .count _ r => decide (r < 4096)
  | .trunk _ n _ => decide (n < 2 ^ 52)
  | .version n _ => decide (n < 2 ^ 52)

/-- The link exists. -/
def LinkUnit.ok (k : LinkUnit) : Bool :=
  match k with
  | .die n _ => decide (n < 4)
  | .lane _ => true

/-- The modifier, kind and immediate fields of the word hold defined values, reserved bits 0 (R37 and the chapters'
modifier tables), with the operand rules that depend on them. -/
def Instr.modOk : Instr → Bool
  | .nop w => w.mod == 0
  | .bra _ => true
  | .br w => w.mod == 0
  | .jmpi w => w.mod != 0
  | .call _ => true
  | .calli w => w.mod == 0
  | .ret w => w.mod == 0
  | .jset w => (w.mod &&& 0x7FE#11) == 0 && (w.mod == 0 || (w.b == .z && !w.tbb))
  | .jsetI _ => true
  | .jwait w => w.mod == 0
  | .elect w => modBits w.mod 0x700#11
  | .exit w => w.mod == 0
  | .trap _ => true
  | .bkpt _ => true
  | .sysc _ => true
  | .sleepc w => w.mod == 0
  | .sleepcI _ => true
  | .napto w => w.mod == 0
  | .hint w => modBits w.mod 3#11 && w.mod != 3#11
  | .yield w => w.mod == 0
  | .eret w => modBits w.mod 1#11
  | .srd w => modBits w.mod 0x1FF#11 && srdOk w
  | .swr w => modBits w.mod 0x1FF#11 && swrOk w
  | .rnew w => modBits w.mod 1#11
  | .rfree w => w.mod == 0
  | .rmov w => w.mod == 0
  | .rswap w => w.mod == 0
  | .ralias w => w.mod == 0
  | .give w => modBits w.mod 0x7F#11
  | .take w => modBits w.mod 0x3F#11
  | .mapq w => w.mod == 0
  | .sete w => modBits w.mod 1#11
  | .empq w => w.mod == 0
  | .iadd w => modBits w.mod 3#11
  | .iaddI _ => true
  | .iaddPair h => modBits (h.pmod.setWidth 11) 3#11
  | .isub w => modBits w.mod 3#11
  | .isubI _ => true
  | .isubPair h => modBits (h.pmod.setWidth 11) 3#11
  | .imul w => w.mod == 0
  | .imulI _ => true
  | .imulPair h => (h.pmod.setWidth 11) == 0
  | .imulh w => modBits w.mod 1#11
  | .imulhI _ => true
  | .imad w => w.mod == 0
  | .imin w => modBits w.mod 1#11
  | .iminI _ => true
  | .iminPair h => modBits (h.pmod.setWidth 11) 1#11
  | .imax w => modBits w.mod 1#11
  | .imaxI _ => true
  | .imaxPair h => modBits (h.pmod.setWidth 11) 1#11
  | .iabs w => modBits w.mod 2#11
  | .iabsPair h => modBits (h.pmod.setWidth 11) 2#11
  | .and w => w.mod == 0
  | .andI _ => true
  | .andPair h => (h.pmod.setWidth 11) == 0
  | .or w => w.mod == 0
  | .orI _ => true
  | .orPair h => (h.pmod.setWidth 11) == 0
  | .xor w => w.mod == 0
  | .xorI _ => true
  | .xorPair h => (h.pmod.setWidth 11) == 0
  | .not w => w.mod == 0
  | .notPair h => (h.pmod.setWidth 11) == 0
  | .shl w => w.mod == 0
  | .shlI _ => true
  | .shlPair h => (h.pmod.setWidth 11) == 0
  | .shr w => w.mod == 0
  | .shrI _ => true
  | .shrPair h => (h.pmod.setWidth 11) == 0
  | .sar w => w.mod == 0
  | .sarI _ => true
  | .sarPair h => (h.pmod.setWidth 11) == 0
  | .rotl w => w.mod == 0
  | .rotlI _ => true
  | .popc w => w.mod == 0
  | .popcPair h => (h.pmod.setWidth 11) == 0
  | .clz w => w.mod == 0
  | .clzPair h => (h.pmod.setWidth 11) == 0
  | .brev w => w.mod == 0
  | .bfx w => modBits w.mod 1#11
  | .bfxI _ => true
  | .bfi w => w.mod == 0
  | .lea w => modBits w.mod 7#11
  | .iset w => modBits w.mod 0x70F#11 && (w.mod &&& 7#11).ult 6#11
  | .sel w => w.mod == 0 && (!(Instr.scalarUnit (.sel w)) || w.g == 7)
  | .selI w => !(Instr.scalarUnit (.selI w)) || w.g == 7
  | .movi _ => true
  | .dup w => w.mod == 0
  | .dupPair h => (h.pmod.setWidth 11) == 0
  | .iaddx w => modBits w.mod 0x7F#11
  | .idot4 w => modBits w.mod 7#11
  | .fadd w => modBits w.mod 3#11
  | .faddI _ => true
  | .faddPair h => modBits (h.pmod.setWidth 11) 3#11
  | .fsub w => modBits w.mod 3#11
  | .fsubI _ => true
  | .fsubPair h => modBits (h.pmod.setWidth 11) 3#11
  | .fmul w => modBits w.mod 3#11
  | .fmulI _ => true
  | .fmulPair h => modBits (h.pmod.setWidth 11) 3#11
  | .ffma w => modBits w.mod 3#11
  | .fmin w => modBits w.mod 1#11
  | .fminI _ => true
  | .fminPair h => modBits (h.pmod.setWidth 11) 1#11
  | .fmax w => modBits w.mod 1#11
  | .fmaxI _ => true
  | .fmaxPair h => modBits (h.pmod.setWidth 11) 1#11
  | .fset w => modBits w.mod 0x707#11
  | .frcp w => w.mod == 0
  | .frsq w => w.mod == 0
  | .fsqrt w => w.mod == 0
  | .fex2 w => w.mod == 0
  | .flg2 w => w.mod == 0
  | .fsin w => w.mod == 0
  | .fcos w => w.mod == 0
  | .ftnh w => w.mod == 0
  | .fcvt w => fcvtOk w
  | .cvtef w => cvtefOk w
  | .hadd2 w => modBits w.mod 0xB#11
  | .hadd2I _ => true
  | .hadd2Pair h => modBits (h.pmod.setWidth 11) 0xB#11
  | .hmul2 w => modBits w.mod 0xB#11
  | .hmul2I _ => true
  | .hmul2Pair h => modBits (h.pmod.setWidth 11) 0xB#11
  | .hfma2 w => modBits w.mod 0xB#11
  | .fdot8 w => modBits w.mod 0x7FB#11 && narrow8 (w.mod >>> 7) && narrow8 ((w.mod >>> 3) &&& 0xF#11)
  | .topki w => modBits w.mod 1#11 && secondOk w
  | .frnd w => modBits w.mod 3#11
  | .frndPair h => modBits (h.pmod.setWidth 11) 3#11
  | .f2i w => intFmtOk w.mod
  | .i2f w => intFmtOk w.mod
  | .qswp w => modBits w.mod 3#11 && w.mod != 3#11
  | .qbrd w => modBits w.mod 3#11
  | .shfl w => w.mod.ult 5#11
  | .shflI _ => true
  | .shflx w => modBits w.mod 0x1F#11 && (w.mod &&& 7#11).ult 5#11 && (w.mod >>> 3) != 3#11
  | .shflxI _ => true
  | .vote w => modBits w.mod 0x773#11 && ((w.mod &&& 0x70#11 != 0) == (w.a == .z)) && (w.a != .z || !w.tba)
  | .redw w => w.mod.ult 11#11
  | .scanw w => modBits w.mod 0x1F#11 && (w.mod &&& 0xF#11).ult 11#11
  | .matchW w => modBits w.mod 0x701#11 && (w.mod.getLsbD 0 || w.mod == 0)
  | .ldg w => loadOk w (w.a.isScalar && w.b == .z)
  | .stg w => storeOk w
  | .ldl w => (w.kind &&& 3#4) == 0 && loadOk w false
  | .stl w => (w.kind &&& 3#4) == 0 && storeOk w
  | .ldk w => (w.kind &&& 3#4) == 0 && loadOk w true
  | .pref w => w.kind.ult 2#4
  | .phase w => w.kind.ult 4#4 && w.imm == 0
  | .fencel w => w.kind.ult 2#4 && w.imm == 0
  | .amo w => w.kind.ult 10#4
  | .amol w => w.kind.ult 10#4
  | .amos w => w.kind.ult 10#4 && !w.imm.getLsbD 17
  | .acas w => w.kind == 0
  | .rctr w => w.kind == 0
  | .rsnap w => w.kind == 0
  | .cflsh w => w.kind.ult 8#4 && (w.kind &&& 3#4) != 0 && (!w.kind.getLsbD 2 || w.a == .z)
  | .tlbi w => w.kind.ult 3#4 && (if w.kind == 0 then w.b == .z else w.a == .z && w.imm == 0)
  | .cpyl w => !w.kind.getLsbD 0 && (w.kind >>> 2) != 3#4
  | .bcpy w => (w.kind &&& 3#4) != 3#4 && ((w.kind &&& 3#4) != 2#4 || (!w.kind.getLsbD 2 && w.b == .z))
  | .bcpym w => (w.kind &&& 3#4) == 0
  | .bcpyg w => (w.kind &&& 3#4) == 0
  | .bcpya w => (w.kind &&& 3#4) == 0
  | .bcpyq w => !w.kind.getLsbD 1
  | .bbini w => w.kind.ult 2#4
  | .bbwt w => w.kind == 0
  | .lnemp w => w.kind.ult 2#4
  | .mma w => mmaOk w
  | .mmau w => mmaOk w
  | .accz w => w.kind == 0
  | .accld w => w.kind == 0
  | .accst w => accstOk w
  | .accvq w => w.kind == 0 && w.imm.ult 16#20
  | .unfcf w => w.kind == 0
  | .accsv w => w.kind == 0 && w.imm == 0
  | .accrs w => w.kind == 0 && w.imm == 0
  | .accown w => w.kind == 0 && w.imm == 0
  | .bar w => w.kind == 0 && w.imm.ult 16#20
  | .bara w => w.kind == 0 && w.imm.ult 16#20
  | .barw w => w.kind == 0 && w.imm.ult 16#20
  | .spawn w => w.kind.ult 2#4
  | .tnext w => w.kind == 0 && w.imm == 0
  | .ftnew w => w.kind == 0 && w.imm == 0
  | .ftful w => w.kind.ult 2#4 && w.imm == 0 && (w.kind == 0 || w.b == .z)
  | .ftget w => w.kind.ult 2#4 && w.imm == 0
  | .ftwait w => w.kind == 0 && w.imm == 0
  | .ftdrop w => w.kind == 0 && w.imm == 0
  | .resamp w => w.kind == 0 && w.imm != 0
  | .rand w => w.kind.ult 2#4 && (w.kind == 0 || !w.d.isScalar)
  | .emptyBundle => true
  | .handlerEntry _ w l => decide (w < 32 ∧ l < 32)
  | .resultLanding _ => true
  | .translation _ => true
  | .memoryFaultDetection _ w l => decide (w < 32 ∧ l < 32)
  | .loadArrival _ _ => true
  | .registerRepair _ w l _ => decide (w < 32 ∧ l < 32)
  | .memoryHoldRelease _ w l => decide (w < 32 ∧ l < 32)
  | .move lv u _ => lv.unitOk u
  | .fill lv u _ => lv.unitOk u
  | .drop lv u _ => lv.unitOk u
  | .icacheFill c pa => decide (c < 256 ∧ pa < 2 ^ 52 ∧ pa % 32 = 0)
  | .icacheDrop c pa => decide (c < 256 ∧ pa < 2 ^ 52)
  | .copyStart c _ => decide (c < 256)
  | .copyDeliver c _ _ => decide (c < 256)
  | .late _ _ => true
  | .matrixStart c _ => decide (c < 256)
  | .matrixComplete c _ => decide (c < 256)
  | .tileClaimTransfer _ t => decide (t < 16)
  | .tileAutoload c t => decide (c < 256 ∧ t < 16)
  | .wakeTime _ w l => decide (w < 32 ∧ l < 32)
  | .blockCompletion _ => true
  | .blockAdmission _ => true
  | .resampCollective _ => true
  | .drainEnd _ => true
  | .relocationResume _ => true
  | .slotBoundary => true
  | .restore _ => true
  | .migration _ => true
  | .scanStart die => decide (die < 4)
  | .scanEnd c _ => decide (c < 256)
  | .coreRetest c _ _ => decide (c < 256)
  | .nodeCommit _ => true
  | .rollback _ => true
  | .contextEnd _ => true
  | .dieFence die => decide (die < 4)
  | .masterElection => true
  | .hardwareUnitFailure u => u.ok
  | .spareSubstitution u => u.ok
  | .clusterGating k => decide (k < 32)
  | .clusterUngating k => decide (k < 32)
  | .classReassignment k c => decide (k < 32 ∧ c ≤ 2)
  | .leaseExpiry _ => true
  | .slotTableCommit => true
  | .slotKindWrite n k => decide (n < 64 ∧ k < 8)
  | .rperiodWrite v => decide (v < 128)
  | .firmwareRegisterWrite w => w.ok
  | .deviceReset => true
  | .bootRomStart => true
  | .bootImageVerify => true
  | .hbmTraining _ => true
  | .fabricJoin _ dev cyc => decide (dev < 144 ∧ cyc < 2 ^ 64)
  | .attestationReady => true
  | .launch _ _ _ _ => true
  | .shapeCreate _ _ f => f.extents.length == 4 && f.strides.length == 4
  | .shapeFree _ _ _ => true
  | .ident _ => true
  | .ctxnew _ root _ _ => decide (root < 2 ^ 52)
  | .ctxend _ _ => true
  | .lease _ _ _ => true
  | .telem _ _ => true
  | .capread _ => true
  | .keyset _ _ dig => decide (dig < 2 ^ 512)
  | .attest _ nonce => decide (nonce < 2 ^ 512)
  | .unknownMessageCode _ c => decide (c = 0 ∨ (11 ≤ c ∧ c < 256))
  | .hostFabricAccess a => a.ok
  | .softError e => e.ok
  | .linkFailure k => k.ok

/-- The guard is legal (R43). -/
def Instr.guardOk (i : Instr) : Bool :=
  match i.view with
  | some v => if i.guarded then !(v.g == 7 && v.gn) else v.g == 7 && !v.gn
  | none => true

/-- Every specifier fits its class, and trap bits stand only on sources (R42). -/
def Instr.operandsOk (i : Instr) : Bool :=
  match i.view with
  | some v =>
    let g := i.sig
    let fit := fun r c => Reg.fits r i.scalarUnit i.copyGlobal c
    let trap := fun (t : Bool) (r : Reg) (c : Cls) => !t || i.trapOk c r
    fit v.d g.d && fit v.a g.a && fit v.b g.b && fit v.c g.c &&
    trap v.tba v.a g.a && trap v.tbb v.b g.b && trap v.tbc v.c g.c
  | none => true

/-- Names and specifiers of a pair half have an 8-bit specifier (R41). -/
def Reg.fits8 : Reg → Bool
  | .v n => n.ult 128#8
  | .o _ => true | .last _ => true | .z => true | .s _ => true

/-- A well-formed instruction: of a word, R51 check 4 passes; an event's arguments are in range. -/
def Instr.wf (i : Instr) : Bool := i.guardOk && i.operandsOk && i.modOk

/-- Which half of a P word an instruction is (R38). -/
inductive Half where
  | whole | hi | lo
deriving DecidableEq, Repr

/-- An instruction in its bundle: word position 1–3 and half. -/
structure Placed where
  pos : Nat
  half : Half
  i : Instr
deriving DecidableEq, Repr

/-- A decoded code bundle (R30). -/
structure Bundle where
  stall : Nat
  hint : Bool
  words : List Placed
deriving DecidableEq, Repr

/-- The registers of a group of k starting at r (R207). -/
def Reg.group (r : Reg) (k : Nat) : List Reg :=
  match r with
  | .v n => (List.range k).map fun i => .v (n + BitVec.ofNat 8 i)
  | .o n => (List.range k).map fun i => .o (n + BitVec.ofNat 3 i)
  | .last _ => [r]
  | .s _ => [r]
  | .z => []

/-- The two registers of an operand-file pair, or the scalar register (R133). -/
def Reg.addrRegs (r : Reg) : List Reg :=
  match r with
  | .o n => [.o n, .o (n + 1)]
  | .s _ => [r]
  | .v _ => [] | .last _ => [] | .z => []

/-- The group size of a word with a load, store, scale or ACCST group. -/
def Instr.groupSize : Instr → Nat
  | .ldg w => w.regs | .stg w => w.regs | .ldl w => w.regs | .stl w => w.regs | .ldk w => w.regs
  | .mma _ => 2 | .mmau _ => 2 | .accst _ => 4
  | _ => 1

/-- The registers a field of class c reads as values. -/
def Cls.reads (c : Cls) (r : Reg) (k : Nat) (copyGlobal : Bool) : List Reg :=
  match c with
  | .src => if r == .z then [] else [r]
  | .scalar => [r]
  | .scalarZ => if r == .z then [] else [r]
  | .addr => r.addrRegs
  | .addrZ => r.addrRegs
  | .copyAddr => if copyGlobal then r.addrRegs else if r == .z then [] else [r]
  | .store => r.group k
  | .scales => r.group k
  | .none => [] | .immediate => [] | .per => [] | .lane => [] | .int => [] | .wide => [] | .laneScalar => []
  | .scalarDst => [] | .scalarZDst => [] | .evenScalar => [] | .name => [] | .nameDst => [] | .link => []
  | .rejoin => [] | .load => [] | .quad => []

/-- The registers a field of class c writes as results. -/
def Cls.writes (c : Cls) (r : Reg) (k : Nat) : List Reg :=
  match c with
  | .per => if r == .z then [] else [r]
  | .lane => [r]
  | .int => if r == .z then [] else [r]
  | .wide => if r == .z then [] else [r]
  | .laneScalar => [r]
  | .scalarDst => [r]
  | .scalarZDst => if r == .z then [] else [r]
  | .evenScalar => match r with
    | .s n => [.s n, .s (n + 1)]
    | .v _ => [] | .o _ => [] | .last _ => [] | .z => []
  | .link => r.addrRegs
  | .load => r.group k
  | .quad => r.group k
  | .none => [] | .immediate => [] | .src => [] | .scalar => [] | .scalarZ => [] | .name => [] | .nameDst => []
  | .addr => [] | .addrZ => [] | .copyAddr => [] | .rejoin => [] | .store => [] | .scales => []

/-- A source a word reads, with its trap bit, in the search order of R196: a, b, c; for a binary pair half s then d. -/
structure Use where
  r : Reg
  trap : Bool
deriving DecidableEq, Repr

/-- Is the instruction a binary pair half? Its a is its own destination (R38). -/
def Instr.pairBinary (i : Instr) (half : Half) : Bool :=
  half != .whole && (i.sig.b == .src)

/-- The sources of a word in the order of R196. ACAS also reads d, its compare value, last (R214; log 150,
DESIGN CHOICE). -/
def Instr.uses (i : Instr) (half : Half) : List Use :=
  match i.view with
  | none => []
  | some v =>
    let g := i.sig
    let k := i.groupSize
    let cg := i.copyGlobal
    let a := (g.a.reads v.a k cg).map fun r => (⟨r, v.tba⟩ : Use)
    let b := (g.b.reads v.b k cg).map fun r => (⟨r, v.tbb⟩ : Use)
    let c := (g.c.reads v.c k cg).map fun r => (⟨r, v.tbc⟩ : Use)
    let d := match i with
      | .acas w => if w.d == .z then [] else [(⟨w.d, false⟩ : Use)]
      | _ => []
    if i.pairBinary half then b ++ a else a ++ b ++ c ++ d

/-- The registers a word writes as results, d before the second destination (R178). -/
def Instr.dests (i : Instr) : List Reg :=
  match i.view with
  | none => []
  | some v => i.sig.d.writes v.d i.groupSize ++ i.sig.c.writes v.c 1

/-- The names a map word edits (R45, last row). -/
def Instr.edits : Instr → List Reg
  | .rnew w => [w.d] | .rfree w => [w.a] | .rmov w => [w.d, w.a] | .rswap w => [w.d, w.a]
  | .ralias w => [w.d] | .give w => [w.a] | .take w => [w.d]
  | _ => []

/-- The names a map word needs mapped: n of RFREE, SETE and EMPQ, s of RMOV, RALIAS and GIVE (R104, row 2). -/
def Instr.needsMapped : Instr → List Reg
  | .rfree w => [w.a] | .rmov w => [w.a] | .ralias w => [w.a] | .give w => [w.a] | .sete w => [w.a] | .empq w => [w.a]
  | _ => []

/-- At most one control transfer (R45). -/
def atMost (n : Nat) (p : Placed → Bool) (ws : List Placed) : Bool := (ws.filter p).length ≤ n

/-- The positions, without repeats, of the words that satisfy p: a P word counts once. -/
def positions (p : Placed → Bool) (ws : List Placed) : List Nat := ((ws.filter p).map (·.pos)).dedup

/-- Float halves count for their P word: a P word with a half coded 16–23 is one float word (R45). -/
def isFloat (w : Placed) : Bool := w.i.family == .float

/-- No two entries of the list are equal. -/
def noRepeat (l : List Reg) : Bool := l.dedup.length == l.length

/-- What the words of a bundle write or map as destinations, `$z` aside (R45, Destinations). -/
def Placed.outs (w : Placed) : List Reg :=
  w.i.dests ++ (match w.i with
    | .rnew x => [x.d] | .rmov x => [x.d] | .rswap x => [x.d] | .ralias x => [x.d] | .take x => [x.d]
    | _ => [])

/-- Is it TRAP, BKPT or SYSC? -/
def Instr.isTrap : Instr → Bool
  | .trap _ => true | .bkpt _ => true | .sysc _ => true
  | _ => false

/-- The composition limits of R45, with R135's limit on traps beside memory words. -/
def composeOk (ws : List Placed) : Bool :=
  atMost 1 (fun w => w.i.family == .transfer) ws &&
  atMost 2 (fun w => w.i.isEngine) ws &&
  atMost 1 (fun w => w.i.family == .memory) ws && atMost 1 (fun w => w.i.family == .copy) ws &&
  atMost 1 (fun w => w.i.family == .matrix) ws && atMost 1 (fun w => w.i.family == .task) ws &&
  (positions isFloat ws).length ≤ 2 &&
  atMost 1 (fun w => w.i.family == .special) ws &&
  atMost 1 (fun w => w.i.family == .crossLane) ws &&
  noRepeat (ws.flatMap Placed.outs) &&
  ws.all (fun w => w.i.edits.all fun r => (ws.filter (· != w)).all fun x => !x.outs.contains r) &&
  !(ws.any (fun w => w.i.isTrap) && ws.any (fun w => w.i.family == .memory))

/-- The bank of a mapped name (R113). -/
def Reg.bank? : Reg → Option Nat
  | .v n => some (n.toNat % 4)
  | .o _ => none | .last _ => none | .z => none | .s _ => none

/-- The mapped-name reads of a half that fall in a bank (R46, check 7). -/
def Instr.bankReads (i : Instr) (h : Half) (k : Nat) : Nat :=
  ((i.uses h).filter fun u => u.r.bank? == some k).length

/-- The checks of R46 that look at both halves of a P word (checks 5 to 7). -/
def pairOk (hi lo : Instr) : Bool :=
  match hi.view, lo.view with
  | some x, some y =>
    (x.d != y.d || x.d == .z) && (x.d.bank? == none || x.d.bank? != y.d.bank?) &&
    ((List.range 4).all fun k => hi.bankReads .hi k + lo.bankReads .lo k ≤ 2)
  | _, _ => false

/-- Privileged words (R50): ERET, CFLSH, TLBI, ACCSV, ACCRS, ACCOWN, SWR to a protected register, and SRD of `%accown` (R151). -/
def Instr.privileged : Instr → Bool
  | .eret _ => true | .cflsh _ => true | .tlbi _ => true | .accsv _ => true | .accrs _ => true | .accown _ => true
  | .swr w => srSuper w.sreg
  | .srd w => w.sreg == 0x20
  | _ => false

/-- Convergent words (R92). -/
def Instr.convergent (i : Instr) : Bool :=
  i.family == .crossLane || i.family == .copy || i.family == .matrix ||
  (match i with | .resamp _ => true | _ => false)

end Sys2Proof
end

