-- ==== Sys2Proof/Machine/State.lean ====
section
/-! DEFINITION. Sys2Proof/Machine/State.lean: the machine's state as plain data, and the state after reset. Every piece
of state the manual names has one home here. Fields marked MODEL are the model's own (log 1, 2, 4, 5). -/

namespace Sys2Proof.Machine

open Sys2Proof

/-- The reasons for which the machine stops: none. Every fault of the manual is an entry to a handler, an ended
context or a recorded event (R105, R106, R145, R147, R309), so no step of this machine stops. -/
inductive Fault where
deriving DecidableEq, Repr

/-- The reasons for which an instruction has no meaning. -/
inductive Refusal where
  /-- Raised by an arm of `exec` for an instruction the model does not cover. Safe: the machine does not go on. -/
  | notModelled (mnemonic : String)
deriving DecidableEq, Repr

/-! ### Levels, faults and holds of a thread -/

/-- The level of a thread (R148). -/
inductive Level where
  | user | supervisor
deriving DecidableEq, Repr

/-- Fault and trap codes (R308). -/
inductive Code where
  | illegal | poolfetch | target | unmapped | rowquota | bank | sharedwrite | earlyread | partialWarp | stale | rights
  | bounds | page | access | late | accuse | priv | popshape | futfault | mailbox | syscall | breakpoint | usertrap
  | regue | memue | integrity | scanfail
deriving DecidableEq, Repr

/-- The number of a code (R308). -/
def Code.num : Code → Nat
  | .illegal => 0x01 | .poolfetch => 0x02 | .target => 0x03 | .unmapped => 0x04 | .rowquota => 0x05 | .bank => 0x06
  | .sharedwrite => 0x07 | .earlyread => 0x08 | .partialWarp => 0x09 | .stale => 0x0A | .rights => 0x0B
  | .bounds => 0x0C | .page => 0x0D | .access => 0x0E | .late => 0x0F | .accuse => 0x10 | .priv => 0x11
  | .popshape => 0x12 | .futfault => 0x13 | .mailbox => 0x14 | .syscall => 0x18 | .breakpoint => 0x19
  | .usertrap => 0x1A | .regue => 0x20 | .memue => 0x21 | .integrity => 0x22 | .scanfail => 0x23

/-- A fault or trap with the values its entry writes (R145). -/
structure Entry where
  code : Code
  fpc : DWord
  faddr : DWord
  fmask : Word
deriving DecidableEq, Repr

/-- Why a thread is held (R90 condition 2, R128, R210, R211, R236, R292, R295, R299, R195, R263, R264). -/
inductive Hold where
  /-- At a JWAIT on rejoin register k (R94). -/
  | jwait (k : Nat)
  /-- In GIVE or TAKE on mailbox m (R128). -/
  | pantry (m : Nat)
  /-- At FTWAIT on a future or task handle; `op` is its recorded operation (R295). -/
  | ftwait (op : Nat)
  /-- At BAR or BARW on barrier id in generation gen (R292). -/
  | bar (id : Nat) (gen : Word)
  /-- Arrived at RESAMP; `op` owns its destination writes (R299). -/
  | resamp (op : Nat)
  /-- At FENCEL until the listed requests have started or are complete (R211). -/
  | fencel (done : Bool) (reqs : List Nat)
  /-- At BBWT on the barrier at a window offset, with its scalar destination (R236). -/
  | bbwt (off : Nat) (d : Reg) (pos : Nat)
  /-- At PHASE, CFLSH or TLBI, no sooner than a cycle (R355). -/
  | until (cyc : Nat)
  /-- At ACCSV or ACCRS, no sooner than a core cycle of its core, or of the core that its block left (R4, R264). -/
  | untilCore (cyc : Nat)
  /-- At ACCSV until the matrix queue is empty (R264); the mask it saves. -/
  | accsv (mask : Word)
  /-- Until the result of operation `op` lands in a scalar register (R98, R207, R291). -/
  | scalar (op : Nat)
  /-- Passed over by R195, at the bundle, until each of the lanes has returned from its handler or has exited. -/
  | cross (lanes : Word) (pc : DWord)
deriving DecidableEq, Repr

/-- A thread's registers and program state (R88, R110, R137, R145, R146, R150). -/
structure Thread where
  live : Bool
  pc : DWord
  level : Level
  /-- `$o0`–`$o7`. -/
  o : Tbl Word
  oEmpty : BitVec 8
  /-- Parity errors of `$o0`–`$o7` and of `$la`, `$lb`, `$lc` (R323). -/
  oErr : BitVec 8
  lastErr : BitVec 3
  la : Word
  lb : Word
  lc : Word
  /-- `$p0`–`$p6`. -/
  p : BitVec 7
  /-- The return stack, top first (R137). -/
  stack : List DWord
  stall : DWord
  pstall : DWord
  uid : Word
  par : Word
  fcode : Word
  fpc : DWord
  faddr : DWord
  /-- The resume address of a recorded operation (R106). -/
  resume : DWord
  /-- Whether a memory operation is recorded for replay and which (R106, R145). -/
  recorded : Option Nat
  /-- A memory fault found and not yet taken, with its operation (R106). -/
  memFault : Option (Nat × Entry)
  /-- A trap pending behind a memory fault (R144), or a bundle fault whose entry is due (R145). -/
  trap : Option Entry
  /-- Promises of `.lt` requests missed and not yet taken (R234). -/
  lates : List DWord
  /-- The earliest issue cycle, as a core cycle: stall field, R98 holds, handler entry, repairs (R4, R31, R98, R145, R324). -/
  ready : Nat
  /-- The wake time (R142), and whether NAPTO set it, so that a relocation shifts it (R314). -/
  wake : Nat
  nap : Bool
  /-- What it waits for: one entry for each word that holds it; it may issue when none is left (R90 condition 2). -/
  holds : List Hold
  /-- The holds that a handler's entry interrupted, resumed by ERET (R106, R234). -/
  kept : List Hold
  /-- Since which core cycle its fragment has been ready without a break, as of the start of the one at hand; none where it was
  not ready there (R91, R101): MODEL, log 1. -/
  since : Option Nat
  /-- The address at which it stood as the core cycle at hand opened (R101); none where it stood at none: MODEL, log 1. -/
  stood : Option DWord := none
  /-- Where control arrived from; none at a created thread's first bundle and at a vector entry (R34, R52). -/
  from? : Option DWord
deriving DecidableEq, Repr

/-- A thread as it is created, except for its identities (R110, R137, R148, R101). -/
def Thread.fresh : Thread :=
  { live := false, pc := 0, level := .user, o := [], oEmpty := 0, oErr := 0, lastErr := 0, la := 0, lb := 0, lc := 0,
    p := 0, stack := [], stall := 0, pstall := 0, uid := 0, par := 0, fcode := 0, fpc := 0, faddr := 0, resume := 0,
    recorded := none, memFault := none, trap := none, lates := [], ready := 0, wake := 0, nap := false, holds := [], kept := [],
    since := none, from? := none }

/-! ### Warps, rows and results in flight -/

/-- What a name maps to; an absent entry is unmapped (R119). -/
inductive MapEnt where
  | row (r : Nat)
  | pending
deriving DecidableEq, Repr

/-- A rejoin register (R94). -/
structure Rejoin where
  mask : Word
  arrived : Word
deriving DecidableEq, Repr

/-- Where a result lands (R95). -/
inductive Tgt where
  | row (r lane : Nat)
  | oreg (w n lane : Nat)
  | scalar (w n : Nat)
  | pred (w lane k : Nat)
  /-- Only the last-result register. -/
  | none
deriving DecidableEq, Repr

/-- A result in flight (R95). `due`, the core cycle of its landing, is none while its operation has produced no value. -/
structure Pending where
  /-- The operation it belongs to, 0 for a word of fixed latency. -/
  op : Nat
  due : Option Nat
  /-- Issue order, bundle by bundle and word by word (R95). MODEL. -/
  seq : Nat
  tgt : Tgt
  val : DWord
  /-- The last-result register it updates: warp, lane, word position (R99). -/
  last : Option (Nat × Nat × Nat)
  /-- The warp that wrote it, and a number of the word that did, for the replay queue (R324). -/
  wrote : Option (Nat × Nat) := none
deriving DecidableEq, Repr

/-- A row (R112): reference count, and per lane value, empty bit and parity error. -/
structure Row where
  ref : Nat
  vals : Tbl Word
  empty : Word
  err : Word
deriving DecidableEq, Repr

/-- A zeroed free row (R117). -/
def Row.zero : Row := { ref := 0, vals := [], empty := 0, err := 0 }

/-- One of the 16 most recent register writes of a warp (R324): the word that wrote, the core cycle in which it landed, its
target as that of lane 0, the position of the last-result register it wrote as well, and the values of its lanes. -/
structure ReplayEnt where
  word : Nat
  landed : Nat := 0
  tgt : Tgt
  pos : Option Nat
  vals : Tbl Word
deriving DecidableEq, Repr

/-- A warp (R87, R110, R119). -/
structure Warp where
  map : Tbl MapEnt
  s : Tbl DWord
  j : Tbl Rejoin
  threads : Tbl Thread
  fmask : Word
  /-- The hint of HINT (R339). -/
  hint : BitVec 2
  replay : List ReplayEnt
  /-- Rejoin registers whose mask a JSET of the present core cycle replaced: their release condition is evaluated in the next
  one (R94). -/
  jset : List Nat := []
deriving DecidableEq, Repr

/-- A warp at creation (R110). -/
def Warp.fresh : Warp := { map := [], s := [], j := [], threads := [], fmask := 0, hint := 0, replay := [] }

/-! ### Operations that complete after issue -/

/-- One lane's part of an operation (R106): its address or index and its data. -/
structure Access where
  w : Nat
  lane : Nat
  /-- The thread's level when it issued. -/
  lv : Level
  addr : Nat
  data : List Byte
  cmp : Word
  /-- Replayed by ERET: its thread does not issue before it is translated, so that the resume address stands (R106). -/
  again : Bool := false
deriving DecidableEq, Repr

/-- The state of an HBM sector's ciphertext and tag (R352). -/
inductive Sector where
  | corrected | uncorrectable | poisoned
deriving DecidableEq, Repr

/-- An operation of the memory or task engine that was issued and has not completed (R106, R291). -/
structure MemOp where
  id : Nat
  i : Instr
  pc : DWord
  /-- The chip cycle of its issue, and its core cycle, or that of its replay (R102, R106, R353). -/
  issued : Nat
  coreAt : Nat := 0
  /-- An access of it missed the TLB when it issued (R353). -/
  missed : Bool := false
  /-- Accesses not yet performed. -/
  todo : List Access
  /-- Accesses whose fault is recorded, replayed or dropped by ERET (R106, R146). -/
  held : List Access
  /-- FTWAIT on an entry that is not FULL, RESAMP before its collective (R291, R295, R299). -/
  parked : List Access
  /-- Performed: the cycle from which the result may arrive (R353). -/
  arrive : Option Nat
  /-- Its last attempt found a provisional version it has to wait for, or no room for its own: its threads' cycles are not
  counted in `%stall` (R328, R331). -/
  waits : Bool := false
deriving DecidableEq, Repr

/-- A place that ECC covers (R323): a scalar register, a predicate, a rejoin register and a map entry of a warp, the reference
count of a row. -/
inductive EccAt where
  | scalar (w n : Nat)
  | pred (w lane k : Nat)
  | rejoin (w k : Nat)
  | map (w n : Nat)
  | count (row : Nat)
deriving DecidableEq, Repr

/-- A mailbox of the Pantry (R123): its row, and the waiting givers and takers, oldest first. -/
structure Mailbox where
  box : Option Nat
  /-- Row, warp, lanes of the waiting fragment. -/
  givers : List (Nat × Nat × Word)
  /-- Warp, name, lanes of the waiting fragment. -/
  takers : List (Nat × Nat × Word)
deriving DecidableEq, Repr

/-- An empty mailbox. -/
def Mailbox.empty : Mailbox := { box := none, givers := [], takers := [] }

/-- A block barrier (R292). `expect` is none for LIVE. -/
structure Barrier where
  gen : Word
  arrived : Nat
  expect : Option Nat
deriving DecidableEq, Repr

/-- A barrier at admission. -/
def Barrier.fresh : Barrier := { gen := 0, arrived := 0, expect := none }

/-- A shape record (R270). -/
structure Shape where
  base : Nat
  dims : Nat
  extents : List Nat
  strides : List Int
  fmt : Nat
  rights : Nat
  ctx : Nat
deriving DecidableEq, Repr

/-- The unfolding configuration of a block (R261). -/
structure Unfold where
  handle : Word
  shape : Shape
  aoff : Nat
  kw : Nat
  kh : Nat
  sw : Nat
  sh : Nat
  dw : Nat
  dh : Nat
  pw : Nat
  ph : Nat
  pad : Nat
  scale : Word
  scaleShape : Option Shape
  soff : Nat
  ow : Nat
  oh : Nat
deriving DecidableEq, Repr

/-- An accumulator tile (R247): its nonzero elements by 32·i + j, its version, its claim by a block. -/
structure Tile where
  els : Tbl Word
  ver : BitVec 16
  claim : Option Nat
  /-- The core cycle of its version's last change (R102, R257). -/
  stamp : Nat
deriving DecidableEq, Repr

/-- A cleared tile. -/
def Tile.zero : Tile := { els := [], ver := 0, claim := none, stamp := 0 }

/-- Where a block is (R312). -/
inductive Place where
  /-- Resident on a core. -/
  | core (c : Nat)
  /-- On its way to a core: the cycle of its resumption, and the request cycle q (R313, R314). -/
  | moving (c resume q : Nat)
  /-- In its context's Trunk, parked or switched out (R320): the core it left, q, the cycle from which its image is
  written, and the core a slot boundary chose for its restore. -/
  | trunk (parked : Bool) (left q saved : Nat) (dest : Option Nat)
deriving DecidableEq, Repr

/-- A drain under way (R107): its request cycle and, for a relocation, the destination core or the Trunk. -/
inductive Drain where
  | toCore (q c : Nat)
  | toTrunk (q : Nat) (parked : Bool)
  | ending (q : Nat)
deriving DecidableEq, Repr

/-- A launch parameter block's fields (R273). -/
structure Lpb where
  entry : Nat
  lo : Nat
  hi : Nat
  grain : Nat
  warps : Nat
  quota : Nat
  window : Nat
  cls : Nat
  flags : Nat
  capacity : Nat
  energy : Nat
  peak : Nat
  seed : DWord
  stagger : Nat
  k : Nat
  schedset : Nat
  deps : List Word
  /-- The 256 bytes, the chosen entry at offset 0 (R275). -/
  bytes : List Byte
deriving DecidableEq, Repr

/-- An LPB of zeros. -/
def Lpb.zero : Lpb :=
  { entry := 0, lo := 0, hi := 0, grain := 0, warps := 0, quota := 0, window := 0, cls := 0, flags := 0, capacity := 0,
    energy := 0, peak := 0, seed := 0, stagger := 0, k := 0, schedset := 0, deps := [], bytes := [] }

/-! ### Copy and matrix requests -/

/-- A side of a transfer: a global virtual address, or an offset in the window of a block. -/
inductive Side where
  | glob (va : Nat)
  | win (b off : Nat)
deriving DecidableEq, Repr

/-- One element of a copy request (R229, R238): source (none: zeros), destination, length, data once started. -/
structure Part where
  lane : Nat
  j : Nat
  src : Option Side
  dst : Side
  n : Nat
  /-- Physical addresses of the source's and of the destination's global bytes, once translated (R223). -/
  spa : List Nat
  dpa : List Nat
  data : List Byte
  /-- Delivered; before that, the bytes delivered so far, as a mask (R26). -/
  done : Bool
  got : Nat := 0
  /-- Discarded by `.drop`: zeros or nothing is written (R231). -/
  dropped : Bool
  /-- BCPYG: dimension 1's index number, whose coordinate is read at Start (R241). -/
  row : Nat
deriving DecidableEq, Repr

/-- What a copy request does with its data (R238–R243). -/
inductive CopyKind where
  | plain
  /-- BCPYG: index list offset, base without dimension 1, stride and extent of dimension 1, zero fill. -/
  | gather (idx : Nat) (stride : Int) (extent : Nat) (zf : Bool) (els : Nat)
  /-- BCPYA: seed, counter base, format (R242). -/
  | accum (seed ctr : Nat) (fmt : Nat)
  /-- BCPYQ: source format, output format (R243). -/
  | quant (fmt out : Nat)
deriving DecidableEq, Repr

/-- The state of a request (R17, R26). -/
inductive ReqState where
  /-- Its global bytes await translation (R223). -/
  | untranslated
  /-- A memory fault of these lanes waits for their return (R231). -/
  | faulted (lanes : Word)
  | queued
  | started
deriving DecidableEq, Repr

/-- A copy request (R222). -/
structure CopyReq where
  id : Nat
  b : Nat
  w : Nat
  lanes : Word
  pc : DWord
  level : Level
  issued : Nat
  box : Bool
  kind : CopyKind
  parts : List Part
  state : ReqState
  /-- `%cyc` by which it completes, none for NONE; and the deadline of LATE, shifted by pauses (R232, R244). -/
  promise : Option Nat
  deadline : Option Nat
  /-- The cycle by which R103 has it complete, where it copies from window to window and waits for no earlier request as it issues. -/
  quick : Option Nat := none
  /-- Replayed, and not yet translated again; and whether it was ever replayed, or has a fresh promise to take (R231, R233). -/
  again : Bool
  redone : Bool := false
  owed : Bool := false
  /-- The faulting lanes that have returned, with `.drop` or not (R231). -/
  back : List (Nat × Bool) := []
  /-- Its base beyond its global bytes', and its bytes (R232). -/
  plus : Nat
  bytes : Nat
  lt : Bool
  late : Bool
  /-- Window offset of the byte barrier (R235). -/
  bar : Option Nat
  /-- The task node whose effects its global bytes are (R327). -/
  node : Option Nat
deriving DecidableEq, Repr

/-- A block: its identity, its share of the core, its warps (R87, R114, R123, R273, R292, R312). -/
structure Block where
  task : Nat
  blk : Nat
  ctx : Nat
  /-- `%task`: its task's handle. `%lpb`. -/
  handle : Word
  lpbAddr : DWord
  lpb : Lpb
  place : Place
  drain : Option Drain
  rows : Tbl Row
  warps : Tbl Warp
  boxes : Tbl Mailbox
  /-- Window bytes; an unlisted byte is 0 (log 6). -/
  win : Tbl Byte
  /-- Lines of the window that are empty, with the requests that marked each (R224, R237). -/
  lines : Tbl (List Nat)
  bars : Tbl Barrier
  unfold : Option Unfold
  /-- The tile save area in the Trunk: the tiles of its saved mask, whose bytes `Block.saveArea` gives (R264). -/
  saved : Tbl Tile
  /-- Tiles of the area whose bit of the saved mask is clear again: a load clears the bit and nothing else (R264). -/
  stale : Tbl Tile := []
  /-- Sectors of the block's Trunk that are not good: 0 to 1,024 of the save area, from 1,025 of the image (R318, R351). -/
  bad : Tbl Sector := []
  /-- Places with an error that ECC cannot correct (R323). -/
  ecc : List EccAt := []
  pend : List Pending
  ops : List MemOp
  /-- Copy requests suspended with the block, in their queue order (R107). -/
  carried : List CopyReq
  /-- The core it left last, in which core cycle there, and whether it is on its way back from the Trunk (R4, R28, R248). -/
  origin : Nat := 0
  leftAt : Nat := 0
  restoring : Bool := false
deriving DecidableEq, Repr

/-- What a matrix request is (R249). -/
inductive MatKind where
  /-- Format, depth is full, A offset, B offset, byte select, unfolding with first K and first pixel. -/
  | mma (fmt : Nat) (full : Bool) (ao bo bs : Nat) (u : Option (Unfold × Nat × Nat))
  | accz (ver : BitVec 16)
  | accld (off : Nat) (ver : BitVec 16)
  /-- Kind of R251, window offset, register group number; the `.reg` writes belong to the request's id. -/
  | accst (dst off rg : Nat)
deriving DecidableEq, Repr

/-- A matrix request (R249). -/
structure MatReq where
  id : Nat
  b : Nat
  w : Nat
  lanes : Word
  issued : Nat
  kind : MatKind
  tile : Nat
  /-- Issued in scoreboard mode (R257). -/
  score : Bool
  token : Bool
  /-- Scale registers of each lane, A then B (R176, R253). -/
  scales : Tbl (Word × Word)
  /-- The core cycle of Start. -/
  start : Option Nat
  /-- The tile it will leave, or the tile it read, since Start. -/
  image : Tbl Word
deriving DecidableEq, Repr

/-- A core (R5, R222, R247, R263, R325). -/
structure Core where
  copyQ : List CopyReq
  matQ : List MatReq
  /-- The matrix engine is held by started requests up to this core cycle (R254, R255). -/
  matBusy : Nat
  tiles : Tbl Tile
  accown : Word
  accused : BitVec 16
  /-- The switch latch's holder: block, warp, lane (R263). -/
  latch : Option (Nat × Nat × Nat)
  /-- The chip cycle of its last issue (R330). -/
  issued : Option Nat
  /-- Which of the core cycles that begin in this chip cycle is at hand, 0 the first, and whether a bundle has issued in it
  (R4, R89): MODEL, log 1. -/
  part : Nat
  spent : Bool
  /-- The last block that held each row (R117). -/
  holders : Tbl Nat
  /-- The scan under way: its first cycle (R325). -/
  scan : Option Nat
  /-- First cycle of its last scan that passed (R329). -/
  passed : Option Nat
  /-- A failed scan awaits its retest (R326). -/
  failed : Bool
  /-- The result of the scan that ends with this chip cycle, if it is chosen (R325): MODEL, log 1. -/
  verdict : Option Bool := none
deriving DecidableEq, Repr

/-- A core at reset (R247; log 7). -/
def Core.fresh : Core :=
  { copyQ := [], matQ := [], matBusy := 0, tiles := [], accown := 0, accused := 0, latch := none, issued := none, part := 0, spent := false,
    holders := [], scan := none, passed := none, failed := false }

/-! ### The memory system -/

/-- A byte a view holds (R17): clean or unpublished, and the node whose provisional version it is (R327). -/
structure VByte where
  val : Byte
  unpub : Bool
  node : Option Nat
  /-- The context that wrote an unpublished byte (R352): MODEL, log 108. -/
  ctx : Option Nat := none
  /-- The task handle of the node under prompt commit whose effect it is (R332): MODEL. -/
  effect : Option Word := none
deriving DecidableEq, Repr

/-- A location that can hold provisional versions (R327). -/
inductive Loc where
  | byte (pa : Nat)
  | counter (ctx n : Nat)
  | future (slot : Nat)
deriving DecidableEq, Repr

/-- What a location held before a provisional version (R331). -/
inductive Prior where
  | num (v : Nat)
  /-- Value and state of a future. -/
  | fut (v : DWord) (full : Bool)
deriving DecidableEq, Repr

/-- A version of a location that lies over others (R327): its node, none for a committed version over provisional ones;
location and what it overlies. -/
structure Staged where
  node : Option Nat
  loc : Loc
  prior : Prior
  /-- What is wrong with the HBM sector that holds a version which has spilled (R327, R351). -/
  bad : Option Sector := none
deriving DecidableEq, Repr

/-- A cached entry of a page table (R203): context, base and size (a power of two) of the virtual range it covers, the
physical base it names, permission bits [5:2] of a leaf. -/
structure TlbEnt where
  ctx : Nat
  va : Nat
  bits : Nat
  pa : Nat
  perm : Nat
  /-- None for a leaf; the level of the table that an upper-level entry names. -/
  level : Option Nat := none
deriving DecidableEq, Repr

/-- The memory system (R17, R203, R327, R352, R354). -/
structure MemSys where
  /-- The truth T by 52-bit physical address; an unlisted byte is 0 (log 6). -/
  truth : List Host.Cell
  v : Tbl (Tbl VByte)
  g : Tbl (Tbl VByte)
  d : Tbl VByte
  /-- Versions over others, newest first: every provisional one, and the committed ones above a provisional one. -/
  staged : List Staged
  sectors : Tbl Sector
  tlb : Tbl (List TlbEnt)
  icache : Tbl (Tbl BundleBits)
  /-- Dies whose home slices are lost (R335). -/
  lost : List Nat
  /-- Contexts one of whose unpublished bytes has come to a part of a poisoned sector: INTEGRITY is due (R352). -/
  blamed : List Nat
  /-- Locations that hold effects of nodes under prompt commit, with their task handles (R332): MODEL. -/
  marks : List (Loc × Word)
deriving DecidableEq, Repr

/-! ### Contexts and the task engine -/

/-- The state of a boost lease (R340). -/
inductive LeaseSt where
  | none | active | suspended | expired
deriving DecidableEq, Repr

/-- A context (R150, R201, R215, R220, R317, R324, R340, R344). -/
structure Ctx where
  root : Nat
  tvec : DWord
  mmode : Word
  /-- Staging quota in 64 KiB units (R317). -/
  quota : Nat
  /-- Routing counters (R215). -/
  ctrs : Tbl Word
  /-- Byte counters: L1 fills, cluster fills, HBM fills, writebacks (R220). -/
  acct : List Nat
  /-- Corrected errors (R324). -/
  corrected : Nat
  /-- Both as of the last telemetry slot (R344). -/
  snap : List Nat
  lease : LeaseSt
  leaseEnd : Nat
  /-- The end of the context has begun (R311), with the record of its first cause: code (0: the host), `%fpc`, `%faddr`. -/
  ending : Option (Nat × DWord × DWord)
deriving DecidableEq, Repr

/-- States of a task (R279). -/
inductive TaskSt where
  | waiting | ready | running | done | faulted
deriving DecidableEq, Repr

/-- An interval of a range task and the block that owns it (R282). -/
structure Interval where
  b : Nat
  e : Nat
  blk : Nat
deriving DecidableEq, Repr

/-- A task record (R271, R273, R282, R289, R327–R331). -/
structure Task where
  ctx : Nat
  addr : DWord
  lpb : Lpb
  st : TaskSt
  /-- Creation order (R289). -/
  order : Nat
  node : Bool
  /-- Tasks with a derived edge to this one, not yet cleared (R289). -/
  edges : List Nat
  intervals : List Interval
  /-- Work returned unclaimed (R278). -/
  unclaimed : List (Nat × Nat)
  /-- Chunks each block received (R278). -/
  chunks : List Interval
  /-- Blocks admitted and completed, without those lost to a fence (R278). -/
  admitted : Nat
  completed : Nat
  /-- The number of the next block (R282). -/
  nextBlk : Nat
  lastAdmit : Option Nat
  gen : Word
  /-- The node is committed, or its effects are never provisional (R328, R329). -/
  committed : Bool
  /-- Nodes it inherits from that have not committed (R328). -/
  inherits : List Nat
  /-- Handles of the nodes under prompt commit whose effects it read (R332). -/
  reads : List Word := []
  /-- Cores its blocks issued on, with the last issue's cycle (R329). -/
  cores : Tbl Nat
  value : DWord
  /-- Waiting threads, in arrival order: block, warp, lane (R272). -/
  waiters : List (Nat × Nat × Nat)
  /-- Freed by FTDROP while its node is not committed: no handle names it, and commit or rollback settles it (R331). -/
  dropped : Bool
  /-- The task slot of the node that created it and may still be rolled back (R331, R332): MODEL, log 168. -/
  maker : Option Nat := none
  /-- Its maker has been rolled back and has not launched it again (R331, R332): MODEL, log 168. -/
  kept : Bool := false
  /-- The task slot of the node that freed it by FTDROP and may still be rolled back (R331): MODEL, log 169. -/
  droppedBy : Option Nat := none
deriving DecidableEq, Repr

/-- States of a future (R285). -/
inductive FutSt where
  | empty | full | faulted
deriving DecidableEq, Repr

/-- A Larder entry in use (R285). -/
structure Future where
  value : DWord
  target : DWord
  st : FutSt
  ctx : Nat
  /-- Waiting threads, in arrival order: block, warp, lane (R286). -/
  waiters : List (Nat × Nat × Nat)
  /-- The task slot of the node that allocated it, whether that has been rolled back and has not allocated it again, and the slot of
  the node that freed it, while these may still be rolled back (R331, R332): MODEL, log 168, 169. -/
  maker : Option Nat := none
  kept : Bool := false
  freedBy : Option Nat := none
deriving DecidableEq, Repr

/-- A freed task, its handle before (R326, R332). -/
structure Gone where
  handle : Word
  task : Task
deriving DecidableEq, Repr

/-- The control plane (R269–R289): the three handle tables with the generations of their slots. -/
structure Control where
  futures : Tbl Future
  futGen : Tbl Nat
  shapes : Tbl Shape
  shapeGen : Tbl Nat
  tasks : Tbl Task
  taskGen : Tbl Nat
  /-- Order of the next creation (R289). -/
  order : Nat
  /-- The die of the master distributor (R278); none while its election is due. -/
  master : Option Nat
  /-- Freed tasks, which a failed scan or a fault may still name to the host (R326, R332). -/
  gone : List Gone := []
deriving DecidableEq, Repr

/-! ### The management plane -/

/-- One bank of the slot table (R11, R15, R276). -/
structure SlotBank where
  kinds : List Nat
  rperiod : Nat
  binds : Tbl BindRec
deriving DecidableEq, Repr

/-- A fault record, which firmware reads (R9, R14, R311, R318, R326, R331). -/
inductive Record where
  | firmware
  /-- SCANFAIL of a core, with the tasks that ran on it and are not rolled back (R326). -/
  | scanfail (core : Nat) (tasks : List Word)
  /-- A Trunk that the Cellar could not supply (R318). -/
  | switchRefused (b : Nat)
  /-- The context's end, with its first cause: code, address, detail (R311). -/
  | ended (ctx code : Nat) (fpc faddr : DWord)
  /-- A node re-queued with prompt commit (R331). -/
  | requeued (task : Nat)
  /-- Handles of tasks reported under prompt commit (R332). -/
  | reported (tasks : List Word)
  /-- A MEMUE of a context at an address, the sector's tag marked "not evaluated" (R352). -/
  | memue (ctx : Nat) (faddr : DWord)
deriving DecidableEq, Repr

/-- A message the device has sent (R311, R326, R331, R332, R344). -/
inductive Sent where
  /-- STATUS: tag, code, one value. -/
  | status (tag : Word) (code value : Nat)
  /-- STATUS with a payload of bytes. -/
  | payload (tag : Word) (bytes : List Byte)
  /-- A notice to the host. -/
  | notice (r : Record)
deriving DecidableEq, Repr

/-- A cluster (R281, R322, R336–R338). -/
structure Cluster where
  present : Bool
  cls : Nat
  /-- Budget registers as written, and as sampled at the last slot boundary (R281, R12). -/
  energyReg : Nat
  peakReg : Nat
  peak : Nat
  remaining : Nat
  gated : Bool
  /-- Consecutive idle slots; a bundle was issued in this slot (R338). -/
  idle : Nat
  active : Bool
  /-- Being emptied; a block was admitted here in this slot (R322). -/
  emptying : Bool
  admitted : Bool := false
  spares : Nat
  /-- Failed, to be replaced in a maintenance slot (R333). -/
  broken : Bool
deriving DecidableEq, Repr

/-- What is left of a core's spares (R5, R333, R334). -/
structure CoreCap where
  present : Bool
  rows : Nat
  spareRows : Nat
  spareCol : Bool
  /-- Failed rows removed from their banks (R333). -/
  dead : List Nat
  /-- A failed lane column waits for the spare one (R333). -/
  badCol : Bool
  /-- Failed rows to be retired when they are free (R324, R333). -/
  failing : List Nat
  /-- Parity errors of rows: row and frame (R324). -/
  parity : List (Nat × Nat)
  /-- The core is to be replaced in a maintenance slot (R326, R333). -/
  broken : Bool
deriving DecidableEq, Repr

/-- The management plane. -/
structure Mgmt where
  active : SlotBank
  shadow : SlotBank
  /-- The cycle in which the commit bit was written (R16). -/
  commit : Option Nat
  /-- rperiod in force, from the first frame after the swap (R15). -/
  period : Nat
  periodFrame : Nat
  clusters : Tbl Cluster
  caps : Tbl CoreCap
  /-- Dies present and not fenced; spare clusters of each (R334). -/
  dies : List Nat
  spareCl : Tbl Nat
  /-- Token count as written and as sampled, and tokens in use (R265, R337). -/
  tokenReg : Nat
  tokens : Nat
  tokensUsed : Nat
  threshold : Nat
  gateSlots : Nat
  cellarGiB : Nat
  stage : Nat
  dev : Option Nat
  keys : Tbl Nat
  ctxSeen : Bool
  aes : Bool
  host : Bool
  records : List Record
  outbox : List Sent
  /-- Links of the dies that have failed since the last fabric-management slot: die (R335). -/
  badLinks : List Nat
  badLanes : List Nat
  /-- Nodes whose rollback is due, and whether they are re-queued with prompt commit (R309, R326, R330, R331). -/
  rollDue : List (Nat × Bool)
  /-- HBM training has failed: the device stays at stage 2 (R347). -/
  hbmFailed : Bool := false
  /-- Dies that firmware chose to fence at the next slot boundary (R335). -/
  fenceDue : List Nat := []
  /-- The hints of the warps as of the last telemetry slot: block, warp, hint (R339). -/
  hints : List (Nat × Nat × BitVec 2) := []
deriving DecidableEq, Repr

/-! ### The machine -/

/-- A choice of the machine (R91, R25, R26): MODEL, log 1. -/
inductive Choice where
  | event (i : Instr)
  /-- The group at an address issues; `wait`: its global words wait in the memory engine (R204). -/
  | issue (core block : Nat) (addr : DWord) (wait : Bool)
  | tick
deriving DecidableEq, Repr

/-- The special registers of a context and of a core that the words of a bundle read as they stood before it (R32, R149). -/
structure SpecialRegs where
  tvec : DWord := 0
  mmode : Word := 0
  accown : Word := 0
  accused : BitVec 16 := 0
deriving DecidableEq, Repr

/-- One bundle being issued (R32, R89): MODEL, log 4. -/
structure Issue where
  core : Nat
  blk : Nat
  addr : DWord
  stall : Nat
  /-- Issuing threads: warp and lane, lanes ascending (R19). -/
  grp : List (Nat × Nat)
  words : List Placed
  pos : Nat
  half : Half
  /-- The block, and what special registers are not its own, as they stood before the bundle (R32, R149). -/
  snap : Option Block
  regs : SpecialRegs := {}
  checked : Bool
  wait : Bool
  /-- A number that no other issue has, for the replay queue (R324): MODEL. -/
  no : Nat := 0
deriving DecidableEq, Repr

/-- No bundle is being issued. -/
def Issue.none : Issue :=
  { core := 0, blk := 0, addr := 0, stall := 0, grp := [], words := [], pos := 0, half := .whole, snap := .none,
    checked := true, wait := false }

/-- The machine's state. -/
structure State where
  /-- `%cyc` (R10). -/
  cyc : Nat
  ms : MemSys
  cores : Tbl Core
  /-- Blocks resident or saved, by 65536·(task slot) + `%blk`. -/
  blocks : Tbl Block
  ctxs : Tbl Ctx
  cp : Control
  mp : Mgmt
  iss : Issue
  agenda : List Choice
  /-- The next operation or result number (R95): MODEL, log 2. -/
  seq : Nat
  /-- The last slot boundary and scan number handled (R12, R13): MODEL, log 5. -/
  slotSeen : Option Nat
  scanSeen : Tbl Nat
deriving DecidableEq, Repr

/-- The default slot kinds (R14). -/
def defaultKinds : List Nat :=
  (List.range 64).map fun n =>
    if n = 0 then 4 else if n = 8 ∨ n = 24 ∨ n = 40 ∨ n = 56 then 2 else if n = 16 ∨ n = 48 then 3
    else if n = 32 then 1 else 0

/-- The default bank (R14, R15): no bind record. -/
def SlotBank.default : SlotBank := { kinds := defaultKinds, rperiod := 4, binds := [] }

/-- A cluster at reset: present, budgets 0 (R5, R337), class 1 (log 12), one spare core (R5). -/
def Cluster.fresh : Cluster :=
  { present := true, cls := 1, energyReg := 0, peakReg := 0, peak := 0, remaining := 0, gated := false, idle := 0,
    active := false, emptying := false, spares := 1,
    broken := false }

/-- A core's capacity at reset (R5). -/
def CoreCap.fresh : CoreCap :=
  { present := true, rows := 4096, spareRows := 64, spareCol := true, badCol := false, dead := [], failing := [], parity := [],
    broken := false }

/-- The memory system at reset. -/
def MemSys.fresh : MemSys :=
  { truth := [], v := [], g := [], d := [], staged := [], sectors := [], tlb := [], icache := [], lost := [], blamed := [], marks := [] }

/-- The control plane at reset: nothing created; the master is die 0 (R278). -/
def Control.fresh : Control :=
  { futures := [], futGen := [], shapes := [], shapeGen := [], tasks := [], taskGen := [], order := 0, master := some 0 }

/-- The management plane at reset (R10, R14, R15, R317, R321, R337, R338, R347, R349). Both banks hold the default kinds and rperiod and no bind
record (log 157, DESIGN CHOICE). -/
def Mgmt.fresh : Mgmt :=
  { active := .default, shadow := .default, commit := none, period := 4, periodFrame := 0,
    clusters := [], caps := [], dies := [0, 1, 2, 3], spareCl := [(0, 1), (1, 1), (2, 1), (3, 1)],
    tokenReg := 0, tokens := 0, tokensUsed := 0, threshold := 8, gateSlots := 4, cellarGiB := Config.cellarGiB,
    stage := 0, dev := none, keys := [(0, Config.romKeyDigest)], ctxSeen := false, aes := false,
    host := false, records := [], outbox := [], badLinks := [], badLanes := [], rollDue := [] }

/-- The machine right after reset (R10, R14, R15, R247, R337). -/
def State.reset : State :=
  { cyc := 0, ms := .fresh, cores := [], blocks := [], ctxs := [], cp := .fresh, mp := .fresh, iss := .none,
    agenda := [], seq := 1, slotSeen := none, scanSeen := [] }

end Sys2Proof.Machine
end

