-- ==== Sys2Proof/Machine/Table.lean ====
section
/-! DEFINITION. Sys2Proof/Machine/Table.lean: operations on tables keyed by numbers and on lists of bytes. -/

namespace Sys2Proof.Machine

open Sys2Proof

/-- The entry of key k. -/
def Tbl.get? {α : Type} (t : Tbl α) (k : Nat) : Option α :=
  match t with
  | [] => none
  | (j, v) :: r => if j = k then some v else Tbl.get? r k

/-- The entry of key k, or d. -/
def Tbl.getD {α : Type} (t : Tbl α) (k : Nat) (d : α) : α := (Tbl.get? t k).getD d

/-- The table with entry v at key k. -/
def Tbl.put {α : Type} (t : Tbl α) (k : Nat) (v : α) : Tbl α :=
  match t with
  | [] => [(k, v)]
  | (j, w) :: r => if j = k then (k, v) :: r else if k < j then (k, v) :: (j, w) :: r else (j, w) :: Tbl.put r k v

/-- The table without an entry at key k. -/
def Tbl.erase {α : Type} (t : Tbl α) (k : Nat) : Tbl α := t.filter fun p => p.1 != k

/-- The table with v at key k, no entry standing where v is the default d. -/
def Tbl.putD {α : Type} [DecidableEq α] (t : Tbl α) (k : Nat) (d v : α) : Tbl α :=
  if v = d then Tbl.erase t k else Tbl.put t k v

/-- The entry of key k changed by f, the default d standing for an absent one. -/
def Tbl.modD {α : Type} (t : Tbl α) (k : Nat) (d : α) (f : α → α) : Tbl α := Tbl.put t k (f (Tbl.getD t k d))

/-- The entry of key k, if there is one, changed by f. -/
def Tbl.mod {α : Type} (t : Tbl α) (k : Nat) (f : α → α) : Tbl α :=
  match t with
  | [] => []
  | (j, w) :: r => if j = k then (j, f w) :: r else (j, w) :: Tbl.mod r k f

/-- Every entry changed by f. -/
def Tbl.mapVal {α β : Type} (t : Tbl α) (f : α → β) : Tbl β := t.map fun p => (p.1, f p.2)

/-- Every entry changed by f, which also sees the key. -/
def Tbl.mapKV {α β : Type} (t : Tbl α) (f : Nat → α → β) : Tbl β := t.map fun p => (p.1, f p.1 p.2)

/-- The keys of a table. -/
def Tbl.keys {α : Type} (t : Tbl α) : List Nat := t.map (·.1)

/-- Keys rise strictly from above `lo`. -/
def Tbl.risingFrom {α : Type} (lo : Option Nat) (t : Tbl α) : Bool :=
  match t with
  | [] => true
  | (k, _) :: r => (match lo with | none => true | some j => decide (j < k)) && Tbl.risingFrom (some k) r

/-- The least number of 0, 1, … n−1 that satisfies p. -/
def leastBelow (n : Nat) (p : Nat → Bool) : Option Nat := (List.range n).find? p

/-- The first element least under the measure m. -/
def minBy {α : Type} (m : α → Nat) (l : List α) : Option α :=
  l.foldl (fun best x => match best with
    | none => some x
    | some b => if m x < m b then some x else some b) none

/-- Insertion into a list that rises under m, after equal elements. -/
def insertBy {α : Type} (m : α → Nat) (x : α) (l : List α) : List α :=
  match l with
  | [] => [x]
  | y :: r => if m x < m y then x :: y :: r else y :: insertBy m x r

/-- The list sorted by m, stably. -/
def sortBy {α : Type} (m : α → Nat) (l : List α) : List α := l.foldl (fun acc x => insertBy m x acc) []

/-- The sum of m over the list. -/
def sumBy {α : Type} (m : α → Nat) (l : List α) : Nat := l.foldl (fun n x => n + m x) 0

/-- The greatest m over the list, 0 for none. -/
def maxBy {α : Type} (m : α → Nat) (l : List α) : Nat := l.foldl (fun n x => max n (m x)) 0

/-- A number of n bytes from its bytes, the first byte the lowest (R2). -/
def ofBytes (bs : List Byte) : Nat :=
  match bs with
  | [] => 0
  | b :: r => b.toNat + 256 * ofBytes r

/-- The low n bytes of a number, lowest first (R2). -/
def toBytes (n v : Nat) : List Byte :=
  match n with
  | 0 => []
  | k + 1 => BitVec.ofNat 8 v :: toBytes k (v / 256)

/-- n divided by d, rounded up. -/
def ceilDiv (n d : Nat) : Nat := (n + d - 1) / d

/-- Is bit i of a mask set? -/
def bitOf (m : BitVec 32) (i : Nat) : Bool := m.getLsbD i

/-- A mask with bit i set or cleared. -/
def setBit (m : BitVec 32) (i : Nat) (b : Bool) : BitVec 32 :=
  if b then m ||| (1#32 <<< i) else m &&& ~~~(1#32 <<< i)

/-- The mask of a list of lanes. -/
def maskOf (ls : List Nat) : BitVec 32 := ls.foldl (fun m l => setBit m l true) 0

end Sys2Proof.Machine
end

