-- ==== Sys2Proof/Machine/Ops.lean ====
section
/-! DEFINITION. Sys2Proof/Machine/Ops.lean: access to the state's parts, landing of results, taking an exception and
returning from one. -/

namespace Sys2Proof.Machine

open Sys2Proof

/-! ### Keys and places -/

/-- The key of block `blk` of the task in slot `t`. -/
def bkey (t blk : Nat) : Nat := 65536 * t + blk

/-- The cluster and the die of a core (R6). -/
def clusterOf (c : Nat) : Nat := c / 8
def dieOf (c : Nat) : Nat := c / 64

/-- Core c. -/
def State.core (s : State) (c : Nat) : Core := Tbl.getD s.cores c .fresh
/-- Core c changed by f. -/
def State.modCore (s : State) (c : Nat) (f : Core → Core) : State := { s with cores := Tbl.modD s.cores c .fresh f }
/-- Cluster k. -/
def State.cluster (s : State) (k : Nat) : Cluster := Tbl.getD s.mp.clusters k .fresh
/-- Core c's capacity record. -/
def State.cap (s : State) (c : Nat) : CoreCap := Tbl.getD s.mp.caps c .fresh
/-- Block b. -/
def State.block? (s : State) (b : Nat) : Option Block := Tbl.get? s.blocks b
/-- Block b, if it is there, changed by f. -/
def State.modBlock (s : State) (b : Nat) (f : Block → Block) : State := { s with blocks := Tbl.mod s.blocks b f }
/-- Context x, if it is there, changed by f. -/
def State.modCtx (s : State) (x : Nat) (f : Ctx → Ctx) : State := { s with ctxs := Tbl.mod s.ctxs x f }
/-- The task in slot t, if it is there, changed by f. -/
def State.modTask (s : State) (t : Nat) (f : Task → Task) : State :=
  { s with cp := { s.cp with tasks := Tbl.mod s.cp.tasks t f } }
/-- A record and a notice to the host (R9, R311). -/
def State.note (s : State) (r : Record) : State :=
  { s with mp := { s.mp with records := s.mp.records ++ [r], outbox := s.mp.outbox ++ [.notice r] } }

/-- Warp w of a block. -/
def Block.warp (bk : Block) (w : Nat) : Warp := Tbl.getD bk.warps w .fresh
/-- Warp w changed by f. -/
def Block.modWarp (bk : Block) (w : Nat) (f : Warp → Warp) : Block := { bk with warps := Tbl.modD bk.warps w .fresh f }
/-- The thread in lane l of a warp. -/
def Warp.thread (wp : Warp) (l : Nat) : Thread := Tbl.getD wp.threads l .fresh
/-- The thread in lane l changed by f. -/
def Warp.modThread (wp : Warp) (l : Nat) (f : Thread → Thread) : Warp :=
  { wp with threads := Tbl.modD wp.threads l .fresh f }
/-- The thread of a block at warp w, lane l. -/
def Block.thread (bk : Block) (w l : Nat) : Thread := (bk.warp w).thread l
/-- The thread at warp w, lane l changed by f. -/
def Block.modThread (bk : Block) (w l : Nat) (f : Thread → Thread) : Block := bk.modWarp w (·.modThread l f)
/-- A thread of the machine changed by f. -/
def State.modThread (s : State) (b w l : Nat) (f : Thread → Thread) : State := s.modBlock b (·.modThread w l f)
/-- Several threads of a block changed by f. -/
def Block.modThreads (bk : Block) (ts : List (Nat × Nat)) (f : Thread → Thread) : Block :=
  ts.foldl (fun k p => k.modThread p.1 p.2 f) bk

/-- The live threads of a block: warp and lane, ascending. -/
def Block.live (bk : Block) : List (Nat × Nat) :=
  bk.warps.flatMap fun p => (p.2.threads.filter (·.2.live)).map fun q => (p.1, q.1)
/-- The live lanes of warp w. -/
def Block.liveLanes (bk : Block) (w : Nat) : List Nat := ((bk.warp w).threads.filter (·.2.live)).map (·.1)

/-- The core a block stands on, if it is resident. -/
def Block.core? (bk : Block) : Option Nat :=
  match bk.place with
  | .core c => some c
  | .moving _ _ _ => none
  | .trunk _ _ _ _ _ => none

/-- The blocks resident on core c: key and block. -/
def State.blocksOn (s : State) (c : Nat) : List (Nat × Block) := s.blocks.filter fun p => p.2.core? == some c

/-- `%dev`; before fabric join no context exists, and the model reads 0 (R341). -/
def State.dev (s : State) : Nat := s.mp.dev.getD 0

/-- Core cycles of a core of cluster class cls in chip cycles, rounded up (R4; log 16). -/
def chipCycles (cls n : Nat) : Nat := ceilDiv (n * 17) (if cls = 0 then 12 else if cls = 2 then 21 else 17)
/-- The core cycles of a core of cluster class cls that have begun before a chip cycle starts: both clocks start together at
reset (R4; log 42, DESIGN CHOICE). -/
def coreCycle (cls cyc : Nat) : Nat := ceilDiv (cyc * (if cls = 0 then 12 else if cls = 2 then 21 else 17)) 17
/-- The core cycles of core c that have begun before a chip cycle starts. -/
def State.coreCycleAt (s : State) (c cyc : Nat) : Nat := coreCycle (s.cluster (clusterOf c)).cls cyc
/-- The core cycles of core c that begin in the present chip cycle: 0 or 1 at class C0, 1 at C1, 1 or 2 at C2 (R4). -/
def State.coreBegins (s : State) (c : Nat) : Nat := s.coreCycleAt c (s.cyc + 1) - s.coreCycleAt c s.cyc
/-- The core cycle of core c that is at hand: of those that have begun by the present chip cycle's end, the one that `Core.part`
counts to (R4). -/
def State.coreNow (s : State) (c : Nat) : Nat :=
  min (s.coreCycleAt c s.cyc + (s.core c).part) (s.coreCycleAt c (s.cyc + 1) - 1)
/-- The core cycle at hand for a block, 0 where it is on no core: a thread that comes to a core waits there for none (R313). -/
def State.nowOf (s : State) (b : Nat) : Nat :=
  match (s.block? b).bind Block.core? with
  | some c => s.coreNow c
  | none => 0
/-- The core cycles of core c in this chip cycle in which it may still issue (R4, R89). -/
def State.cyclesLeft (s : State) (c : Nat) : Nat :=
  s.coreBegins c - (s.core c).part - (if (s.core c).spent then 1 else 0)
/-- A number of core cycles of core c, in chip cycles. -/
def State.lat (s : State) (c n : Nat) : Nat := chipCycles (s.cluster (clusterOf c)).cls n

/-! ### Special-register values derived from `%cyc` (R10) -/

def State.slot (s : State) : Nat := s.cyc / Config.slotCycles % 64
def State.frame (s : State) : Nat := s.cyc / Config.frameCycles

/-! ### Rows (R112, R117) -/

/-- Row r of a block. -/
def Block.row (bk : Block) (r : Nat) : Row := Tbl.getD bk.rows r .zero
/-- Row r changed by f. -/
def Block.modRow (bk : Block) (r : Nat) (f : Row → Row) : Block := { bk with rows := Tbl.modD bk.rows r .zero f }
/-- Is a result to row r in flight? -/
def Block.rowPending (bk : Block) (r : Nat) : Bool :=
  bk.pend.any fun p => match p.tgt with
    | .row k _ => k == r
    | .oreg _ _ _ => false | .scalar _ _ => false | .pred _ _ _ => false | .none => false
/-- Does the block hold row r: it is referenced, or a write to it is pending (R95, R117)? -/
def Block.holds (bk : Block) (r : Nat) : Bool := (bk.row r).ref > 0 || bk.rowPending r
/-- The rows the block holds. -/
def Block.held (bk : Block) : List Nat := (Tbl.keys bk.rows).filter bk.holds
/-- What a name of warp w maps to. -/
def Block.mapOf (bk : Block) (w : Nat) (n : BitVec 8) : Option MapEnt := Tbl.get? (bk.warp w).map n.toNat
/-- Reads one lane of a row. -/
def Row.val (r : Row) (l : Nat) : Word := Tbl.getD r.vals l 0
/-- The warps that map a row, once each (R122). -/
def Block.mappers (bk : Block) (r : Nat) : List Nat :=
  (bk.warps.filter fun p => p.2.map.any fun q => q.2 == .row r).map (·.1)
/-- Releases a reference to a row (R117). -/
def Block.release (bk : Block) (r : Nat) : Block := bk.modRow r fun x => { x with ref := x.ref - 1 }
/-- A place that ECC covers is written: its error is gone (R323). -/
def Block.mendEcc (bk : Block) (e : EccAt) : Block := { bk with ecc := bk.ecc.filter (· != e) }

/-- Maps or unmaps a name. -/
def Block.setMap (bk : Block) (w : Nat) (n : BitVec 8) (e : Option MapEnt) : Block :=
  (bk.modWarp w fun wp => { wp with map := match e with
    | none => Tbl.erase wp.map n.toNat
    | some x => Tbl.put wp.map n.toNat x }).mendEcc (.map w n.toNat)
/-- The block's share of each bank (R114). -/
def Block.share (bk : Block) : Nat := ceilDiv (bk.lpb.warps * bk.lpb.quota) 4
/-- Rows the block holds in a bank. -/
def Block.heldIn (bk : Block) (k : Nat) : Nat := (bk.held.filter (· % 4 == k)).length

/-- Failed rows of a core for which no spare row is left: each leaves its bank when it is free (R333). -/
def CoreCap.spareless (y : CoreCap) : List Nat := y.failing.drop y.spareRows

/-- Is row r of the core free: held by no block there, and not held as the bundle being issued found it, since its words see no
map edit of one another (R32, R115)? -/
def State.rowIdle (s : State) (c r : Nat) : Bool :=
  ((s.blocksOn c).all fun p => !p.2.holds r) &&
  (match s.iss.snap with
    | none => true
    | some bk => !bk.holds r)
/-- The lowest-numbered free row of a bank but for some (R115). A spare stands for a failed row as soon as that is free; a failed
row for which there is none serves only where a reserved share needs it (R112, R114, R333, R334; log 138). -/
def State.freeRowBut (s : State) (c k : Nat) (used : List Nat) : Option Nat :=
  let y := s.cap c
  let free := fun (i : Nat) => s.rowIdle c (4 * i + k) && !used.contains (4 * i + k) && !y.dead.contains (4 * i + k)
  ((leastBelow 1024 fun i => free i && !y.spareless.contains (4 * i + k)).orElse fun _ => leastBelow 1024 free).map fun i => 4 * i + k
/-- The lowest-numbered free row of a bank (R115). -/
def State.freeRow (s : State) (c k : Nat) : Option Nat := s.freeRowBut c k []

/-- An allocation for block b on core c: a row of bank k with one reference and every lane full; its values are the
block's own earlier ones, or zeros (R115, R117). -/
def State.alloc (s : State) (c b k : Nat) (zero : Bool) : Option (State × Nat) :=
  match s.freeRow c k with
  | none => none
  | some r =>
    let keep := !zero && Tbl.get? (s.core c).holders r == some b
    let s := s.modBlock b fun bk => (bk.modRow r fun x =>
      if keep then { x with ref := 1, empty := 0 } else { Row.zero with ref := 1 }).mendEcc (.count r)
    some (s.modCore c fun k => { k with holders := Tbl.put k.holders r b }, r)

/-! ### Results (R95, R99) -/

/-- Is another result to the same place in flight? -/
def Block.pendingOn (bk : Block) (t : Tgt) : Bool := bk.pend.any fun p => p.tgt == t

/-- A target as that of lane 0, and its lane. -/
def Tgt.word (t : Tgt) : Tgt :=
  match t with
  | .row r _ => .row r 0
  | .oreg w n _ => .oreg w n 0
  | .scalar w n => .scalar w n
  | .pred w _ k => .pred w 0 k
  | .none => .none
def Tgt.lane (t : Tgt) : Nat :=
  match t with
  | .row _ l => l
  | .oreg _ _ l => l
  | .scalar _ _ => 0
  | .pred _ l _ => l
  | .none => 0

/-- The lane of a result. -/
def Pending.lane (p : Pending) : Nat :=
  match p.last with
  | some (_, l, _) => l
  | none => p.tgt.lane

/-- A result of word number n enters the replay queue: beside the lanes of its register write that landed in the same core
cycle, or as a new entry, of which the 16 most recent are kept (R324; log 111). -/
def Warp.remember (wp : Warp) (n : Nat) (p : Pending) : Warp :=
  let t := p.tgt.word
  let pos := p.last.map (·.2.2)
  let v : Word := p.val.setWidth 32
  let same := fun (e : ReplayEnt) => e.word == n && e.landed == p.due.getD 0 && e.tgt == t && e.pos == pos
  if wp.replay.any same then
    { wp with replay := wp.replay.map fun e => if same e then { e with vals := Tbl.put e.vals p.lane v } else e }
  else { wp with replay := ({ word := n, landed := p.due.getD 0, tgt := t, pos, vals := [(p.lane, v)] } :: wp.replay).take 16 }

/-- The last-result register of a position set (R99). -/
def Thread.setLast (t : Thread) (pos : Nat) (v : Word) : Thread :=
  let m : BitVec 3 := ~~~(1#3 <<< (pos - 1))
  if pos = 1 then { t with la := v, lastErr := t.lastErr &&& m }
  else if pos = 2 then { t with lb := v, lastErr := t.lastErr &&& m }
  else { t with lc := v, lastErr := t.lastErr &&& m }

/-- A result lands in its target: the lane becomes full unless another write to it is pending (R95); a parity error there
is cleared (R324). -/
def Block.landTgt (bk : Block) (t : Tgt) (v : DWord) : Block :=
  let busy := bk.pendingOn t
  match t with
  | .row r l => bk.modRow r fun x =>
      { x with vals := Tbl.putD x.vals l 0 (v.setWidth 32), empty := if busy then x.empty else setBit x.empty l false,
               err := setBit x.err l false }
  | .oreg w n l => bk.modThread w l fun t =>
      { t with o := Tbl.putD t.o n 0 (v.setWidth 32),
               oEmpty := if busy then t.oEmpty else t.oEmpty &&& ~~~(1#8 <<< n), oErr := t.oErr &&& ~~~(1#8 <<< n) }
  | .scalar w n => (bk.modWarp w fun wp => { wp with s := Tbl.putD wp.s n 0 v }).mendEcc (.scalar w n)
  | .pred w l k => (bk.modThread w l fun t =>
      { t with p := if v == 0 then t.p &&& ~~~(1#7 <<< k) else t.p ||| (1#7 <<< k) }).mendEcc (.pred w l k)
  | .none => bk

/-- One result lands, with its last-result register, and is remembered for repair (R95, R99, R324). -/
def Block.land1 (bk : Block) (p : Pending) : Block :=
  let bk := bk.landTgt p.tgt p.val
  let bk := match p.last with
    | none => bk
    | some (w, l, pos) => bk.modThread w l (·.setLast pos (p.val.setWidth 32))
  match p.wrote with
  | none => bk
  | some (w, n) => bk.modWarp w (·.remember n p)

/-- Results due by a core cycle land, by landing cycle, then issue order (R95). -/
def Block.land (bk : Block) (now : Nat) : Block :=
  let due := bk.pend.filter fun p => match p.due with | none => false | some d => d ≤ now
  let order := sortBy (fun p => (p.due.getD 0) * 2 ^ 64 + p.seq) due
  order.foldl (fun (k : Block) p => Block.land1 { k with pend := k.pend.filter fun q => q.seq != p.seq } p) bk

/-- The target's lane is marked empty at issue (R95). -/
def Block.markEmpty (bk : Block) (t : Tgt) : Block :=
  match t with
  | .row r l => bk.modRow r fun x => { x with empty := setBit x.empty l true }
  | .oreg w n l => bk.modThread w l fun t => { t with oEmpty := t.oEmpty ||| (1#8 <<< n) }
  | .scalar _ _ => bk | .pred _ _ _ => bk | .none => bk

/-- The warp of the word being executed that writes a target, and a number of that word (R324): a lane of a group belongs to
one warp. -/
def State.writer (s : State) (t : Tgt) (last : Option (Nat × Nat × Nat)) : Option (Nat × Nat) :=
  let w := match last, t with
    | some (w, _, _), _ => some w
    | .none, .oreg w _ _ => some w
    | .none, .row _ l => (s.iss.grp.find? fun (p : Nat × Nat) => p.2 == l).map fun (p : Nat × Nat) => p.1
    | .none, .scalar w _ => some w
    | .none, .pred w _ _ => some w
    | .none, .none => .none
  w.map fun w => (w, 16 * s.iss.no + 4 * s.iss.pos + (match s.iss.half with | .whole => 0 | .hi => 1 | .lo => 2))

/-- A result enters flight for block b: its lane is marked empty (R95). -/
def State.post (s : State) (b op : Nat) (due : Option Nat) (t : Tgt) (v : DWord) (last : Option (Nat × Nat × Nat)) : State :=
  { s with blocks := Tbl.mod s.blocks b fun bk =>
             Block.markEmpty { bk with pend := bk.pend ++ [{ op, due, seq := s.seq, tgt := t, val := v, last, wrote := s.writer t last }] } t,
           seq := s.seq + 1 }

/-- The value of an operation's result for one target, landing at a core cycle. -/
def Block.deliverTo (bk : Block) (op : Nat) (p : Pending → Bool) (v : DWord) (due : Nat) : Block :=
  { bk with pend := bk.pend.map fun q => if q.op == op && p q then { q with val := v, due := some due } else q }

/-! ### Taking an exception, and returning from one (R105, R144–R147) -/

/-- A MEMUE goes into the fault records, its tag marked "not evaluated" (R9, R352). -/
def State.recordMemue (s : State) (x : Nat) (e : Entry) : State :=
  if e.code = .memue then { s with mp := { s.mp with records := s.mp.records ++ [.memue x e.faddr] } } else s

/-- The end of a context begins, if it has not (R311, R147). -/
def State.endCtx (s : State) (x : Nat) (e : Entry) : State :=
  (s.recordMemue x e).modCtx x fun c => match c.ending with
    | some _ => c
    | none => { c with ending := some (e.code.num, e.fpc, e.faddr) }

/-- The address of a code's handler (R145). -/
def vector (tvec : DWord) (code : Code) : DWord := (tvec &&& ~~~0xFFF#64) + BitVec.ofNat 64 (64 * code.num)

/-- `%fcode` as an entry writes it (R145). -/
def fcodeOf (code : Code) (lv : Level) (replay : Bool) : Word :=
  BitVec.ofNat 32 (code.num + (if lv = .supervisor then 256 else 0) + (if replay then 512 else 0))

/-- A thread enters its handler at core cycle `now` + 1 (R145): `%fcode`, `%fpc`, `%faddr` are written, the level becomes
supervisor, and the thread continues at the vector. -/
def Thread.enter (t : Thread) (tvec : DWord) (e : Entry) (now : Nat) : Thread :=
  { t with fcode := fcodeOf e.code t.level t.recorded.isSome, fpc := e.fpc, faddr := e.faddr, level := .supervisor,
           pc := vector tvec e.code, from? := none, since := none, ready := max t.ready (now + 1),
           kept := t.holds, holds := [] }

/-- TAKING AN EXCEPTION: the thread at (b, w, l) takes e (R145). A fault at supervisor level ends the context instead
(R147). -/
def State.takeFault (s : State) (b w l : Nat) (e : Entry) : State :=
  match s.block? b with
  | none => s
  | some bk =>
    match Tbl.get? s.ctxs bk.ctx with
    | none => s
    | some x =>
      if (bk.thread w l).level = .supervisor then s.endCtx bk.ctx e
      else s.modBlock b fun bk =>
        (bk.modThread w l fun t => t.enter x.tvec e (s.nowOf b)).modWarp w fun wp => { wp with fmask := e.fmask }

/-- Does an earlier global memory word of the thread await translation (R90 condition 6)? -/
def Block.untranslated (bk : Block) (w l : Nat) : Bool :=
  bk.ops.any fun o => o.todo.any fun a => a.w == w && a.lane == l

/-- The copy requests of block b: in core c's queue, and those that came with the block and have found no room there yet (R222, R315). -/
def State.reqsOf (s : State) (c b : Nat) : List CopyReq :=
  ((s.core c).copyQ.filter fun r => r.b == b) ++ (match s.block? b with
    | some bk => bk.carried
    | none => [])

/-- Is the copy queue of core c full, or spoken for by requests that came with a block (R222)? -/
def State.queueFull (s : State) (c : Nat) : Bool :=
  decide ((s.core c).copyQ.length ≥ 64) || (s.blocksOn c).any fun p => p.2.drain.isNone && !p.2.carried.isEmpty

/-- Requests that came with blocks of core c enter its queue as far as there is room (R222, R315; log 141, DESIGN CHOICE). -/
def State.feed (s : State) (c : Nat) : State :=
  (s.blocksOn c).foldl (fun (s : State) p =>
    if p.2.drain.isSome || p.2.carried.isEmpty then s
    else
      let n := 64 - (s.core c).copyQ.length
      (s.modCore c fun k => { k with copyQ := k.copyQ ++ p.2.carried.take n }).modBlock p.1 fun bk => { bk with carried := bk.carried.drop n }) s

/-- The requests of block b on core c replaced by f's answers. -/
def State.mapReqs (s : State) (c b : Nat) (f : CopyReq → CopyReq) : State :=
  (s.modCore c fun k => { k with copyQ := k.copyQ.map fun r => if r.b == b then f r else r }).modBlock b fun bk =>
    { bk with carried := bk.carried.map f }

/-- A request of core c's queue replaced by f's answer. -/
def State.modReq (s : State) (c q : Nat) (f : CopyReq → CopyReq) : State :=
  s.modCore c fun k => { k with copyQ := k.copyQ.map fun r => if r.id == q then f r else r }

/-- Does an earlier copy request of the thread await translation (R223)? -/
def State.reqUntranslated (s : State) (c b w l : Nat) : Bool :=
  (s.reqsOf c b).any fun r => r.w == w && r.lanes.getLsbD l && r.state == .untranslated

/-- A trap is taken at once, or stays pending while an earlier global memory word awaits translation, or while its fault
is recorded (R144). -/
def State.takeTrap (s : State) (b w l : Nat) (e : Entry) : State :=
  match s.block? b with
  | none => s
  | some bk =>
    let c := bk.core?.getD 0
    if bk.untranslated w l || s.reqUntranslated c b w l || (bk.thread w l).memFault.isSome then
      s.modThread b w l fun t => { t with trap := some e }
    else s.takeFault b w l e

/-- A thread continues at an address; control arrived from `from?` (R34). -/
def Thread.goto (t : Thread) (dest : DWord) (fr : Option DWord) : Thread := { t with pc := dest, from? := fr }

/-- One more hold of a thread (R90 condition 2). -/
def Thread.addHold (t : Thread) (h : Hold) : Thread := { t with holds := t.holds ++ [h] }

/-- The level in `%fcode`'s pl and the replay bit (R145). -/
def Thread.pl (t : Thread) : Level := if t.fcode.getLsbD 8 then .supervisor else .user
def Thread.rp (t : Thread) : Bool := t.fcode.getLsbD 9

/-- RETURN FROM A HANDLER, the thread's part (R146), with the values of `ts`, the thread as the bundle found it: the saved
level returns; where rp is 1 it is cleared and the thread continues at the resume address, else at `%fpc`. Where a handler has
cleared rp by SWR, the operation stays recorded (log 159, DESIGN CHOICE); where it has set rp with none recorded, the resume address is
what the field last held, 0 at first (log 161, DESIGN CHOICE). -/
def Thread.eret (t ts : Thread) (fr : DWord) : Thread :=
  { t with level := ts.pl, fcode := if ts.rp then t.fcode &&& ~~~0x200#32 else t.fcode, pc := if ts.rp then ts.resume else ts.fpc, from? := some fr,
           recorded := if ts.rp then none else t.recorded, holds := t.holds ++ t.kept, kept := [] }

end Sys2Proof.Machine
end

