-- ==== Sys2Proof/Machine/Operands.lean ====
section
/-! DEFINITION. Sys2Proof/Machine/Operands.lean: reading operands as they stood before the bundle, writing results
(R32, R42, R95, R98, R99, R110, R111, R115, R116, R133). -/

namespace Sys2Proof.Machine

open Sys2Proof

/-- A block of nothing, read when no bundle is being issued. -/
def Block.zero : Block :=
  { task := 0, blk := 0, ctx := 0, handle := 0, lpbAddr := 0, lpb := .zero, place := .core 0, drain := none, rows := [],
    warps := [], boxes := [], win := [], lines := [], bars := [], unfold := none, saved := [], pend := [], ops := [], carried := [] }

/-- The block as it stood before the bundle. -/
def State.snap (s : State) : Block := s.iss.snap.getD .zero

/-- The block of the issuing threads, as it stands now. -/
def State.here (s : State) : Block := (s.block? s.iss.blk).getD .zero

/-- A lane of a register: 64 bits of a scalar register, zero-extended otherwise; 0 for an unmapped or pending name
(R42 rule 3, R110, R192). -/
def Block.read (bk : Block) (w l : Nat) (r : Reg) : DWord :=
  match r with
  | .v n => match bk.mapOf w n with
    | some (.row k) => ((bk.row k).val l).setWidth 64
    | some .pending => 0
    | none => 0
  | .o n => (Tbl.getD (bk.thread w l).o n.toNat 0).setWidth 64
  | .last .la => (bk.thread w l).la.setWidth 64
  | .last .lb => (bk.thread w l).lb.setWidth 64
  | .last .lc => (bk.thread w l).lc.setWidth 64
  | .z => 0
  | .s n => Tbl.getD (bk.warp w).s n.toNat 0

/-- Is the lane empty (R95, R98, R121)? -/
def Block.emptyAt (bk : Block) (w l : Nat) (r : Reg) : Bool :=
  match r with
  | .v n => match bk.mapOf w n with
    | some (.row k) => (bk.row k).empty.getLsbD l
    | some .pending => true
    | none => false
  | .o n => (bk.thread w l).oEmpty.getLsbD n.toNat
  | .last _ => false | .z => false | .s _ => false

/-- Does the register word hold a parity error, a scalar register one that ECC cannot correct (R323)? -/
def Block.errAt (bk : Block) (w l : Nat) (r : Reg) : Bool :=
  match r with
  | .v n => match bk.mapOf w n with
    | some (.row k) => (bk.row k).err.getLsbD l
    | some .pending => false
    | none => false
  | .o n => (bk.thread w l).oErr.getLsbD n.toNat
  | .last .la => (bk.thread w l).lastErr.getLsbD 0
  | .last .lb => (bk.thread w l).lastErr.getLsbD 1
  | .last .lc => (bk.thread w l).lastErr.getLsbD 2
  | .z => false
  | .s n => bk.ecc.contains (.scalar w n.toNat)

/-- An address operand's value: a scalar register, or a pair of the operand file (R133); 0 otherwise. -/
def Block.addrOf (bk : Block) (w l : Nat) (r : Reg) : DWord :=
  match r with
  | .s n => Tbl.getD (bk.warp w).s n.toNat 0
  | .o n => bk.read w l (.o n) + (bk.read w l (.o (n + 1)) <<< 32)
  | .v _ => 0 | .last _ => 0 | .z => 0

/-- A source operand: a register, or the immediate in place of b (R36). -/
inductive Opd where
  | reg (r : Reg)
  | imm (v : Word)
deriving DecidableEq, Repr

/-- The 32-bit value of a source in a lane, read before the bundle (R32, R42 rule 5, R111). -/
def State.val (s : State) (w l : Nat) (x : Opd) : Word :=
  match x with
  | .reg r => (s.snap.read w l r).setWidth 32
  | .imm v => v

/-- The 64-bit value of a register, read before the bundle. -/
def State.val64 (s : State) (w l : Nat) (r : Reg) : DWord := s.snap.read w l r

/-- The value of an address operand, read before the bundle. -/
def State.addr (s : State) (w l : Nat) (r : Reg) : DWord := s.snap.addrOf w l r

/-- The guard of a word holds for the thread (R43). -/
def Block.guard (bk : Block) (w l : Nat) (g : BitVec 3) (gn : Bool) : Bool :=
  if g == 7 then true else (bk.thread w l).p.getLsbD g.toNat != gn

/-- The guard of a word holds for the thread, before the bundle. -/
def State.guard (s : State) (w l : Nat) (g : BitVec 3) (gn : Bool) : Bool := s.snap.guard w l g gn

/-- The warps of the issuing group, ascending. -/
def warpsOf (g : List (Nat × Nat)) : List Nat := sortBy id (g.map (·.1)).dedup

/-- The warps present in the issuing group (R42 rule 4, R127). -/
def State.warps (s : State) : List Nat := warpsOf s.iss.grp

/-- The issuing lanes of warp w, ascending: those that go on, which are what JSET.here loads (R139; log 147, DESIGN CHOICE). -/
def State.lanesOf (s : State) (w : Nat) : List Nat := (s.iss.grp.filter (·.1 == w)).map (·.2)

/-- The lowest-numbered issuing lane of warp w that goes on: ELECT's e (R140; log 146, DESIGN CHOICE). -/
def State.lowest (s : State) (w : Nat) : Nat := (s.lanesOf w).head?.getD 0

/-- The core cycle of the issuing core that is at hand (R4). -/
def State.now (s : State) : Nat := s.coreNow s.iss.core
/-- Core cycles of the issuing core in chip cycles (R4). -/
def State.cycles (s : State) (n : Nat) : Nat := s.lat s.iss.core n

/-- A word that writes an unmapped mapped name first allocates its row, as RNEW.z does, in every warp of the group
(R115, R116). -/
def State.openIn (s : State) (ws : List Nat) (d : Reg) : State :=
  match d with
  | .v n => ws.foldl (fun s w =>
      if (s.here.mapOf w n).isNone then
        match s.alloc s.iss.core s.iss.blk (n.toNat % 4) true with
        | none => s
        | some (s, r) => s.modBlock s.iss.blk fun bk => bk.setMap w n (some (.row r))
      else s) s
  | .o _ => s | .last _ => s | .z => s | .s _ => s

/-- `openIn` for the group's warps. -/
def State.open (s : State) (d : Reg) : State := s.openIn s.warps d

/-- The allocations of a word with several destinations: warp by warp, its registers in order (R115). -/
def State.openAll (s : State) (ws : List Nat) (ds : List Reg) : State :=
  ws.foldl (fun s w => ds.foldl (fun s d => s.openIn [w] d) s) s

/-- Where a write to register d of (w, l) lands: the row the name mapped to before the bundle, or the one just
allocated (R95, R116). -/
def State.target (s : State) (w l : Nat) (d : Reg) : Tgt :=
  match d with
  | .v n =>
    match s.snap.mapOf w n with
    | some (.row r) => .row r l
    | some .pending => .none
    | none => match s.here.mapOf w n with
      | some (.row r) => .row r l
      | some .pending => .none
      | none => .none
  | .o n => .oreg w n.toNat l
  | .s n => .scalar w n.toNat
  | .last _ => .none
  | .z => .none

/-- The last-result register of the word being executed, in a lane; a P word's high half has none (R38, R99). -/
def State.lastOf (s : State) (w l : Nat) : Option (Nat × Nat × Nat) :=
  match s.iss.half with
  | .hi => none
  | .whole => some (w, l, s.iss.pos)
  | .lo => some (w, l, s.iss.pos)

/-- A result of fixed latency for one lane (R95, R96), with the word's last-result register. -/
def State.write (s : State) (w l : Nat) (d : Reg) (lat : Nat) (v : Word) : State :=
  s.post s.iss.blk 0 (some (s.now + lat)) (s.target w l d) (v.setWidth 64) (s.lastOf w l)

/-- A result for one lane that leaves the last-result register alone. -/
def State.writeQuiet (s : State) (w l : Nat) (d : Reg) (lat : Nat) (v : Word) : State :=
  s.post s.iss.blk 0 (some (s.now + lat)) (s.target w l d) (v.setWidth 64) none

/-- A 64-bit result for a scalar register of warp w, and the last-result register of its issuing threads (R98, R152). -/
def State.writeScalar (s : State) (w : Nat) (d : Reg) (lat : Nat) (v : DWord) (last : Bool) : State :=
  let s := match d with
    | .s n => s.post s.iss.blk 0 (some (s.now + lat)) (.scalar w n.toNat) v none
    | .v _ => s | .o _ => s | .last _ => s | .z => s
  if last then (s.lanesOf w).foldl (fun s l =>
      s.post s.iss.blk 0 (some (s.now + lat)) .none v (s.lastOf w l)) s
  else s

/-- A predicate written by one thread, at the word's landing (R134). -/
def State.writePred (s : State) (w l k lat : Nat) (t : Bool) : State :=
  s.post s.iss.blk 0 (some (s.now + lat)) (.pred w l k) (if t then 1 else 0) none

/-- Predicate field pd: 0 for none, k + 1 for `$pk` (R134). -/
def State.writePd (s : State) (w l : Nat) (pd : Nat) (lat : Nat) (t : Bool) : State :=
  if pd = 0 then s else s.writePred w l (pd - 1) lat t

/-- The issuing threads do not issue before `lat` core cycles from now (R98). -/
def State.holdFor (s : State) (lat : Nat) : State :=
  s.modBlock s.iss.blk fun bk => bk.modThreads s.iss.grp fun t => { t with ready := max t.ready (s.now + lat) }

/-- A per-lane word: every issuing thread's lane of d receives f (R95, R152). -/
def State.perLane (s : State) (d : Reg) (lat : Nat) (f : Nat → Nat → Word) : State :=
  s.iss.grp.foldl (fun s p => s.write p.1 p.2 d lat (f p.1 p.2)) (s.open d)

/-- A per-lane word with a second destination e, which leaves the last-result register to d (R178). -/
def State.perLane2 (s : State) (d e : Reg) (lat : Nat) (f : Nat → Nat → Word × Word) : State :=
  s.iss.grp.foldl (fun s p =>
    (s.write p.1 p.2 d lat (f p.1 p.2).1).writeQuiet p.1 p.2 e lat (f p.1 p.2).2) (s.openAll s.warps [d, e])

/-- A word of the scalar unit: once for each warp, at its lowest lane (R42 rule 4, R152). -/
def State.perWarp (s : State) (d : Reg) (lat : Nat) (f : Nat → DWord) : State :=
  s.warps.foldl (fun s w => s.writeScalar w d lat (f w) true) s

/-- An arithmetic word of three sources (R152): per lane with latency `lat`, or on the scalar unit with latency 1. -/
def State.alu (s : State) (su : Bool) (d : Reg) (a b c : Opd) (lat : Nat) (f : Word → Word → Word → Word) : State :=
  if su then
    s.perWarp d 1 fun w =>
      let l := s.lowest w
      (f (s.val w l a) (s.val w l b) (s.val w l c)).setWidth 64
  else s.perLane d lat fun w l => f (s.val w l a) (s.val w l b) (s.val w l c)

/-- The last-result register alone, of every issuing thread (R99). -/
def State.lastOnly (s : State) (w l lat : Nat) (v : Word) : State :=
  s.post s.iss.blk 0 (some (s.now + lat)) .none (v.setWidth 64) (s.lastOf w l)

/-- Control of one issuing thread goes to an address; it arrives from the bundle being issued (R32, R138). -/
def State.goto (s : State) (w l : Nat) (dest : DWord) : State :=
  s.modThread s.iss.blk w l fun t => t.goto dest (some s.iss.addr)

/-- A hold of one issuing thread (R90 condition 2). -/
def State.holdThread (s : State) (w l : Nat) (h : Hold) : State :=
  s.modThread s.iss.blk w l (·.addHold h)

/-- Every issuing thread changed by f. -/
def State.eachThread (s : State) (f : Thread → Thread) : State :=
  s.modBlock s.iss.blk fun bk => bk.modThreads s.iss.grp f

end Sys2Proof.Machine
end

