-- ==== Sys2Proof/Machine/Flags.lean ====
section
/-! DEFINITION. Sys2Proof/Machine/Flags.lean: what the machine computes into predicates: relations, carries, saturation
(R134, R153, R154, R157, R159). -/

namespace Sys2Proof.Machine

open Sys2Proof

/-- The integer a pattern stands for: unsigned with `un`, else two's complement (R152, R154). -/
def patInt (un : Bool) (x : Word) : Int := if un then (x.toNat : Int) else x.toInt

/-- Clamp to the limits of `.n32` or `.i32` (R154). -/
def clampPat (un : Bool) (e : Int) : Int :=
  if un then max 0 (min e (2 ^ 32 - 1)) else max (-2 ^ 31) (min e (2 ^ 31 - 1))

/-- A result: saturated, or taken mod 2^32 (R152, R154). -/
def narrow (sat un : Bool) (e : Int) : Word := BitVec.ofInt 32 (if sat then clampPat un e else e)

/-- ISET's relation (R153, R157). -/
def relation (un : Bool) (cond : Nat) (x y : Word) : Bool :=
  let p := patInt un x
  let q := patInt un y
  if cond = 0 then p == q else if cond = 1 then p != q else if cond = 2 then decide (p < q)
  else if cond = 3 then decide (p ≤ q) else if cond = 4 then decide (p > q) else decide (p ≥ q)

/-- ISET's result (R157). -/
def isetVal (t : Bool) : Word := if t then 0xFFFFFFFF else 0

/-- IADDX's exact sum (R159). -/
def iaddxSum (sub : Bool) (x y : Word) (cin : Bool) : Nat :=
  x.toNat + (if sub then ~~~y else y).toNat + (if cin then 1 else 0)

/-- IADDX's carry out (R159). -/
def iaddxCarry (sub : Bool) (x y : Word) (cin : Bool) : Bool := decide (iaddxSum sub x y cin ≥ 2 ^ 32)

/-- The carry in: predicate field ci, or 1 for `.sub` and 0 otherwise (R134, R159). -/
def State.carryIn (s : State) (w l : Nat) (ci : Nat) (sub : Bool) : Bool :=
  if ci = 0 then sub else (s.snap.thread w l).p.getLsbD (ci - 1)

/-- A predicate from one value for every issuing thread of a warp (R134). -/
def State.writePdWarp (s : State) (w pd lat : Nat) (t : Bool) : State :=
  (s.lanesOf w).foldl (fun s l => s.writePd w l pd lat t) s

end Sys2Proof.Machine
end

