-- ==== Sys2Proof/Decode.lean ====
section
/-! DEFINITION. Sys2Proof/Decode.lean: from the bits of a bundle to its instructions (R30, R35–R49, R51), rejecting
by name, and the encoder written from the same tables. -/

namespace Sys2Proof

/-- Why a bundle is no code bundle. `pool` raises POOLFETCH, every other reason ILLEGAL (R51). -/
inductive Reject where
  /-- W0's kind is 0110 (R33). -/
  | pool
  /-- W0's kind is neither 1010 nor 0110 (R30). -/
  | kind
  /-- A reserved bit of W0 is set (R30). -/
  | reserved
  /-- An empty slot holds a word, or the form or opcode is not of the slot's class (R45). -/
  | slot
  /-- The operation code is reserved, or not defined for the form (R47, R48, R49). -/
  | opcode
  /-- A reserved specifier (R40, R41). -/
  | specifier
  /-- The guard is not legal (R43). -/
  | guard
  /-- A specifier is not of a class the instruction allows, or an unused field is not `$z` with trap bit 0 (R42). -/
  | operand
  /-- A modifier, kind or immediate value that the instruction does not define (R37). -/
  | modifier
  /-- A check of R46. -/
  | pair
  /-- A composition limit of R45. -/
  | composition
deriving DecidableEq, Repr

/-! ### Specifiers -/

/-- The 9-bit specifier (R40). -/
def decodeReg9 (x : BitVec 9) : Option Reg :=
  let n := x.toNat
  if n < 0x100 then some (.v (BitVec.ofNat 8 n))
  else if n < 0x108 then some (.o (BitVec.ofNat 3 (n - 0x100)))
  else if n = 0x108 then some (.last .la)
  else if n = 0x109 then some (.last .lb)
  else if n = 0x10A then some (.last .lc)
  else if n = 0x10B then some .z
  else if 0x140 ≤ n ∧ n < 0x180 then some (.s (BitVec.ofNat 6 (n - 0x140)))
  else none

/-- The 8-bit specifier (R41). -/
def decodeReg8 (x : BitVec 8) : Option Reg :=
  let n := x.toNat
  if n < 0x80 then some (.v (BitVec.ofNat 8 n))
  else if n < 0x88 then some (.o (BitVec.ofNat 3 (n - 0x80)))
  else if n = 0x88 then some (.last .la)
  else if n = 0x89 then some (.last .lb)
  else if n = 0x8A then some (.last .lc)
  else if n = 0x8B then some .z
  else if 0xC0 ≤ n then some (.s (BitVec.ofNat 6 (n - 0xC0)))
  else none

/-- The 9-bit specifier of a register (R40). -/
def encodeReg9 : Reg → BitVec 9
  | .v n => n.setWidth 9
  | .o n => 0x100#9 ||| n.setWidth 9
  | .last .la => 0x108#9
  | .last .lb => 0x109#9
  | .last .lc => 0x10A#9
  | .z => 0x10B#9
  | .s n => 0x140#9 ||| n.setWidth 9

/-- The 8-bit specifier of a register that has one (R41). -/
def encodeReg8 : Reg → BitVec 8
  | .v n => n
  | .o n => 0x80#8 ||| n.setWidth 8
  | .last .la => 0x88#8
  | .last .lb => 0x89#8
  | .last .lc => 0x8A#8
  | .z => 0x8B#8
  | .s n => 0xC0#8 ||| n.setWidth 8

/-! ### The fields of the four forms -/

/-- The F form's fields (R35). -/
def fieldsF (x : BitVec 64) : Option FWord := do
  let d ← decodeReg9 (x.extractLsb' 45 9)
  let a ← decodeReg9 (x.extractLsb' 36 9)
  let b ← decodeReg9 (x.extractLsb' 27 9)
  let c ← decodeReg9 (x.extractLsb' 18 9)
  return { d, a, b, c, tba := x.getLsbD 17, tbb := x.getLsbD 16, tbc := x.getLsbD 15,
           g := x.extractLsb' 12 3, gn := x.getLsbD 11, mod := x.extractLsb' 0 11 }

/-- The I form's fields (R36). -/
def fieldsI (x : BitVec 64) : Option IWord := do
  let d ← decodeReg9 (x.extractLsb' 45 9)
  let a ← decodeReg9 (x.extractLsb' 36 9)
  return { d, a, g := x.extractLsb' 33 3, gn := x.getLsbD 32, imm := x.extractLsb' 0 32 }

/-- A P half's fields (R38). -/
def fieldsP (x : BitVec 31) : Option PHalf := do
  let d ← decodeReg8 (x.extractLsb' 17 8)
  let s ← decodeReg8 (x.extractLsb' 9 8)
  return { d, s, tbs := x.getLsbD 8, tbd := x.getLsbD 7, pmod := x.extractLsb' 0 7 }

/-- The M form's fields (R39). -/
def fieldsM (x : BitVec 64) : Option MWord := do
  let d ← decodeReg9 (x.extractLsb' 47 9)
  let a ← decodeReg9 (x.extractLsb' 38 9)
  let b ← decodeReg9 (x.extractLsb' 29 9)
  return { d, a, b, g := x.extractLsb' 26 3, gn := x.getLsbD 25, tbb := x.getLsbD 24,
           kind := x.extractLsb' 20 4, imm := x.extractLsb' 0 20 }

/-- The F form's layout (R35). -/
def packF (op : BitVec 8) (w : FWord) : BitVec 64 :=
  0#2 ++ op ++ encodeReg9 w.d ++ encodeReg9 w.a ++ encodeReg9 w.b ++ encodeReg9 w.c ++
  BitVec.ofBool w.tba ++ BitVec.ofBool w.tbb ++ BitVec.ofBool w.tbc ++ w.g ++ BitVec.ofBool w.gn ++ w.mod

/-- The I form's layout (R36). -/
def packI (op : BitVec 8) (w : IWord) : BitVec 64 :=
  2#2 ++ op ++ encodeReg9 w.d ++ encodeReg9 w.a ++ w.g ++ BitVec.ofBool w.gn ++ w.imm

/-- A P half's layout (R38). -/
def packP (op : BitVec 6) (h : PHalf) : BitVec 31 :=
  op ++ encodeReg8 h.d ++ encodeReg8 h.s ++ BitVec.ofBool h.tbs ++ BitVec.ofBool h.tbd ++ h.pmod

/-- The M form's layout (R39). -/
def packM (op : BitVec 6) (w : MWord) : BitVec 64 :=
  3#2 ++ op ++ encodeReg9 w.d ++ encodeReg9 w.a ++ encodeReg9 w.b ++ w.g ++ BitVec.ofBool w.gn ++
  BitVec.ofBool w.tbb ++ w.kind ++ w.imm

/-! ### The operation maps (R47, R48, R49) -/

/-- The F forms of the op8 map (R47). -/
def opF (op : Nat) (w : FWord) : Option Instr :=
  match op with
  | 0x00 => some (.nop w)
  | 0x02 => some (.br w)
  | 0x03 => some (.jmpi w)
  | 0x05 => some (.calli w)
  | 0x06 => some (.ret w)
  | 0x07 => some (.jset w)
  | 0x08 => some (.jwait w)
  | 0x09 => some (.elect w)
  | 0x0A => some (.exit w)
  | 0x0D => some (.sleepc w)
  | 0x0E => some (.napto w)
  | 0x0F => some (.hint w)
  | 0x10 => some (.yield w)
  | 0x12 => some (.eret w)
  | 0x13 => some (.srd w)
  | 0x14 => some (.swr w)
  | 0x18 => some (.rnew w)
  | 0x19 => some (.rfree w)
  | 0x1A => some (.rmov w)
  | 0x1B => some (.rswap w)
  | 0x1C => some (.ralias w)
  | 0x1D => some (.give w)
  | 0x1E => some (.take w)
  | 0x1F => some (.mapq w)
  | 0x20 => some (.sete w)
  | 0x21 => some (.empq w)
  | 0x40 => some (.iadd w)
  | 0x41 => some (.isub w)
  | 0x42 => some (.imul w)
  | 0x43 => some (.imulh w)
  | 0x44 => some (.imad w)
  | 0x45 => some (.imin w)
  | 0x46 => some (.imax w)
  | 0x47 => some (.iabs w)
  | 0x48 => some (.and w)
  | 0x49 => some (.or w)
  | 0x4A => some (.xor w)
  | 0x4B => some (.not w)
  | 0x4C => some (.shl w)
  | 0x4D => some (.shr w)
  | 0x4E => some (.sar w)
  | 0x4F => some (.rotl w)
  | 0x50 => some (.popc w)
  | 0x51 => some (.clz w)
  | 0x52 => some (.brev w)
  | 0x53 => some (.bfx w)
  | 0x54 => some (.bfi w)
  | 0x55 => some (.lea w)
  | 0x56 => some (.iset w)
  | 0x57 => some (.sel w)
  | 0x59 => some (.dup w)
  | 0x5A => some (.iaddx w)
  | 0x5B => some (.idot4 w)
  | 0x60 => some (.fadd w)
  | 0x61 => some (.fsub w)
  | 0x62 => some (.fmul w)
  | 0x63 => some (.ffma w)
  | 0x64 => some (.fmin w)
  | 0x65 => some (.fmax w)
  | 0x66 => some (.fset w)
  | 0x67 => some (.frcp w)
  | 0x68 => some (.frsq w)
  | 0x69 => some (.fsqrt w)
  | 0x6A => some (.fex2 w)
  | 0x6B => some (.flg2 w)
  | 0x6C => some (.fsin w)
  | 0x6D => some (.fcos w)
  | 0x6E => some (.ftnh w)
  | 0x6F => some (.fcvt w)
  | 0x70 => some (.cvtef w)
  | 0x71 => some (.hadd2 w)
  | 0x72 => some (.hmul2 w)
  | 0x73 => some (.hfma2 w)
  | 0x74 => some (.fdot8 w)
  | 0x75 => some (.topki w)
  | 0x76 => some (.frnd w)
  | 0x77 => some (.f2i w)
  | 0x78 => some (.i2f w)
  | 0x80 => some (.qswp w)
  | 0x81 => some (.qbrd w)
  | 0x82 => some (.shfl w)
  | 0x83 => some (.shflx w)
  | 0x84 => some (.vote w)
  | 0x85 => some (.redw w)
  | 0x86 => some (.scanw w)
  | 0x87 => some (.matchW w)
  | _ => none

/-- The I forms of the op8 map (R47). -/
def opI (op : Nat) (w : IWord) : Option Instr :=
  match op with
  | 0x01 => some (.bra w)
  | 0x04 => some (.call w)
  | 0x07 => some (.jsetI w)
  | 0x0B => some (.trap w)
  | 0x0C => some (.bkpt w)
  | 0x0D => some (.sleepcI w)
  | 0x11 => some (.sysc w)
  | 0x40 => some (.iaddI w)
  | 0x41 => some (.isubI w)
  | 0x42 => some (.imulI w)
  | 0x43 => some (.imulhI w)
  | 0x45 => some (.iminI w)
  | 0x46 => some (.imaxI w)
  | 0x48 => some (.andI w)
  | 0x49 => some (.orI w)
  | 0x4A => some (.xorI w)
  | 0x4C => some (.shlI w)
  | 0x4D => some (.shrI w)
  | 0x4E => some (.sarI w)
  | 0x4F => some (.rotlI w)
  | 0x53 => some (.bfxI w)
  | 0x57 => some (.selI w)
  | 0x58 => some (.movi w)
  | 0x60 => some (.faddI w)
  | 0x61 => some (.fsubI w)
  | 0x62 => some (.fmulI w)
  | 0x64 => some (.fminI w)
  | 0x65 => some (.fmaxI w)
  | 0x71 => some (.hadd2I w)
  | 0x72 => some (.hmul2I w)
  | 0x82 => some (.shflI w)
  | 0x83 => some (.shflxI w)
  | _ => none

/-- The pair codes (R49). -/
def opP (op : Nat) (h : PHalf) : Option Instr :=
  match op with
  | 0x00 => some (.iaddPair h)
  | 0x01 => some (.isubPair h)
  | 0x02 => some (.imulPair h)
  | 0x03 => some (.iminPair h)
  | 0x04 => some (.imaxPair h)
  | 0x05 => some (.andPair h)
  | 0x06 => some (.orPair h)
  | 0x07 => some (.xorPair h)
  | 0x08 => some (.shlPair h)
  | 0x09 => some (.shrPair h)
  | 0x0A => some (.sarPair h)
  | 0x0B => some (.notPair h)
  | 0x0C => some (.iabsPair h)
  | 0x0D => some (.popcPair h)
  | 0x0E => some (.clzPair h)
  | 0x0F => some (.dupPair h)
  | 0x10 => some (.faddPair h)
  | 0x11 => some (.fsubPair h)
  | 0x12 => some (.fmulPair h)
  | 0x13 => some (.fminPair h)
  | 0x14 => some (.fmaxPair h)
  | 0x15 => some (.hadd2Pair h)
  | 0x16 => some (.hmul2Pair h)
  | 0x17 => some (.frndPair h)
  | _ => none

/-- The op6 map (R48). -/
def opM (op : Nat) (w : MWord) : Option Instr :=
  match op with
  | 0x00 => some (.ldg w)
  | 0x01 => some (.stg w)
  | 0x02 => some (.ldl w)
  | 0x03 => some (.stl w)
  | 0x04 => some (.ldk w)
  | 0x05 => some (.pref w)
  | 0x06 => some (.phase w)
  | 0x07 => some (.fencel w)
  | 0x08 => some (.amo w)
  | 0x09 => some (.amol w)
  | 0x0A => some (.amos w)
  | 0x0B => some (.acas w)
  | 0x0C => some (.rctr w)
  | 0x0D => some (.rsnap w)
  | 0x0E => some (.cflsh w)
  | 0x0F => some (.tlbi w)
  | 0x10 => some (.cpyl w)
  | 0x11 => some (.bcpy w)
  | 0x12 => some (.bcpym w)
  | 0x13 => some (.bcpyg w)
  | 0x14 => some (.bcpya w)
  | 0x15 => some (.bcpyq w)
  | 0x16 => some (.bbini w)
  | 0x17 => some (.bbwt w)
  | 0x18 => some (.lnemp w)
  | 0x20 => some (.mma w)
  | 0x21 => some (.mmau w)
  | 0x22 => some (.accz w)
  | 0x23 => some (.accld w)
  | 0x24 => some (.accst w)
  | 0x25 => some (.accvq w)
  | 0x26 => some (.unfcf w)
  | 0x27 => some (.accsv w)
  | 0x28 => some (.accrs w)
  | 0x29 => some (.accown w)
  | 0x30 => some (.bar w)
  | 0x31 => some (.bara w)
  | 0x32 => some (.barw w)
  | 0x33 => some (.spawn w)
  | 0x34 => some (.tnext w)
  | 0x35 => some (.ftnew w)
  | 0x36 => some (.ftful w)
  | 0x37 => some (.ftget w)
  | 0x38 => some (.ftwait w)
  | 0x39 => some (.ftdrop w)
  | 0x3A => some (.resamp w)
  | 0x3B => some (.rand w)
  | _ => none

/-- The 64-bit word of an instruction that is a whole word; a P half alone and an event have none. -/
def encodeWord : Instr → Option (BitVec 64)
  | .nop w => some (packF 0x00#8 w)
  | .bra w => some (packI 0x01#8 w)
  | .br w => some (packF 0x02#8 w)
  | .jmpi w => some (packF 0x03#8 w)
  | .call w => some (packI 0x04#8 w)
  | .calli w => some (packF 0x05#8 w)
  | .ret w => some (packF 0x06#8 w)
  | .jset w => some (packF 0x07#8 w)
  | .jsetI w => some (packI 0x07#8 w)
  | .jwait w => some (packF 0x08#8 w)
  | .elect w => some (packF 0x09#8 w)
  | .exit w => some (packF 0x0A#8 w)
  | .trap w => some (packI 0x0B#8 w)
  | .bkpt w => some (packI 0x0C#8 w)
  | .sysc w => some (packI 0x11#8 w)
  | .sleepc w => some (packF 0x0D#8 w)
  | .sleepcI w => some (packI 0x0D#8 w)
  | .napto w => some (packF 0x0E#8 w)
  | .hint w => some (packF 0x0F#8 w)
  | .yield w => some (packF 0x10#8 w)
  | .eret w => some (packF 0x12#8 w)
  | .srd w => some (packF 0x13#8 w)
  | .swr w => some (packF 0x14#8 w)
  | .rnew w => some (packF 0x18#8 w)
  | .rfree w => some (packF 0x19#8 w)
  | .rmov w => some (packF 0x1A#8 w)
  | .rswap w => some (packF 0x1B#8 w)
  | .ralias w => some (packF 0x1C#8 w)
  | .give w => some (packF 0x1D#8 w)
  | .take w => some (packF 0x1E#8 w)
  | .mapq w => some (packF 0x1F#8 w)
  | .sete w => some (packF 0x20#8 w)
  | .empq w => some (packF 0x21#8 w)
  | .iadd w => some (packF 0x40#8 w)
  | .iaddI w => some (packI 0x40#8 w)
  | .iaddPair _ => none
  | .isub w => some (packF 0x41#8 w)
  | .isubI w => some (packI 0x41#8 w)
  | .isubPair _ => none
  | .imul w => some (packF 0x42#8 w)
  | .imulI w => some (packI 0x42#8 w)
  | .imulPair _ => none
  | .imulh w => some (packF 0x43#8 w)
  | .imulhI w => some (packI 0x43#8 w)
  | .imad w => some (packF 0x44#8 w)
  | .imin w => some (packF 0x45#8 w)
  | .iminI w => some (packI 0x45#8 w)
  | .iminPair _ => none
  | .imax w => some (packF 0x46#8 w)
  | .imaxI w => some (packI 0x46#8 w)
  | .imaxPair _ => none
  | .iabs w => some (packF 0x47#8 w)
  | .iabsPair _ => none
  | .and w => some (packF 0x48#8 w)
  | .andI w => some (packI 0x48#8 w)
  | .andPair _ => none
  | .or w => some (packF 0x49#8 w)
  | .orI w => some (packI 0x49#8 w)
  | .orPair _ => none
  | .xor w => some (packF 0x4A#8 w)
  | .xorI w => some (packI 0x4A#8 w)
  | .xorPair _ => none
  | .not w => some (packF 0x4B#8 w)
  | .notPair _ => none
  | .shl w => some (packF 0x4C#8 w)
  | .shlI w => some (packI 0x4C#8 w)
  | .shlPair _ => none
  | .shr w => some (packF 0x4D#8 w)
  | .shrI w => some (packI 0x4D#8 w)
  | .shrPair _ => none
  | .sar w => some (packF 0x4E#8 w)
  | .sarI w => some (packI 0x4E#8 w)
  | .sarPair _ => none
  | .rotl w => some (packF 0x4F#8 w)
  | .rotlI w => some (packI 0x4F#8 w)
  | .popc w => some (packF 0x50#8 w)
  | .popcPair _ => none
  | .clz w => some (packF 0x51#8 w)
  | .clzPair _ => none
  | .brev w => some (packF 0x52#8 w)
  | .bfx w => some (packF 0x53#8 w)
  | .bfxI w => some (packI 0x53#8 w)
  | .bfi w => some (packF 0x54#8 w)
  | .lea w => some (packF 0x55#8 w)
  | .iset w => some (packF 0x56#8 w)
  | .sel w => some (packF 0x57#8 w)
  | .selI w => some (packI 0x57#8 w)
  | .movi w => some (packI 0x58#8 w)
  | .dup w => some (packF 0x59#8 w)
  | .dupPair _ => none
  | .iaddx w => some (packF 0x5A#8 w)
  | .idot4 w => some (packF 0x5B#8 w)
  | .fadd w => some (packF 0x60#8 w)
  | .faddI w => some (packI 0x60#8 w)
  | .faddPair _ => none
  | .fsub w => some (packF 0x61#8 w)
  | .fsubI w => some (packI 0x61#8 w)
  | .fsubPair _ => none
  | .fmul w => some (packF 0x62#8 w)
  | .fmulI w => some (packI 0x62#8 w)
  | .fmulPair _ => none
  | .ffma w => some (packF 0x63#8 w)
  | .fmin w => some (packF 0x64#8 w)
  | .fminI w => some (packI 0x64#8 w)
  | .fminPair _ => none
  | .fmax w => some (packF 0x65#8 w)
  | .fmaxI w => some (packI 0x65#8 w)
  | .fmaxPair _ => none
  | .fset w => some (packF 0x66#8 w)
  | .frcp w => some (packF 0x67#8 w)
  | .frsq w => some (packF 0x68#8 w)
  | .fsqrt w => some (packF 0x69#8 w)
  | .fex2 w => some (packF 0x6A#8 w)
  | .flg2 w => some (packF 0x6B#8 w)
  | .fsin w => some (packF 0x6C#8 w)
  | .fcos w => some (packF 0x6D#8 w)
  | .ftnh w => some (packF 0x6E#8 w)
  | .fcvt w => some (packF 0x6F#8 w)
  | .cvtef w => some (packF 0x70#8 w)
  | .hadd2 w => some (packF 0x71#8 w)
  | .hadd2I w => some (packI 0x71#8 w)
  | .hadd2Pair _ => none
  | .hmul2 w => some (packF 0x72#8 w)
  | .hmul2I w => some (packI 0x72#8 w)
  | .hmul2Pair _ => none
  | .hfma2 w => some (packF 0x73#8 w)
  | .fdot8 w => some (packF 0x74#8 w)
  | .topki w => some (packF 0x75#8 w)
  | .frnd w => some (packF 0x76#8 w)
  | .frndPair _ => none
  | .f2i w => some (packF 0x77#8 w)
  | .i2f w => some (packF 0x78#8 w)
  | .qswp w => some (packF 0x80#8 w)
  | .qbrd w => some (packF 0x81#8 w)
  | .shfl w => some (packF 0x82#8 w)
  | .shflI w => some (packI 0x82#8 w)
  | .shflx w => some (packF 0x83#8 w)
  | .shflxI w => some (packI 0x83#8 w)
  | .vote w => some (packF 0x84#8 w)
  | .redw w => some (packF 0x85#8 w)
  | .scanw w => some (packF 0x86#8 w)
  | .matchW w => some (packF 0x87#8 w)
  | .ldg w => some (packM 0x00#6 w)
  | .stg w => some (packM 0x01#6 w)
  | .ldl w => some (packM 0x02#6 w)
  | .stl w => some (packM 0x03#6 w)
  | .ldk w => some (packM 0x04#6 w)
  | .pref w => some (packM 0x05#6 w)
  | .phase w => some (packM 0x06#6 w)
  | .fencel w => some (packM 0x07#6 w)
  | .amo w => some (packM 0x08#6 w)
  | .amol w => some (packM 0x09#6 w)
  | .amos w => some (packM 0x0A#6 w)
  | .acas w => some (packM 0x0B#6 w)
  | .rctr w => some (packM 0x0C#6 w)
  | .rsnap w => some (packM 0x0D#6 w)
  | .cflsh w => some (packM 0x0E#6 w)
  | .tlbi w => some (packM 0x0F#6 w)
  | .cpyl w => some (packM 0x10#6 w)
  | .bcpy w => some (packM 0x11#6 w)
  | .bcpym w => some (packM 0x12#6 w)
  | .bcpyg w => some (packM 0x13#6 w)
  | .bcpya w => some (packM 0x14#6 w)
  | .bcpyq w => some (packM 0x15#6 w)
  | .bbini w => some (packM 0x16#6 w)
  | .bbwt w => some (packM 0x17#6 w)
  | .lnemp w => some (packM 0x18#6 w)
  | .mma w => some (packM 0x20#6 w)
  | .mmau w => some (packM 0x21#6 w)
  | .accz w => some (packM 0x22#6 w)
  | .accld w => some (packM 0x23#6 w)
  | .accst w => some (packM 0x24#6 w)
  | .accvq w => some (packM 0x25#6 w)
  | .unfcf w => some (packM 0x26#6 w)
  | .accsv w => some (packM 0x27#6 w)
  | .accrs w => some (packM 0x28#6 w)
  | .accown w => some (packM 0x29#6 w)
  | .bar w => some (packM 0x30#6 w)
  | .bara w => some (packM 0x31#6 w)
  | .barw w => some (packM 0x32#6 w)
  | .spawn w => some (packM 0x33#6 w)
  | .tnext w => some (packM 0x34#6 w)
  | .ftnew w => some (packM 0x35#6 w)
  | .ftful w => some (packM 0x36#6 w)
  | .ftget w => some (packM 0x37#6 w)
  | .ftwait w => some (packM 0x38#6 w)
  | .ftdrop w => some (packM 0x39#6 w)
  | .resamp w => some (packM 0x3A#6 w)
  | .rand w => some (packM 0x3B#6 w)
  | .emptyBundle => none
  | .handlerEntry _ _ _ => none
  | .resultLanding _ => none
  | .translation _ => none
  | .memoryFaultDetection _ _ _ => none
  | .loadArrival _ _ => none
  | .registerRepair _ _ _ _ => none
  | .memoryHoldRelease _ _ _ => none
  | .move _ _ _ => none
  | .fill _ _ _ => none
  | .drop _ _ _ => none
  | .icacheFill _ _ => none
  | .icacheDrop _ _ => none
  | .copyStart _ _ => none
  | .copyDeliver _ _ _ => none
  | .late _ _ => none
  | .matrixStart _ _ => none
  | .matrixComplete _ _ => none
  | .tileClaimTransfer _ _ => none
  | .tileAutoload _ _ => none
  | .wakeTime _ _ _ => none
  | .blockCompletion _ => none
  | .blockAdmission _ => none
  | .resampCollective _ => none
  | .drainEnd _ => none
  | .relocationResume _ => none
  | .slotBoundary => none
  | .restore _ => none
  | .migration _ => none
  | .scanStart _ => none
  | .scanEnd _ _ => none
  | .coreRetest _ _ _ => none
  | .nodeCommit _ => none
  | .rollback _ => none
  | .contextEnd _ => none
  | .dieFence _ => none
  | .masterElection => none
  | .hardwareUnitFailure _ => none
  | .spareSubstitution _ => none
  | .clusterGating _ => none
  | .clusterUngating _ => none
  | .classReassignment _ _ => none
  | .leaseExpiry _ => none
  | .slotTableCommit => none
  | .slotKindWrite _ _ => none
  | .rperiodWrite _ => none
  | .firmwareRegisterWrite _ => none
  | .deviceReset => none
  | .bootRomStart => none
  | .bootImageVerify => none
  | .hbmTraining _ => none
  | .fabricJoin _ _ _ => none
  | .attestationReady => none
  | .launch _ _ _ _ => none
  | .shapeCreate _ _ _ => none
  | .shapeFree _ _ _ => none
  | .ident _ => none
  | .ctxnew _ _ _ _ => none
  | .ctxend _ _ => none
  | .lease _ _ _ => none
  | .telem _ _ => none
  | .capread _ => none
  | .keyset _ _ _ => none
  | .attest _ _ => none
  | .unknownMessageCode _ _ => none
  | .hostFabricAccess _ => none
  | .softError _ => none
  | .linkFailure _ => none

/-- The 31 bits of an instruction that is half of a P word (R38, R49). -/
def encodeHalf : Instr → Option (BitVec 31)
  | .nop _ => none
  | .bra _ => none
  | .br _ => none
  | .jmpi _ => none
  | .call _ => none
  | .calli _ => none
  | .ret _ => none
  | .jset _ => none
  | .jsetI _ => none
  | .jwait _ => none
  | .elect _ => none
  | .exit _ => none
  | .trap _ => none
  | .bkpt _ => none
  | .sysc _ => none
  | .sleepc _ => none
  | .sleepcI _ => none
  | .napto _ => none
  | .hint _ => none
  | .yield _ => none
  | .eret _ => none
  | .srd _ => none
  | .swr _ => none
  | .rnew _ => none
  | .rfree _ => none
  | .rmov _ => none
  | .rswap _ => none
  | .ralias _ => none
  | .give _ => none
  | .take _ => none
  | .mapq _ => none
  | .sete _ => none
  | .empq _ => none
  | .iadd _ => none
  | .iaddI _ => none
  | .iaddPair h => some (packP 0#6 h)
  | .isub _ => none
  | .isubI _ => none
  | .isubPair h => some (packP 1#6 h)
  | .imul _ => none
  | .imulI _ => none
  | .imulPair h => some (packP 2#6 h)
  | .imulh _ => none
  | .imulhI _ => none
  | .imad _ => none
  | .imin _ => none
  | .iminI _ => none
  | .iminPair h => some (packP 3#6 h)
  | .imax _ => none
  | .imaxI _ => none
  | .imaxPair h => some (packP 4#6 h)
  | .iabs _ => none
  | .iabsPair h => some (packP 12#6 h)
  | .and _ => none
  | .andI _ => none
  | .andPair h => some (packP 5#6 h)
  | .or _ => none
  | .orI _ => none
  | .orPair h => some (packP 6#6 h)
  | .xor _ => none
  | .xorI _ => none
  | .xorPair h => some (packP 7#6 h)
  | .not _ => none
  | .notPair h => some (packP 11#6 h)
  | .shl _ => none
  | .shlI _ => none
  | .shlPair h => some (packP 8#6 h)
  | .shr _ => none
  | .shrI _ => none
  | .shrPair h => some (packP 9#6 h)
  | .sar _ => none
  | .sarI _ => none
  | .sarPair h => some (packP 10#6 h)
  | .rotl _ => none
  | .rotlI _ => none
  | .popc _ => none
  | .popcPair h => some (packP 13#6 h)
  | .clz _ => none
  | .clzPair h => some (packP 14#6 h)
  | .brev _ => none
  | .bfx _ => none
  | .bfxI _ => none
  | .bfi _ => none
  | .lea _ => none
  | .iset _ => none
  | .sel _ => none
  | .selI _ => none
  | .movi _ => none
  | .dup _ => none
  | .dupPair h => some (packP 15#6 h)
  | .iaddx _ => none
  | .idot4 _ => none
  | .fadd _ => none
  | .faddI _ => none
  | .faddPair h => some (packP 16#6 h)
  | .fsub _ => none
  | .fsubI _ => none
  | .fsubPair h => some (packP 17#6 h)
  | .fmul _ => none
  | .fmulI _ => none
  | .fmulPair h => some (packP 18#6 h)
  | .ffma _ => none
  | .fmin _ => none
  | .fminI _ => none
  | .fminPair h => some (packP 19#6 h)
  | .fmax _ => none
  | .fmaxI _ => none
  | .fmaxPair h => some (packP 20#6 h)
  | .fset _ => none
  | .frcp _ => none
  | .frsq _ => none
  | .fsqrt _ => none
  | .fex2 _ => none
  | .flg2 _ => none
  | .fsin _ => none
  | .fcos _ => none
  | .ftnh _ => none
  | .fcvt _ => none
  | .cvtef _ => none
  | .hadd2 _ => none
  | .hadd2I _ => none
  | .hadd2Pair h => some (packP 21#6 h)
  | .hmul2 _ => none
  | .hmul2I _ => none
  | .hmul2Pair h => some (packP 22#6 h)
  | .hfma2 _ => none
  | .fdot8 _ => none
  | .topki _ => none
  | .frnd _ => none
  | .frndPair h => some (packP 23#6 h)
  | .f2i _ => none
  | .i2f _ => none
  | .qswp _ => none
  | .qbrd _ => none
  | .shfl _ => none
  | .shflI _ => none
  | .shflx _ => none
  | .shflxI _ => none
  | .vote _ => none
  | .redw _ => none
  | .scanw _ => none
  | .matchW _ => none
  | .ldg _ => none
  | .stg _ => none
  | .ldl _ => none
  | .stl _ => none
  | .ldk _ => none
  | .pref _ => none
  | .phase _ => none
  | .fencel _ => none
  | .amo _ => none
  | .amol _ => none
  | .amos _ => none
  | .acas _ => none
  | .rctr _ => none
  | .rsnap _ => none
  | .cflsh _ => none
  | .tlbi _ => none
  | .cpyl _ => none
  | .bcpy _ => none
  | .bcpym _ => none
  | .bcpyg _ => none
  | .bcpya _ => none
  | .bcpyq _ => none
  | .bbini _ => none
  | .bbwt _ => none
  | .lnemp _ => none
  | .mma _ => none
  | .mmau _ => none
  | .accz _ => none
  | .accld _ => none
  | .accst _ => none
  | .accvq _ => none
  | .unfcf _ => none
  | .accsv _ => none
  | .accrs _ => none
  | .accown _ => none
  | .bar _ => none
  | .bara _ => none
  | .barw _ => none
  | .spawn _ => none
  | .tnext _ => none
  | .ftnew _ => none
  | .ftful _ => none
  | .ftget _ => none
  | .ftwait _ => none
  | .ftdrop _ => none
  | .resamp _ => none
  | .rand _ => none
  | .emptyBundle => none
  | .handlerEntry _ _ _ => none
  | .resultLanding _ => none
  | .translation _ => none
  | .memoryFaultDetection _ _ _ => none
  | .loadArrival _ _ => none
  | .registerRepair _ _ _ _ => none
  | .memoryHoldRelease _ _ _ => none
  | .move _ _ _ => none
  | .fill _ _ _ => none
  | .drop _ _ _ => none
  | .icacheFill _ _ => none
  | .icacheDrop _ _ => none
  | .copyStart _ _ => none
  | .copyDeliver _ _ _ => none
  | .late _ _ => none
  | .matrixStart _ _ => none
  | .matrixComplete _ _ => none
  | .tileClaimTransfer _ _ => none
  | .tileAutoload _ _ => none
  | .wakeTime _ _ _ => none
  | .blockCompletion _ => none
  | .blockAdmission _ => none
  | .resampCollective _ => none
  | .drainEnd _ => none
  | .relocationResume _ => none
  | .slotBoundary => none
  | .restore _ => none
  | .migration _ => none
  | .scanStart _ => none
  | .scanEnd _ _ => none
  | .coreRetest _ _ _ => none
  | .nodeCommit _ => none
  | .rollback _ => none
  | .contextEnd _ => none
  | .dieFence _ => none
  | .masterElection => none
  | .hardwareUnitFailure _ => none
  | .spareSubstitution _ => none
  | .clusterGating _ => none
  | .clusterUngating _ => none
  | .classReassignment _ _ => none
  | .leaseExpiry _ => none
  | .slotTableCommit => none
  | .slotKindWrite _ _ => none
  | .rperiodWrite _ => none
  | .firmwareRegisterWrite _ => none
  | .deviceReset => none
  | .bootRomStart => none
  | .bootImageVerify => none
  | .hbmTraining _ => none
  | .fabricJoin _ _ _ => none
  | .attestationReady => none
  | .launch _ _ _ _ => none
  | .shapeCreate _ _ _ => none
  | .shapeFree _ _ _ => none
  | .ident _ => none
  | .ctxnew _ _ _ _ => none
  | .ctxend _ _ => none
  | .lease _ _ _ => none
  | .telem _ _ => none
  | .capread _ => none
  | .keyset _ _ _ => none
  | .attest _ _ => none
  | .unknownMessageCode _ _ => none
  | .hostFabricAccess _ => none
  | .softError _ => none
  | .linkFailure _ => none

/-! ### Words -/

/-- The check of R51 row 4 that fails first, for an instruction whose fields are defined. -/
def Instr.check (i : Instr) : Except Reject Instr :=
  if !i.operandsOk then .error .operand
  else if !i.guardOk then .error .guard
  else if !i.modOk then .error .modifier
  else .ok i

/-- An F, I or M word: its fields, its operation, its checks (R51 row 4). A P word is read by `decodePair`. -/
def decodeWord (x : BitVec 64) : Except Reject Instr :=
  match (x.extractLsb' 62 2).toNat with
  | 0 => match fieldsF x with
    | none => .error .specifier
    | some w => match opF (x.extractLsb' 54 8).toNat w with
      | none => .error .opcode
      | some i => i.check
  | 2 => match fieldsI x with
    | none => .error .specifier
    | some w => match opI (x.extractLsb' 54 8).toNat w with
      | none => .error .opcode
      | some i => i.check
  | 3 => match fieldsM x with
    | none => .error .specifier
    | some w => match opM (x.extractLsb' 56 6).toNat w with
      | none => .error .opcode
      | some i => i.check
  | _ => .error .opcode

/-- The unary pair codes (R49). -/
def unaryCode (op : Nat) : Bool := (11 ≤ op && op ≤ 15) || op == 23

/-- One half of a P word (R46, checks 1 to 4 and 8). -/
def decodeHalf (x : BitVec 31) : Except Reject Instr :=
  match fieldsP x with
  | none => .error .specifier
  | some h => match opP (x.extractLsb' 25 6).toNat h with
    | none => .error .opcode
    | some i => if unaryCode (x.extractLsb' 25 6).toNat && h.tbd then .error .pair else i.check

/-- The high half of a P word (R38). -/
def highHalf (x : BitVec 64) : BitVec 31 := x.extractLsb' 31 31
/-- The low half of a P word (R38). -/
def lowHalf (x : BitVec 64) : BitVec 31 := x.extractLsb' 0 31

/-- A P word: its high half and its low half (R38, R46). -/
def decodePair (x : BitVec 64) : Except Reject (Instr × Instr) :=
  match decodeHalf (highHalf x), decodeHalf (lowHalf x) with
  | .ok hi, .ok lo => if pairOk hi lo then .ok (hi, lo) else .error .pair
  | .error e, .ok _ => .error e
  | .ok _, .error e => .error e
  | .error e, .error _ => .error e

/-- A P word of two halves (R38). -/
def encodePair (hi lo : Instr) : Option (BitVec 64) :=
  match encodeHalf hi, encodeHalf lo with
  | some x, some y => some (1#2 ++ x ++ y)
  | some _, none => none
  | none, some _ => none
  | none, none => none

/-! ### Slots and bundles -/

/-- The slot class of an instruction: 1 S, 2 V, 3 E (R45). -/
def Instr.slotClass (i : Instr) : BitVec 2 :=
  match i.family with
  | .control => 1#2 | .transfer => 1#2 | .mapEdit => 1#2
  | .integer => 2#2 | .float => 2#2 | .special => 2#2 | .crossLane => 2#2
  | .memory => 3#2 | .copy => 3#2 | .matrix => 3#2 | .task => 3#2
  | .event => 0#2

/-- The operation numbers of a word by class: S words have op8 0x00–0x3F, V words 0x40–0xFF or a P word, E words
the M form (R45). -/
def slotFits (cls : BitVec 2) (x : BitVec 64) : Bool :=
  match (x.extractLsb' 62 2).toNat with
  | 0 => cls == (if (x.extractLsb' 54 8).toNat < 0x40 then 1#2 else 2#2)
  | 1 => cls == 2#2
  | 2 => cls == (if (x.extractLsb' 54 8).toNat < 0x40 then 1#2 else 2#2)
  | _ => cls == 3#2

/-- The instructions in a slot of class cls at word position pos (R51 row 4). -/
def decodeSlot (pos : Nat) (cls : BitVec 2) (x : BitVec 64) : Except Reject (List Placed) :=
  if cls == 0#2 then (if x == 0#64 then .ok [] else .error .slot)
  else if !slotFits cls x then .error .slot
  else if (x.extractLsb' 62 2) == 1#2 then
    match decodePair x with
    | .ok (hi, lo) => .ok [⟨pos, .hi, hi⟩, ⟨pos, .lo, lo⟩]
    | .error e => .error e
  else
    match decodeWord x with
    | .ok i => .ok [⟨pos, .whole, i⟩]
    | .error e => .error e

/-- Word k of a bundle (R2, R29). -/
def bundleWord (b : BundleBits) (k : Nat) : BitVec 64 := b.extractLsb' (64 * k) 64

/-- Checks 1 to 5 of R51 on a bundle's bits. Check 6 depends on the thread's level and stands with the issue. -/
def decodeBundle (b : BundleBits) : Except Reject Bundle :=
  let w0 := bundleWord b 0
  if w0.extractLsb' 60 4 == 0b0110#4 then .error .pool
  else if w0.extractLsb' 60 4 != 0b1010#4 then .error .kind
  else if w0.extractLsb' 0 49 != 0#49 then .error .reserved
  else do
    let x ← decodeSlot 1 (w0.extractLsb' 58 2) (bundleWord b 1)
    let y ← decodeSlot 2 (w0.extractLsb' 56 2) (bundleWord b 2)
    let z ← decodeSlot 3 (w0.extractLsb' 54 2) (bundleWord b 3)
    let ws := x ++ y ++ z
    if composeOk ws then
      .ok { stall := (w0.extractLsb' 50 4).toNat, hint := w0.getLsbD 49, words := ws }
    else .error .composition

/-- A slot's class and word; none where the list is no slot's. -/
def encodeSlot (ws : List Placed) : Option (BitVec 2 × BitVec 64) :=
  match ws with
  | [] => some (0#2, 0#64)
  | [p] => match encodeWord p.i with
    | some x => some (p.i.slotClass, x)
    | none => none
  | [p, q] => match encodePair p.i q.i with
    | some x => some (2#2, x)
    | none => none
  | _ :: _ :: _ :: _ => none

/-- The 32 bytes of a bundle, as one number with W0 lowest (R2, R30). -/
def encodeBundle (b : Bundle) : Option BundleBits :=
  match encodeSlot (b.words.filter (·.pos == 1)), encodeSlot (b.words.filter (·.pos == 2)),
        encodeSlot (b.words.filter (·.pos == 3)) with
  | some (c1, x1), some (c2, x2), some (c3, x3) =>
    some (x3 ++ x2 ++ x1 ++ (0b1010#4 ++ c1 ++ c2 ++ c3 ++ BitVec.ofNat 4 b.stall ++ BitVec.ofBool b.hint ++ 0#49))
  | _, _, _ => none

/-- A bundle of one slot: class cls and word x in W1, no stall. The rest of the bundle is empty. -/
def bundleOf (cls : BitVec 2) (x : BitVec 64) : BundleBits :=
  0#128 ++ x ++ (0b1010#4 ++ cls ++ 0#58)

/-- The slot class that a word's form and operation ask for (R45). -/
def classOf (x : BitVec 64) : BitVec 2 :=
  match (x.extractLsb' 62 2).toNat with
  | 0 => if (x.extractLsb' 54 8).toNat < 0x40 then 1#2 else 2#2
  | 1 => 2#2
  | 2 => if (x.extractLsb' 54 8).toNat < 0x40 then 1#2 else 2#2
  | _ => 3#2

/-- What this decoder reads from one 64-bit instruction word standing alone in a bundle, its class as the form asks;
of a P word, the high half. -/
def decodeTableWord (_nbits w : Nat) : Option Instr :=
  let x := BitVec.ofNat 64 w
  match decodeBundle (bundleOf (classOf x) x) with
  | .ok b => b.words.head?.map (·.i)
  | .error _ => none

end Sys2Proof
end

