-- ==== Sys2Proof/Machine/Mem.lean ====
section
/-! DEFINITION. Sys2Proof/Machine/Mem.lean: the memory system: the truth, the views and the steps of the ordering
machine (R17–R28), provisional versions (R327, R328), translation (R200–R203), and windows. -/

namespace Sys2Proof.Machine

open Sys2Proof

/-! ### The truth as a list of cells -/

/-- What a byte that nothing has written reads as (log 6). -/
def Memory.default : Byte := 0

/-- The byte at an address. -/
def Memory.read (m : List Host.Cell) (a : Nat) : Byte := Tbl.getD m a Memory.default

/-- Memory with a byte written; the canonical form is kept. -/
def Memory.write (m : List Host.Cell) (a : Nat) (v : Byte) : List Host.Cell := Tbl.putD m a Memory.default v

/-- The canonical form: addresses strictly rising, no entry equal to what an unlisted address reads as. -/
def Memory.wf (m : List Host.Cell) : Bool := Tbl.risingFrom none m && m.all fun p => p.2 != Memory.default

/-- Bytes written from an address up. -/
def Memory.writes (m : List Host.Cell) (a : Nat) (bs : List Byte) : List Host.Cell :=
  match bs with
  | [] => m
  | b :: r => Memory.writes (Memory.write m a b) (a + 1) r

/-- n bytes read from an address up. -/
def Memory.reads (m : List Host.Cell) (a n : Nat) : List Byte := (List.range n).map fun i => Memory.read m (a + i)

/-! ### Levels and views (R17, R18) -/

/-- The device that homes an address (R200). -/
def homeOf (pa : Nat) : Nat := pa / 2 ^ 44
/-- The level at which the truth of an address lies on the paths of device `dev` (R17). -/
def truthLevel (dev pa : Nat) : Nat := if homeOf pa = dev then 2 else 3

/-- The view at a level of core c's path. -/
def MemSys.view (m : MemSys) (c lv : Nat) : Tbl VByte :=
  if lv = 0 then Tbl.getD m.v c [] else if lv = 1 then Tbl.getD m.g (clusterOf c) [] else m.d

/-- That view replaced. -/
def MemSys.setView (m : MemSys) (c lv : Nat) (x : Tbl VByte) : MemSys :=
  if lv = 0 then { m with v := Tbl.put m.v c x }
  else if lv = 1 then { m with g := Tbl.put m.g (clusterOf c) x }
  else { m with d := x }

/-- The newest provisional version of a location: its node (R327). -/
def MemSys.nodeOf (m : MemSys) (loc : Loc) : Option Nat :=
  (m.staged.find? fun v => v.loc == loc && v.node.isSome).bind (·.node)

/-- The newest version of a location is written anew, in a sector that is good. -/
def renew (loc : Loc) (l : List Staged) : List Staged :=
  match l with
  | [] => []
  | v :: r => if v.loc = loc then { v with bad := none } :: r else v :: renew loc r

/-- A write to a location lies over what is there, `prior`, but for one of the node whose version is the newest: a provisional one always, a committed one where it comes over a
provisional version, so that a rollback or a host's read still finds what lies below (R327, R328, R331). -/
def MemSys.overlay (m : MemSys) (node : Option Nat) (loc : Loc) (prior : Prior) : MemSys :=
  match m.staged.find? (·.loc == loc) with
  | none => if node.isSome then { m with staged := { node, loc, prior } :: m.staged } else m
  | some v =>
    if v.node = node then { m with staged := renew loc m.staged } else { m with staged := { node, loc, prior } :: m.staged }

/-- The node under prompt commit whose effect a location holds (R332). -/
def MemSys.markOf (m : MemSys) (loc : Loc) : Option Word := (m.marks.find? (·.1 == loc)).map (·.2)

/-- A location holds an effect of a node under prompt commit, or of none. -/
def MemSys.setMark (m : MemSys) (loc : Loc) (e : Option Word) : MemSys :=
  let rest := m.marks.filter fun x => x.1 != loc
  { m with marks := match e with
    | some h => (loc, h) :: rest
    | none => rest }

/-- A write into the truth by a node (`none`: not provisional), which stages a version over the earlier ones (R327). -/
def MemSys.writeTruth (m : MemSys) (pa : Nat) (v : Byte) (node : Option Nat) (effect : Option Word := none) : MemSys :=
  let m := (m.overlay node (.byte pa) (.num (Memory.read m.truth pa).toNat)).setMark (.byte pa) effect
  { m with truth := Memory.write m.truth pa v }

/-- A write of an unpublished byte at a level, or into the truth where that level is the truth (R21). -/
def MemSys.place (m : MemSys) (dev c lv pa : Nat) (b : VByte) : MemSys :=
  if lv ≥ truthLevel dev pa then m.writeTruth pa b.val b.node b.effect
  else m.setView c lv (Tbl.put (m.view c lv) pa { b with unpub := true })

/-- One unpublished byte moves from a level to the next and stays clean where it was. -/
def MemSys.rawMove (m : MemSys) (dev c lv pa : Nat) : MemSys :=
  match Tbl.get? (m.view c lv) pa with
  | none => m
  | some b =>
    if b.unpub then
      (m.setView c lv (Tbl.put (m.view c lv) pa { b with unpub := false })).place dev c (lv + 1) pa b
    else m

/-- The addresses of unpublished bytes in a view that satisfy p. -/
def unpublished (v : Tbl VByte) (p : Nat → Bool) : List Nat := (v.filter fun x => x.2.unpub && p x.1).map (·.1)

/-- The first byte of a 128-byte line. -/
def lineOf (pa : Nat) : Nat := pa / 128 * 128

/-- Has a byte of the truth a staged version? -/
def MemSys.isStaged (m : MemSys) (a : Nat) : Bool := m.staged.any (·.loc == .byte a)

/-- A write of the whole of a sector to the truth replaces its ciphertext and tag; a byte whose version is staged is not written
there (R309, R327, R352). -/
def MemSys.heal (m : MemSys) (pas : List Nat) : MemSys :=
  if m.sectors.isEmpty then m
  else
    let home := pas.filter fun a => !m.isStaged a
    { m with sectors := m.sectors.filter fun x => !(List.range 64).all fun i => home.contains (64 * x.1 + i) }

/-- A sector after an error in it: the worst stands (R352). -/
def Sector.hit (old : Option Sector) (e : SectorErr) : Sector :=
  match e, old with
  | .corrected, some v => v
  | .corrected, none => .corrected
  | .badTag, some .uncorrectable => .uncorrectable
  | .badTag, _ => .poisoned
  | .uncorrectable, _ => .uncorrectable

/-- What an error did to the sector that holds the newest value of a byte: that of its newest version, else its home's (R327, R351,
R352). -/
def MemSys.sectorOf (m : MemSys) (a : Nat) : Option Sector :=
  match m.staged.find? (·.loc == .byte a) with
  | some v => v.bad
  | none => Tbl.get? m.sectors (a / 64)

/-- The same for its newest committed value. -/
def MemSys.committedSector (m : MemSys) (a : Nat) : Option Sector :=
  match m.staged.find? fun v => v.loc == .byte a && v.node.isNone with
  | some v => v.bad
  | none => Tbl.get? m.sectors (a / 64)

/-- Unpublished bytes at addresses of a level go to the truth: the writer of a byte of a poisoned sector that they do not
cover whole has INTEGRITY to take; a sector that they cover whole is replaced (R352). -/
def MemSys.settleSectors (m : MemSys) (v : Tbl VByte) (pas : List Nat) : MemSys :=
  if m.sectors.isEmpty then m
  else
    let part := pas.filter fun a => Tbl.get? m.sectors (a / 64) == some .poisoned &&
      !(List.range 64).all fun i => pas.contains (a / 64 * 64 + i)
    { m with blamed := (m.blamed ++ part.filterMap fun a => (Tbl.get? v a).bind (·.ctx)).dedup }.heal pas

/-- Every unpublished byte of one line moves from a level to the next, where none of another node stands (R20, R21). -/
def MemSys.rawMoveLine (m : MemSys) (dev c lv pa : Nat) : MemSys :=
  let v := m.view c lv
  let as := unpublished v fun a => lineOf a == lineOf pa && decide (lv < truthLevel dev a)
  (as.foldl (fun m a => m.rawMove dev c lv a) m).settleSectors v (as.filter fun a => lv + 1 ≥ truthLevel dev a)

/-- Before a byte of node `n` is placed at a level, an unpublished byte of another node there moves on with its line, and
those above it first, so that every node's own version reaches the home slices (R20, R24, R327; log 144, DEDUCED). -/
def MemSys.makeWay (m : MemSys) (dev c lv pa : Nat) (n : Option Nat) : MemSys :=
  match Tbl.get? (m.view c lv) pa with
  | none => m
  | some b =>
    if b.unpub && b.node != n then
      ([2, 1, 0] : List Nat).foldl (fun m k => if lv ≤ k then m.rawMoveLine dev c k pa else m) m
    else m

/-- Bytes of a node are written at a level, once unpublished bytes of others have made way for all of them, so that no step tears
the access (R20, R21, R23). -/
def MemSys.write (m : MemSys) (dev c lv : Nat) (pas : List Nat) (bs : List Byte) (n : Option Nat) : MemSys :=
  let m := pas.foldl (fun m a => if lv ≥ truthLevel dev a then m else m.makeWay dev c lv a n) m
  (pas.zip bs).foldl (fun m x => m.place dev c lv x.1 { val := x.2, unpub := true, node := n }) m

/-- Every unpublished byte in p moves from a level to the next, where that level lies below the truth, and stays clean where it was;
those of other nodes there make way first (R17, R20–R22). -/
def MemSys.moveAll (m : MemSys) (dev c lv : Nat) (p : Nat → Bool) : MemSys :=
  let v := m.view c lv
  let as := unpublished v fun a => p a && decide (lv < truthLevel dev a)
  let m := as.foldl (fun (m : MemSys) a =>
    if lv + 1 ≥ truthLevel dev a then m else m.makeWay dev c (lv + 1) a ((Tbl.get? v a).bind (·.node))) m
  (as.foldl (fun m a => m.rawMove dev c lv a) m).settleSectors v (as.filter fun a => lv + 1 ≥ truthLevel dev a)

/-- The unpublished bytes among some addresses of a level are a context's (R352). -/
def MemSys.ownedBy (m : MemSys) (c lv x : Nat) (pas : List Nat) : MemSys :=
  m.setView c lv ((m.view c lv).map fun y => if y.2.unpub && pas.contains y.1 then (y.1, { y.2 with ctx := some x }) else y)

/-- Bytes just written on core c's path are effects of a node under prompt commit: at the lowest level that holds them
unpublished, else in the truth (R332). -/
def MemSys.markEffects (m : MemSys) (c : Nat) (pas : List Nat) (e : Option Word) : MemSys :=
  match e with
  | none => m
  | some h => pas.foldl (fun (m : MemSys) a =>
      match ([0, 1, 2] : List Nat).find? fun lv => (Tbl.get? (m.view c lv) a).any (·.unpub) with
      | some lv => m.setView c lv (Tbl.mod (m.view c lv) a fun y => { y with effect := some h })
      | none => m.setMark (.byte a) (some h)) m

/-- Bytes in p move up from level `lo` until they lie at level `hi` or at the truth. -/
def MemSys.moveUp (m : MemSys) (dev c lo hi : Nat) (p : Nat → Bool) : MemSys :=
  (List.range 3).foldl (fun m lv => if lo ≤ lv && lv < hi then m.moveAll dev c lv p else m) m

/-- Clean bytes in p are dropped from a level (R21 Drop). -/
def MemSys.dropAt (m : MemSys) (c lv : Nat) (p : Nat → Bool) : MemSys :=
  m.setView c lv ((m.view c lv).filter fun x => x.2.unpub || !p x.1)

/-- Clean bytes in p are dropped from the levels below `hi`. -/
def MemSys.dropBelow (m : MemSys) (c hi : Nat) (p : Nat → Bool) : MemSys :=
  (List.range 3).foldl (fun m lv => if lv < hi then m.dropAt c lv p else m) m

/-- PHASE's publish action to level s (R22). -/
def MemSys.publish (m : MemSys) (dev c s : Nat) : MemSys := m.moveUp dev c 0 s fun _ => true
/-- PHASE's refresh action to level s (R22). -/
def MemSys.refresh (m : MemSys) (c s : Nat) : MemSys := m.dropBelow c s fun _ => true

/-- The byte a level of the path holds; at the truth's level and above, the truth (R17). -/
def MemSys.at (m : MemSys) (dev c lv pa : Nat) : Option VByte :=
  if lv ≥ truthLevel dev pa then some { val := Memory.read m.truth pa, unpub := false, node := m.nodeOf (.byte pa), effect := m.markOf (.byte pa) }
  else Tbl.get? (m.view c lv) pa

/-- The lowest level from `lo` up that holds a byte (R21). -/
def MemSys.lowest (m : MemSys) (dev c lo pa : Nat) : Nat :=
  ((List.range 4).find? fun lv => decide (lo ≤ lv) && (m.at dev c lv pa).isSome).getD 3

/-- The value a byte has at the lowest level from `lo` up that holds it. -/
def MemSys.peek (m : MemSys) (dev c lo pa : Nat) : VByte :=
  (m.at dev c (m.lowest dev c lo pa) pa).getD { val := 0, unpub := false, node := none }

/-- Can a byte's sector be read from the truth: its home slice is there, and its ciphertext and tag are good (R335, R352)? -/
def MemSys.readable (m : MemSys) (dev pa : Nat) : Bool :=
  (homeOf pa != dev || m.lost.isEmpty || !m.lost.contains (Config.homeDie (pa / 128))) &&
    match m.sectorOf pa with
    | some .uncorrectable => false | some .poisoned => false
    | some .corrected => true
    | none => true

/-- Fill: the line's absent bytes at a level become clean with the values of the next (R20, R21). No byte comes from a sector
that cannot be read (R352). -/
def MemSys.fillLine (m : MemSys) (dev c lv line : Nat) : MemSys :=
  let base := lineOf line
  let v := m.view c lv
  let below := v.filter fun x => x.1 < base
  let above := v.filter fun x => base + 128 ≤ x.1
  let own := v.filter fun x => base ≤ x.1 && x.1 < base + 128
  let mid := (List.range 128).filterMap fun i =>
    match Tbl.get? own (base + i) with
    | some b => some (base + i, b)
    | none =>
      if lv + 1 ≥ truthLevel dev (base + i) && !m.readable dev (base + i) then none
      else (m.at dev c (lv + 1) (base + i)).map fun b => (base + i, { b with unpub := false })
  m.setView c lv (below ++ mid ++ above)

/-- Fill steps that bring a line down to level `lo`, from the level below the one that holds the byte (R21). -/
def MemSys.fillTo (m : MemSys) (dev c lo pa : Nat) : MemSys :=
  let top := m.lowest dev c lo pa
  ([2, 1, 0] : List Nat).foldl (fun m lv => if lo ≤ lv && lv < top then m.fillLine dev c lv pa else m) m

/-- PREF's Fill steps: at each level from the top down to `lo`, where some byte of the line lies only above it (R209).
They are always taken (log 125, DESIGN CHOICE). -/
def MemSys.prefetch (m : MemSys) (dev c lo pa : Nat) : MemSys :=
  let want := fun (lv : Nat) => (List.range 128).any fun i => decide (m.lowest dev c 0 (lineOf pa + i) > lv)
  ([2, 1, 0] : List Nat).foldl (fun k lv => if lo ≤ lv && want lv then k.fillLine dev c lv pa else k) m

/-! ### Sectors (R352) -/

/-- What reading bytes from the truth meets, `at_` being what errors did to their sectors: a lost home slice, an uncorrectable error,
a failed tag, whichever device's sector it is (R335, R352; log 91). -/
def MemSys.faultOf (m : MemSys) (dev : Nat) (at_ : Nat → Option Sector) (pas : List Nat) : Option Code :=
  let here := pas.filter fun a => homeOf a == dev
  if here.any fun a => m.lost.contains (Config.homeDie (a / 128)) then some .memue
  else if pas.any fun a => at_ a == some .uncorrectable then some .memue
  else if pas.any fun a => at_ a == some .poisoned then some .integrity
  else none
/-- A read of the newest values. -/
def MemSys.sectorFault (m : MemSys) (dev : Nat) (pas : List Nat) : Option Code := m.faultOf dev m.sectorOf pas
/-- A read of the newest committed values (R328). -/
def MemSys.committedFault (m : MemSys) (dev : Nat) (pas : List Nat) : Option Code := m.faultOf dev m.committedSector pas

/-- Does some byte of this device have its home on a die that is lost? Every access to it raises MEMUE, whatever a view holds (R335). -/
def MemSys.homeLost (m : MemSys) (dev : Nat) (pas : List Nat) : Bool :=
  !m.lost.isEmpty && pas.any fun a => homeOf a == dev && m.lost.contains (Config.homeDie (a / 128))

/-- The lowest level below a scope where a byte is unpublished: a scoped access is served there (R21, R23). -/
def MemSys.dirtyBelow (m : MemSys) (c sc pa : Nat) : Option Nat :=
  ([0, 1, 2] : List Nat).find? fun lv => decide (lv < sc) && (Tbl.get? (m.view c lv) pa).any (·.unpub)

/-- The level that serves a byte to a load of a scope (R21). -/
def MemSys.servedAt (m : MemSys) (dev c sc pa : Nat) : Nat := (m.dirtyBelow c sc pa).getD (m.lowest dev c sc pa)

/-- The bytes that a load of a scope reads from the truth (R21). -/
def MemSys.fromTruth (m : MemSys) (dev c sc : Nat) (pas : List Nat) : List Nat :=
  pas.filter fun a => m.servedAt dev c sc a ≥ truthLevel dev a

/-! ### Translation (R198, R200–R203) -/

/-- What an access needs of a leaf (R202): r, w, x bits at [2], [3], [4]; an atomic needs both r and w. -/
inductive Need where
  | load | store | atomic | fetch
  /-- CFLSH: no permission bit (R217). -/
  | any
deriving DecidableEq, Repr

/-- The mask of permission bits a need asks for, in the leaf's bits [5:2] shifted down by 2. -/
def Need.mask : Need → Nat
  | .load => 1 | .store => 2 | .atomic => 3 | .fetch => 4 | .any => 0

/-- Do the leaf's permissions admit the access (R202)? -/
def permits (perm : Nat) (lv : Level) (n : Need) : Bool :=
  (perm &&& n.mask) == n.mask && (perm / 8 % 2 == 0 || lv == .supervisor || n == .any)

/-- The offset within its device of a physical address. -/
def devOffset (pa : Nat) : Nat := pa % 2 ^ 44

/-- Is a physical address one that may be accessed (R200, R317)? -/
def State.physOk (s : State) (pa : Nat) : Bool :=
  let cellar := if homeOf pa = s.dev then some s.mp.cellarGiB else Config.otherDevice (homeOf pa)
  match cellar with
  | none => false
  | some g => homeOf pa < Config.devices && devOffset pa < Config.hbmBytes - g * 2 ^ 30

/-- A leaf found by a walk or a TLB. -/
structure Leaf where
  bits : Nat
  pa : Nat
  perm : Nat
deriving DecidableEq, Repr

/-- Index width and lowest index bit of a level (R201). -/
def levelShift (lv : Nat) : Nat := if lv = 4 then 48 else if lv = 3 then 39 else if lv = 2 then 30 else if lv = 1 then 21 else 16
def levelCount (lv : Nat) : Nat := if lv = 4 then 256 else if lv = 0 then 32 else 512
/-- Size of a level's table (R201). -/
def tableBytes (lv : Nat) : Nat := 8 * levelCount lv

/-- The five-level walk, which reads entries from the truth; a table that lies on another device is ACCESS (R201, R202; log 152,
DESIGN CHOICE). -/
def State.walk (s : State) (va : Nat) (lv table : Nat) : Except Code Leaf :=
  let idx := va / 2 ^ levelShift lv % levelCount lv
  let pa := table + 8 * idx
  if homeOf pa ≠ s.dev || !s.physOk pa then .error .access
  else match s.ms.sectorFault s.dev [pa] with
  | some c => .error c
  | none =>
    let e := ofBytes (Memory.reads s.ms.truth pa 8)
    if e % 2 = 0 then .error .page
    else
      let leaf := e / 2 % 2 = 1
      let tgt := e % 2 ^ 52 / 256 * 256
      if e / 2 ^ 52 ≠ 0 || e / 64 % 4 ≠ 0 then .error .access
      else if leaf then
        if lv > 2 || tgt % 2 ^ levelShift lv ≠ 0 then .error .access
        else .ok { bits := levelShift lv, pa := tgt, perm := e / 4 % 16 }
      else match lv with
        | 0 => .error .access
        | k + 1 => if tgt % tableBytes k ≠ 0 then .error .access else s.walk va k tgt

/-- Does a TLB entry cover an address of context x? -/
def TlbEnt.covers (t : TlbEnt) (x va : Nat) : Bool := t.ctx == x && va / 2 ^ t.bits == t.va / 2 ^ t.bits

/-- The TLB entry of core c that holds the leaf of an address of context x (R203). -/
def State.tlbHit (s : State) (c x va : Nat) : Option TlbEnt :=
  (Tbl.getD s.ms.tlb c []).find? fun t => t.level.isNone && t.covers x va

/-- The TLB of core c with an entry added (R203). An entry stays until a TLBI covers it: the device may drop it sooner (log 47,
DESIGN CHOICE). -/
def State.tlbPut (s : State) (c : Nat) (e : TlbEnt) : State :=
  { s with ms := { s.ms with tlb := Tbl.put s.ms.tlb c (e :: Tbl.getD s.ms.tlb c []) } }

/-- The TLB of core c with a leaf added (R203). -/
def State.tlbAdd (s : State) (c x va : Nat) (f : Leaf) : State :=
  if (s.tlbHit c x va).isSome then s
  else s.tlbPut c { ctx := x, va := va / 2 ^ f.bits * 2 ^ f.bits, bits := f.bits, pa := f.pa, perm := f.perm }

/-- Where a walk begins: at the lowest table that an upper-level entry of core c's TLB names for the address, else at the
context's root (R201, R203): level and table. -/
def State.walkStart (s : State) (c x va root : Nat) : Nat × Nat :=
  let l := (Tbl.getD s.ms.tlb c []).filterMap fun t => if t.covers x va then t.level.map fun k => (k, t.pa) else none
  (minBy (fun (y : Nat × Nat) => y.1) l).getD (4, root)

/-- The lower tables that a walk from a table of a level passes: level and table. -/
def State.walkPath (s : State) (va lv table : Nat) : List (Nat × Nat) :=
  let pa := table + 8 * (va / 2 ^ levelShift lv % levelCount lv)
  let e := ofBytes (Memory.reads s.ms.truth pa 8)
  let tgt := e % 2 ^ 52 / 256 * 256
  if homeOf pa ≠ s.dev || !s.physOk pa || (s.ms.sectorFault s.dev [pa]).isSome || e % 2 = 0 || e / 2 % 2 = 1 ||
      e / 2 ^ 52 ≠ 0 || e / 64 % 4 ≠ 0 then []
  else match lv with
    | 0 => []
    | k + 1 => if tgt % tableBytes k ≠ 0 then [] else (k, tgt) :: s.walkPath va k tgt

/-- The upper-level entries on the path of a walk are kept (R203). -/
def State.tlbPath (s : State) (c x va : Nat) : State :=
  match s.tlbHit c x va, Tbl.get? s.ctxs x with
  | none, some k =>
    let st := s.walkStart c x va k.root
    (s.walkPath va st.1 st.2).foldl (fun s y =>
      let n := levelShift (y.1 + 1)
      s.tlbPut c { ctx := x, va := va / 2 ^ n * 2 ^ n, bits := n, pa := y.2, perm := 0, level := some y.1 }) s
  | _, _ => s

/-- The leaf for an address: from the TLB, else by a walk of the context's tables (R201–R203). -/
def State.leaf (s : State) (c x va : Nat) : Except Code Leaf :=
  match s.tlbHit c x va with
  | some t => .ok { bits := t.bits, pa := t.pa, perm := t.perm }
  | none => match Tbl.get? s.ctxs x with
    | none => .error .access
    | some k =>
      let st := s.walkStart c x va k.root
      s.walk va st.1 st.2

/-- Translation of a virtual address for an access (R198, R200, R202). -/
def State.translate (s : State) (c x : Nat) (lv : Level) (n : Need) (va : Nat) : Except Code Nat :=
  if va / 2 ^ 56 ≠ 0 then .error .access
  else match s.leaf c x va with
    | .error e => .error e
    | .ok f =>
      let pa := f.pa + va % 2 ^ f.bits
      if !permits f.perm lv n || !s.physOk pa then .error .access else .ok pa

/-- What the walker met when it read the tables for an address: its fault ends the context (R352). -/
def State.walkBad (s : State) (c x va : Nat) : Option Code :=
  if va / 2 ^ 56 ≠ 0 then none
  else match s.leaf c x va with
    | .ok _ => none
    | .error e => if e = .memue ∨ e = .integrity then some e else none

/-- A byte counter of a context (R220). -/
def State.charge (s : State) (x i n : Nat) : State :=
  s.modCtx x fun k => { k with acct := k.acct.set i (k.acct.getD i 0 + n) }

/-- Does an access that acts on a line at level `lv` reach a home slice that must first read it from HBM (R353; log 21)? -/
def State.missesSlice (s : State) (lv pa : Nat) : Bool :=
  decide (lv ≥ truthLevel s.dev pa) && Config.sliceMiss (lineOf pa) s.seq

/-- A home slice's fill from HBM for an access, and its evictions of dirty lines, are charged to the context, 128 bytes for
each line (R220; log 21). -/
def State.chargeSlice (s : State) (x lv pa : Nat) : State :=
  if s.missesSlice lv pa then (s.charge x 2 128).charge x 3 (128 * Config.evicted (lineOf pa) s.seq) else s

/-- The entries that a walk for an address reads, which the TLB does not hold (R201, R203). -/
def State.walkReads (s : State) (c x va : Nat) : List Nat :=
  match s.tlbHit c x va, Tbl.get? s.ctxs x with
  | none, some k =>
    let st := s.walkStart c x va k.root
    (st :: s.walkPath va st.1 st.2).map fun y => y.2 + 8 * (va / 2 ^ levelShift y.1 % levelCount y.1)
  | _, _ => []

/-- The state after a translation, which caches the valid entries it met; what the walk's reads bring to home slices is charged
(R203, R220). -/
def State.cached (s : State) (c x va : Nat) : State :=
  if va / 2 ^ 56 ≠ 0 then s
  else
    let f := s.leaf c x va
    let s := (s.walkReads c x va).foldl (fun (s : State) pa => s.chargeSlice x (truthLevel s.dev pa) pa) s
    let s := s.tlbPath c x va
    match f with
    | .error _ => s
    | .ok f => s.tlbAdd c x va f

/-- Translation of n bytes. -/
def State.translateN (s : State) (c x : Nat) (lv : Level) (n : Need) (va k : Nat) : Except Code (List Nat) :=
  (List.range k).foldr (fun i acc => match s.translate c x lv n ((va + i) % 2 ^ 64), acc with
    | .ok p, .ok r => .ok (p :: r)
    | .error e, _ => .error e
    | .ok _, .error e => .error e) (.ok [])

/-- What is wrong with a code address for a level: it must be aligned, in range, in an executable page (R52); a fault of the
walker ends the context (R352). -/
def State.codeFault (s : State) (c x : Nat) (lv : Level) (a : DWord) : Option Code :=
  if a.toNat % 32 ≠ 0 ∨ a.toNat / 2 ^ 56 ≠ 0 then some .target
  else match s.translate c x lv .fetch a.toNat with
    | .ok _ => none
    | .error e => some (if e = .memue ∨ e = .integrity then e else .target)

/-- Is a destination a good code address for a level (R52)? -/
def State.codeOk (s : State) (c x : Nat) (lv : Level) (a : DWord) : Bool := (s.codeFault c x lv a).isNone

/-- Does the leaf page that holds the bundle end with it (R52)? -/
def State.lastOfPage (s : State) (c x : Nat) (a : DWord) : Bool :=
  match s.leaf c x a.toNat with
  | .error _ => false
  | .ok f => (a.toNat + 32) % 2 ^ f.bits == 0

/-- A handle from its kind, slot and generation (R269). -/
def mkHandle (kind slot gen : Nat) : Word := BitVec.ofNat 32 (kind * 2 ^ 28 + slot * 2 ^ 12 + gen % 2 ^ 12)

/-! ### Provisional effects (R327, R328) -/

/-- The node whose provisional effects a task's writes are: a graph node under verified commit that has not committed
(R327). -/
def State.nodeTag (s : State) (t : Nat) : Option Nat :=
  match Tbl.get? s.cp.tasks t with
  | none => none
  | some k => if k.node && !k.committed then some t else none

/-- May task t step on a location whose version is of node m (R328)? -/
def State.mayStep (s : State) (t : Nat) (m : Option Nat) : Bool :=
  match m with
  | none => true
  | some n => n == t || (match Tbl.get? s.cp.tasks t, Tbl.get? s.cp.tasks n with
    | some x, some y => x.node && x.ctx == y.ctx
    | _, _ => false)

/-- Task t inherits from node m (R328). -/
def State.inherit (s : State) (t : Nat) (m : Option Nat) : State :=
  match m with
  | none => s
  | some n =>
    if n = t then s
    else s.modTask t fun k => if k.node && !k.inherits.contains n then { k with inherits := n :: k.inherits } else k

/-- A step of task t takes over every version it meets. -/
def State.inheritAll (s : State) (t : Nat) (ms : List (Option Nat)) : State := ms.foldl (fun s m => s.inherit t m) s

/-- The handle of a task. -/
def State.handleOf (s : State) (t : Nat) : Word := mkHandle 3 t (Tbl.getD s.cp.taskGen t 0)

/-- The handle under which a task's writes are effects of a node under prompt commit (R327, R332). -/
def State.effectOf (s : State) (t : Nat) : Option Word :=
  match Tbl.get? s.cp.tasks t with
  | none => none
  | some k => if k.node && k.committed then some (s.handleOf t) else none

/-- Task t read effects of nodes under prompt commit (R332). -/
def State.saw (s : State) (t : Nat) (es : List Word) : State :=
  if es.isEmpty then s
  else
    let own := s.handleOf t
    s.modTask t fun k => if k.node then { k with reads := (k.reads ++ es.filter (· != own)).dedup } else k

/-- The byte that a read of scope `sc` on core c's path finds: an unpublished one below that scope, else the lowest from there
up (R21, R23). -/
def MemSys.seen (m : MemSys) (dev c sc pa : Nat) : VByte :=
  m.peek dev c ((m.dirtyBelow c sc pa).getD sc) pa

/-- The nodes under prompt commit whose effects a read of scope `sc` by core c finds at some addresses (R332). -/
def State.effectsAt (s : State) (c sc : Nat) (pas : List Nat) : List Word :=
  if s.ms.marks.isEmpty && s.cp.tasks.all (fun p => !p.2.node) then []
  else (pas.filterMap fun a => (s.ms.seen s.dev c sc a).effect).dedup

/-! ### Windows (R17, R198, R224) -/

/-- A byte of a block's window. -/
def Block.winByte (bk : Block) (off : Nat) : Byte := Tbl.getD bk.win off 0
/-- n bytes of the window. -/
def Block.winRead (bk : Block) (off n : Nat) : List Byte := (List.range n).map fun i => bk.winByte (off + i)
/-- Bytes written to the window. -/
def Block.winWrite (bk : Block) (off : Nat) (bs : List Byte) : Block :=
  match bs with
  | [] => bk
  | b :: r => Block.winWrite { bk with win := Tbl.putD bk.win off 0 b } (off + 1) r
/-- Is the window line of an offset empty? -/
def Block.lineEmpty (bk : Block) (off : Nat) : Bool := (Tbl.get? bk.lines (off / 128)).isSome
/-- A line is marked empty by a request (0: by LNEMP). -/
def Block.markLine (bk : Block) (line req : Nat) : Block :=
  { bk with lines := Tbl.modD bk.lines line [] fun l => if req = 0 || l.contains req then l else req :: l }
/-- A request's mark on a line is done; the line becomes full when no mark is left (R224). -/
def Block.unmarkLine (bk : Block) (line req : Nat) : Block :=
  match Tbl.get? bk.lines line with
  | none => bk
  | some l =>
    if !l.contains req then bk
    else
      let r := l.filter (· != req)
      { bk with lines := if r.isEmpty then Tbl.erase bk.lines line else Tbl.put bk.lines line r }
/-- The lines of n bytes from an offset. -/
def linesOf (off n : Nat) : List Nat := if n = 0 then [] else (List.range ((off + n - 1) / 128 + 1 - off / 128)).map fun i => off / 128 + i

/-- A signed 64-bit value of a byte barrier's rem, with v subtracted (R235). -/
def Block.countDown (bk : Block) (off n : Nat) : Block :=
  let rem := ofBytes (bk.winRead off 8)
  bk.winWrite off (toBytes 8 ((rem + 2 ^ 64 - n) % 2 ^ 64))

/-- The rem of a byte barrier as a signed value (R235). -/
def Block.remOf (bk : Block) (off : Nat) : Int := (BitVec.ofNat 64 (ofBytes (bk.winRead off 8))).toInt

end Sys2Proof.Machine
end

