-- ==== Sys2Proof/Machine/Number.lean ====
section
/-! DEFINITION. Sys2Proof/Machine/Number.lean: number formats, rounding, conversions, exact arithmetic and the device
mixer (R162–R175, R181–R189). A value is exact until one rounding, which narrows it. -/

namespace Sys2Proof.Machine

open Sys2Proof

/-- An exact value: (−1)^neg · m · 2^e, an infinity, or not a number. -/
inductive Fp where
  | nan
  | inf (neg : Bool)
  | fin (neg : Bool) (m : Nat) (e : Int)
deriving DecidableEq, Repr

/-- A binary format (R162): fraction bits, bias, largest finite code, and its special codes. -/
structure Fmt where
  width : Nat
  frac : Nat
  bias : Nat
  /-- The code of the largest finite magnitude. -/
  top : Nat
  nan : Nat
  /-- The code of infinity, if the format has one. -/
  inf : Option Nat
deriving DecidableEq, Repr

def f32 : Fmt := { width := 32, frac := 23, bias := 127, top := 0x7F7FFFFF, nan := 0x7FC00000, inf := some 0x7F800000 }
def bf16 : Fmt := { width := 16, frac := 7, bias := 127, top := 0x7F7F, nan := 0x7FC0, inf := some 0x7F80 }
def f16 : Fmt := { width := 16, frac := 10, bias := 15, top := 0x7BFF, nan := 0x7E00, inf := some 0x7C00 }
def e4m3 : Fmt := { width := 8, frac := 3, bias := 7, top := 0x7E, nan := 0x7F, inf := none }
def e5m2 : Fmt := { width := 8, frac := 2, bias := 15, top := 0x7B, nan := 0x7E, inf := some 0x7C }
/-- FP64, in which RESAMP computes (R300). -/
def f64 : Fmt :=
  { width := 64, frac := 52, bias := 1023, top := 0x7FEFFFFFFFFFFFFF, nan := 0x7FF8000000000000,
    inf := some 0x7FF0000000000000 }

/-- 2^i as a natural number, 1 for a negative i. -/
def pow2 (i : Int) : Nat := 2 ^ (Int.toNat i)

/-- The exact value of a code of a binary format (R162). -/
def Fmt.widen (f : Fmt) (code : Nat) : Fp :=
  let neg := decide (code / 2 ^ (f.width - 1) % 2 = 1)
  let mag := code % 2 ^ (f.width - 1)
  if f.inf = some mag then .inf neg
  else if mag > f.top then .nan
  else
    let e := mag / 2 ^ f.frac
    let m := mag % 2 ^ f.frac
    if e = 0 then .fin neg m (1 - (f.bias : Int) - (f.frac : Int))
    else .fin neg (m + 2 ^ f.frac) ((e : Int) - (f.bias : Int) - (f.frac : Int))

/-- Leading zeros of MK8's 7-bit field (R164). -/
def mk8Zeros (m : Nat) : Nat :=
  if m ≥ 64 then 0 else if m ≥ 32 then 1 else if m ≥ 16 then 2 else if m ≥ 8 then 3 else if m ≥ 4 then 4
  else if m ≥ 2 then 5 else 6

/-- The magnitude of MK8 field m in units of 2^−10 (R164): (2^w + f) · 2^(E − w + 10). -/
def mk8Mag (m : Nat) : Nat :=
  if m = 0 then 0
  else
    let z := mk8Zeros m
    let w : Nat := if z = 0 then 5 else if z = 1 then 3 else if z = 2 then 2 else if z = 3 then 1 else 0
    let f := m % 2 ^ w
    let c := m / 2 ^ w
    let e : Int :=
      if z = 0 then (if c % 2 = 0 then -1 else 0)
      else if z = 5 then (if c % 2 = 0 then 9 else -10)
      else if z = 6 then 10
      else
        let k : Int := 2 * z
        if c % 4 = 0 then k - 1 else if c % 4 = 1 then k else if c % 4 = 2 then -k - 1 else -k
    (2 ^ w + f) * pow2 (e - (w : Int) + 10)

/-- The exact value of an MK8 code (R164). -/
def mk8Widen (code : Nat) : Fp :=
  if code % 128 = 0 then (if code = 0 then .fin false 0 0 else .nan)
  else .fin (decide (code ≥ 128)) (mk8Mag (code % 128)) (-10)

/-- The exact value of an E8M0 code (R162). -/
def e8m0Widen (code : Nat) : Fp := if code = 255 then .nan else .fin false 1 ((code : Int) - 127)

/-- The binary format of a format code of R163 that names one. -/
def fmtOf (c : Nat) : Fmt :=
  if c = 1 then bf16 else if c = 2 then f16 else if c = 3 then e4m3 else if c = 4 then e5m2 else f32

/-- The exact value of a code in a format of R163: a float format, E8M0 or MK8. -/
def widenCode (c code : Nat) : Fp :=
  if c = 9 then mk8Widen code else if c = 5 then e8m0Widen code else (fmtOf c).widen code

/-- Rounding modes (R166). -/
inductive Mode where
  | rn | rz | rd | ru
  /-- Stochastic, with its 32-bit random value (R170). -/
  | rs (r : Nat)
deriving DecidableEq, Repr

/-- The mode of a rounding field; r is the random value of `.rs` (R166). -/
def modeOf (n r : Nat) : Mode :=
  if n = 1 then .rz else if n = 2 then .rd else if n = 3 then .ru else if n = 4 then .rs r else .rn

/-- Does the magnitude round up from lo, rem/den of the way to hi (R167, R170)? `odd`: lo's code ends in 1;
`both`: hi's code ends in the same bit. Under `.rs` the threshold is at least 1, so that with r = 0 every value that is not
representable takes hi (R170, R184; log 143, DEDUCED). -/
def roundUp (md : Mode) (neg odd both : Bool) (rem den : Nat) : Bool :=
  if rem = 0 then false
  else match md with
    | .rn => if 2 * rem = den then odd && !both else 2 * rem > den
    | .rz => false
    | .rd => neg
    | .ru => !neg
    | .rs r => r % 2 ^ 32 < max 1 (rem * 2 ^ 32 / den)

/-- The integer nearest m · 2^e under the mode, m · 2^e ≥ 0 (R167). -/
def roundInt (md : Mode) (neg : Bool) (m : Nat) (e : Int) : Nat :=
  if e ≥ 0 then m * pow2 e
  else
    let den := pow2 (-e)
    let lo := m / den
    if roundUp md neg (lo % 2 = 1) false (m % den) den then lo + 1 else lo

/-- The code magnitude of a nonzero |v| = m · 2^e rounded as if exponents had no upper limit (R167). -/
def Fmt.roundMag (f : Fmt) (md : Mode) (neg : Bool) (m : Nat) (e : Int) : Nat :=
  let lead : Int := e + Nat.log2 m
  let emin : Int := 1 - (f.bias : Int)
  let q : Int := (if lead < emin then emin else lead) - f.frac
  let n := roundInt md neg m (e - q)
  (q + f.frac + f.bias).toNat * 2 ^ f.frac + n - 2 ^ f.frac

/-- The sign bit of a format. -/
def Fmt.sign (f : Fmt) (neg : Bool) : Nat := if neg then 2 ^ (f.width - 1) else 0

/-- Does the format saturate on overflow by the ov field (R168)? The 8-bit formats do. -/
def Fmt.saturates (f : Fmt) : Bool := f.width == 8

/-- The code of an overflow (R168). `ov`: `.nr`. -/
def Fmt.overflow (f : Fmt) (md : Mode) (ov neg : Bool) : Nat :=
  if f.saturates then
    (if ov then (match f.inf with | some i => i | none => f.nan) else f.top) + f.sign neg
  else
    let big := match md with
      | .rn => true
      | .rz => false
      | .rd => neg
      | .ru => !neg
      | .rs _ => true
    (if big then (match f.inf with | some i => i | none => f.nan) else f.top) + f.sign neg

/-- A conversion to a binary format (R167, R168, R170). -/
def Fmt.convert (f : Fmt) (md : Mode) (ov : Bool) (v : Fp) : Nat :=
  match v with
  | .nan => f.nan
  | .inf neg =>
    if f.saturates then f.overflow md ov neg
    else (match f.inf with | some i => i | none => f.nan) + f.sign neg
  | .fin neg m e =>
    if m = 0 then f.sign neg
    else
      let c := f.roundMag md neg m e
      if c > f.top then f.overflow md ov neg else c + f.sign neg

/-- A conversion to MK8 (R165, R167, R168, R170). -/
def mk8Convert (md : Mode) (ov : Bool) (v : Fp) : Nat :=
  let ovf := fun (neg : Bool) => if ov then 0x80 else if neg then 0x81 else 0x01
  match v with
  | .nan => 0x80
  | .inf neg => ovf neg
  | .fin neg m e =>
    -- |v| = num / den in units of 2^-10
    let num := m * pow2 (e + 10)
    let den := pow2 (-(e + 10))
    if num > 2 ^ 20 * den then ovf neg
    else
      let codes := List.range 128
      let lo := codes.foldl (fun b c => if mk8Mag c * den ≤ num && mk8Mag c > mk8Mag b then c else b) 0
      if mk8Mag lo * den = num then (if lo = 0 then 0 else if neg then lo + 128 else lo)
      else
        let hi := codes.foldl (fun b c => if mk8Mag c * den > num && mk8Mag c < mk8Mag b then c else b) 1
        let c :=
          if roundUp md neg (lo % 2 = 1) (lo % 2 = hi % 2) (num - mk8Mag lo * den) ((mk8Mag hi - mk8Mag lo) * den)
          then hi else lo
        if c = 0 then 0 else if neg then c + 128 else c

/-- A conversion to the float format of code c (R163, R167, R168). -/
def convertCode (c : Nat) (md : Mode) (ov : Bool) (v : Fp) : Nat :=
  if c = 9 then mk8Convert md ov v else (fmtOf c).convert md ov v

/-- The width in bits of a format code (R162, R229). -/
def fmtBits (c : Nat) : Nat := if c = 0 ∨ c = 7 ∨ c = 8 then 32 else if c = 1 ∨ c = 2 then 16 else 8

/-! ### Exact arithmetic -/

/-- The signed integer of a finite value at exponent b ≤ its own. -/
def Fp.at (neg : Bool) (m : Nat) (e b : Int) : Int :=
  if neg then -((m * pow2 (e - b) : Nat) : Int) else ((m * pow2 (e - b) : Nat) : Int)

/-- A signed integer times 2^e. -/
def Fp.ofInt (i e : Int) : Fp := .fin (decide (i < 0)) i.natAbs e

/-- The negation of a value. -/
def Fp.neg : Fp → Fp
  | .nan => .nan
  | .inf n => .inf (!n)
  | .fin n m e => .fin (!n) m e

/-- The exact sum; `rd`: the rounding is `.rd`, which gives an exact zero of opposite signs the sign − (R181). -/
def Fp.add (rd : Bool) (x y : Fp) : Fp :=
  match x, y with
  | .nan, _ => .nan
  | .inf _, .nan => .nan
  | .fin _ _ _, .nan => .nan
  | .inf a, .inf b => if a = b then .inf a else .nan
  | .inf a, .fin _ _ _ => .inf a
  | .fin _ _ _, .inf b => .inf b
  | .fin a m e, .fin b n f =>
    let t := if e < f then e else f
    let s := Fp.at a m e t + Fp.at b n f t
    if s = 0 then .fin (if a = b then a else rd) 0 0 else Fp.ofInt s t

/-- The exact product (R181). -/
def Fp.mul (x y : Fp) : Fp :=
  match x, y with
  | .nan, _ => .nan
  | .inf _, .nan => .nan
  | .fin _ _ _, .nan => .nan
  | .inf a, .inf b => .inf (a != b)
  | .inf a, .fin b n _ => if n = 0 then .nan else .inf (a != b)
  | .fin a m _, .inf b => if m = 0 then .nan else .inf (a != b)
  | .fin a m e, .fin b n f => .fin (a != b) (m * n) (e + f)

/-- Multiplication by a power of two. -/
def Fp.scale (x : Fp) (k : Int) : Fp :=
  match x with
  | .nan => .nan
  | .inf n => .inf n
  | .fin n m e => .fin n m (e + k)

/-- The quotient of two finite values as a value that every rounding to at most 64 fraction bits rounds as the exact
quotient: 2^k times it, cut, with a sticky lowest bit. -/
def Fp.quot (neg : Bool) (m : Nat) (e : Int) (n : Nat) (f : Int) : Fp :=
  let k := 160 + Nat.log2 n
  let q := m * 2 ^ k / n
  .fin neg (2 * q + (if q * n = m * 2 ^ k then 0 else 1)) (e - f - k - 1)

/-- The integer square root of x, bit by bit from bit k. -/
def isqrtFrom (x k r : Nat) : Nat :=
  match k with
  | 0 => r
  | j + 1 => let t := r + 2 ^ j; isqrtFrom x j (if t * t ≤ x then t else r)

/-- The integer square root. -/
def isqrt (x : Nat) : Nat := isqrtFrom x (Nat.log2 x / 2 + 2) 0

/-- Comparison of finite or infinite values: −1, 0, 1; −0 and +0 are equal (R182). -/
def Fp.cmp (x y : Fp) : Int :=
  match x, y with
  | .nan, _ => 0
  | .inf _, .nan => 0
  | .fin _ _ _, .nan => 0
  | .inf a, .inf b => if a = b then 0 else if a then -1 else 1
  | .inf a, .fin _ _ _ => if a then -1 else 1
  | .fin _ _ _, .inf b => if b then 1 else -1
  | .fin a m e, .fin b n f =>
    let t := if e < f then e else f
    let d := Fp.at a m e t - Fp.at b n f t
    if d < 0 then -1 else if d > 0 then 1 else 0

/-- Is it not a number? -/
def Fp.isNan : Fp → Bool
  | .nan => true
  | .inf _ => false
  | .fin _ _ _ => false

/-! ### FP32, and the packed formats, as register patterns -/

/-- The exact value of an element. -/
def Fmt.val (f : Fmt) (x : Nat) : Fp := f.widen (x % 2 ^ f.width)

/-- FADD in a format (R171, R181). -/
def Fmt.addE (f : Fmt) (md : Mode) (x y : Nat) : Nat := f.convert md false (Fp.add (md == .rd) (f.val x) (f.val y))
/-- FSUB in a format (R181). -/
def Fmt.subE (f : Fmt) (md : Mode) (x y : Nat) : Nat := f.convert md false (Fp.add (md == .rd) (f.val x) (f.val y).neg)
/-- FMUL in a format (R181). -/
def Fmt.mulE (f : Fmt) (md : Mode) (x y : Nat) : Nat := f.convert md false (Fp.mul (f.val x) (f.val y))
/-- FFMA in a format (R181). -/
def Fmt.fmaE (f : Fmt) (md : Mode) (x y z : Nat) : Nat :=
  f.convert md false (Fp.add (md == .rd) (Fp.mul (f.val x) (f.val y)) (f.val z))

/-- Two 16-bit elements, each computed on its own (R187). -/
def packed (op : Nat → Nat → Nat → Nat) (x y z : Word) : Word :=
  let lo := op (x.toNat % 65536) (y.toNat % 65536) (z.toNat % 65536)
  let hi := op (x.toNat / 65536) (y.toNat / 65536) (z.toNat / 65536)
  BitVec.ofNat 32 (lo + 65536 * hi)

/-- FMIN (`gt` false) and FMAX (`gt` true) (R181). -/
def fminmax (gt nanBit : Bool) (x y : Word) : Word :=
  let a := f32.val x.toNat
  let b := f32.val y.toNat
  if a.isNan && b.isNan then 0x7FC00000#32
  else if a.isNan then (if nanBit then 0x7FC00000#32 else y)
  else if b.isNan then (if nanBit then 0x7FC00000#32 else x)
  else
    -- −0 below +0
    let c := Fp.cmp a b
    let zz := c == 0 && x.toNat % 2 ^ 31 == 0
    let le := if zz then x.getLsbD 31 || !y.getLsbD 31 else c ≤ 0
    let ge := if zz then !x.getLsbD 31 || y.getLsbD 31 else c ≥ 0
    if gt then (if ge then x else y) else (if le then x else y)

/-- The relation of FSET (R182). -/
def fsetRel (cond : Nat) (x y : Word) : Bool :=
  let a := f32.val x.toNat
  let b := f32.val y.toNat
  let un := a.isNan || b.isNan
  let c := Fp.cmp a b
  if cond = 0 then !un && c == 0 else if cond = 1 then un || c != 0 else if cond = 2 then !un && c < 0
  else if cond = 3 then !un && c ≤ 0 else if cond = 4 then !un && c > 0 else if cond = 5 then !un && c ≥ 0
  else if cond = 6 then !un else un

/-- FRND (R181). -/
def frndE (md : Mode) (x : Word) : Word :=
  match f32.val x.toNat with
  | .nan => 0x7FC00000#32
  | .inf _ => x
  | .fin neg m e => BitVec.ofNat 32 (f32.convert .rz false (.fin neg (roundInt md neg m e) 0))

/-- The ends of an integer format's range: 6 INT8, 7 `.i32`, 8 `.n32` (R162). -/
def intRange (fmt : Nat) : Int × Int :=
  if fmt = 6 then (-128, 127) else if fmt = 8 then (0, 2 ^ 32 - 1) else (-(2 ^ 31), 2 ^ 31 - 1)

/-- e limited to [lo, hi]. -/
def clampInt (lo hi e : Int) : Int := if e < lo then lo else if e > hi then hi else e

/-- F2I (R169, R186). -/
def f2iE (fmt : Nat) (md : Mode) (x : Word) : Word :=
  let (lo, hi) := intRange fmt
  match f32.val x.toNat with
  | .nan => 0
  | .inf neg => BitVec.ofInt 32 (if neg then lo else hi)
  | .fin neg m e =>
    let n : Int := roundInt md neg m e
    BitVec.ofInt 32 (clampInt lo hi (if neg then -n else n))

/-- I2F (R169, R186). -/
def i2fE (fmt : Nat) (md : Mode) (x : Word) : Word :=
  let v : Int := if fmt = 6 then (x.setWidth 8).toInt else if fmt = 8 then (x.toNat : Int) else x.toInt
  BitVec.ofNat 32 (f32.convert md false (Fp.ofInt v 0))

/-- The element el of width w of a pattern. -/
def element (x : Word) (w el : Nat) : Nat := x.toNat / 2 ^ (w * el) % 2 ^ w

/-- z with its element el of width w replaced by q (R184). -/
def withElement (z : Word) (w el q : Nat) : Word :=
  let m := BitVec.ofNat 32 ((2 ^ w - 1) * 2 ^ (w * el))
  (z &&& ~~~m) ||| BitVec.ofNat 32 (q * 2 ^ (w * el))

/-- FDOT8 (R188). The sign of a sum of exactly zero is that of adding the terms to z in turn (log 149, DESIGN CHOICE). -/
def fdot8E (fa fb : Nat) (md : Mode) (x y z : Word) : Word :=
  let term := fun i => Fp.mul (widenCode fa (element x 8 i)) (widenCode fb (element y 8 i))
  let s := [term 0, term 1, term 2, term 3].foldl (Fp.add (md == .rd)) (f32.val z.toNat)
  BitVec.ofNat 32 (f32.convert md false s)

/-- Is key x better than key y under TOPKI's order (R189)? `mn`: `.min`. -/
def topkBetter (mn : Bool) (x y : Word) : Bool :=
  let a := bf16.val (x.toNat / 65536)
  let b := bf16.val (y.toNat / 65536)
  let ix := x.toNat % 65536
  let iy := y.toNat % 65536
  let c := if mn then -(Fp.cmp a b) else Fp.cmp a b
  if a.isNan && b.isNan then ix ≤ iy
  else if a.isNan then false
  else if b.isNan then true
  else if c = 0 then ix ≤ iy else c > 0

/-! ### Special functions (R183) -/

/-- Is m a power of two? -/
def isPow2 (m : Nat) : Bool := m == 2 ^ Nat.log2 m

/-- The absolute value. -/
def Fp.abs (x : Fp) : Fp :=
  match x with
  | .nan => .nan
  | .inf _ => .inf false
  | .fin _ m e => .fin false m e

/-- Does a pattern lie within a distance of v? -/
def near (d : Word) (v bound : Fp) : Bool :=
  match f32.val d.toNat with
  | .fin n m e => decide (Fp.cmp (Fp.add false (.fin n m e) v.neg).abs bound ≤ 0)
  | .nan => false | .inf _ => false

/-- n ulps of a value whose leading bit is worth 2^k (R183). -/
def ulps (n : Nat) (k : Int) : Fp := .fin false n (max (k - 23) (-149))
/-- 2^-22 (R183). -/
def absBound : Fp := .fin false 1 (-22)
/-- The exponent of a value's leading bit. -/
def Fp.lead (v : Fp) : Int :=
  match v with
  | .fin _ m e => (Nat.log2 m : Int) + e
  | .nan => 0 | .inf _ => 0

/-- The free bits of a special function, if they lie within the bound of the value v; else the nearest pattern to v. -/
def within (op : Nat) (x : Word) (v bound : Fp) : Word :=
  if near (Config.special op x) v bound then Config.special op x else BitVec.ofNat 32 (f32.convert .rn false v)

/-- A result within 1 ulp of v: v itself when it is representable, else the free bits if they lie there, else one of the two FP32
values that enclose v, chosen by a free bit. A value of 2^128 or more overflows. -/
def encloses (op : Nat) (x : Word) (v : Fp) : Word :=
  let big := match v with
    | .fin _ m e => decide (Fp.cmp (.fin false m e) (.fin false 1 128) ≥ 0)
    | .nan => false | .inf _ => false
  let at_ := fun (md : Mode) => BitVec.ofNat 32 (f32.convert md false v)
  if big then at_ .rn
  else if at_ .rd = at_ .ru then at_ .rd
  else if near (Config.special op x) v (ulps 1 v.lead) then Config.special op x
  else if (Config.special op x).getLsbD 0 then at_ .ru else at_ .rd

/-! Fixed-point values with 128 fraction bits, cut. -/

/-- m · 2^e with p fraction bits. -/
def fixOf (m : Nat) (e : Int) (p : Nat) : Nat := if 0 ≤ e + p then m * 2 ^ (e + p).toNat else m / 2 ^ (-(e + p)).toNat
/-- ln 2, and its reciprocal, with 128 fraction bits; 2π with 256. -/
def ln2Fix : Nat := 0xb17217f7d1cf79abc9e3b39803f2f6af
def log2eFix : Nat := 0x171547652b82fe1777d0ffda0d23a7d11
def twoPiFix : Nat := 0x6487ed5110b4611a62633145c06e0e68948127044533e63a0105df531d89cd912

/-- 2^f of a fraction f, by its series. -/
def exp2Fix (f : Nat) : Nat :=
  let t := f * ln2Fix / 2 ^ 128
  ((List.range 40).foldl (fun (a : Nat × Nat) k =>
    let y := a.1 * t / 2 ^ 128 / (k + 1)
    (y, a.2 + y)) (2 ^ 128, 2 ^ 128)).2

/-- The first 64 bits after the point of log2 of a mantissa in [1, 2) with 160 fraction bits, by repeated squaring. -/
def log2Bits (mant : Nat) : Nat :=
  ((List.range 64).foldl (fun (a : Nat × Nat) _ =>
    let q := a.1 * a.1 / 2 ^ 160
    if q ≥ 2 ^ 161 then (q / 2, 2 * a.2 + 1) else (q, 2 * a.2)) (mant, 0)).2

/-- The sine or cosine of an angle in [0, 2π), by its series: each term is the one before, times -t², over its next two
factors. -/
def sinSeries (cos : Bool) (t : Nat) : Int :=
  let sq : Int := t * t / 2 ^ 128
  let first : Int := if cos then 2 ^ 128 else t
  let d := if cos then 1 else 2
  ((List.range 40).foldl (fun (a : Int × Int) k =>
    let y := -(a.1 * sq / 2 ^ 128) / (((2 * k + d) * (2 * k + d + 1) : Nat) : Int)
    (y, a.2 + y)) (first, first)).2

/-! Each value below is cut, and ends in a bit that stands for what is cut off: no FP32 value lies between it and the exact one, and
none stands at the bound of either (R183). -/

/-- A fixed-point value with p fraction bits is cut to n of them, with a last bit for the rest. -/
def cutTo (v : Int) (p n : Nat) : Fp := Fp.ofInt (2 * (v / 2 ^ (p - n)) + 1) (-(n : Int) - 1)

/-- 2^x, x not integral (R183). -/
def exp2Fp (neg : Bool) (m : Nat) (e : Int) : Fp :=
  let y : Int := fixOf m e 128
  let y := if neg then -y - 1 else y
  (cutTo (exp2Fix (y % 2 ^ 128).toNat) 128 100).scale (y / 2 ^ 128)

/-- log2 of m · 2^e (R183). -/
def log2Fp (m : Nat) (e : Int) : Fp :=
  let l := Nat.log2 m
  cutTo ((e + l) * 2 ^ 64 + (log2Bits (m * 2 ^ (160 - l)) : Nat)) 64 64

/-- sin and cos, the argument reduced by 2π; a cosine that is not 1 is below it (R183). -/
def sinFp (cos neg : Bool) (m : Nat) (e : Int) : Fp :=
  let v := cutTo (min (sinSeries cos (fixOf m e 256 % twoPiFix / 2 ^ 128)) (2 ^ 128 - 1)) 128 110
  if neg && !cos then v.neg else v

/-- tanh: (1 - E) / (1 + E) with E the power of 1/e to twice the absolute value, rounded up (R183). -/
def tanhFp (neg : Bool) (m : Nat) (e : Int) : Fp :=
  let y := fixOf m (e + 1) 128 * log2eFix / 2 ^ 128
  let p := if 128 ≤ y / 2 ^ 128 then 0 else 2 ^ 256 / exp2Fix (y % 2 ^ 128) / 2 ^ (y / 2 ^ 128)
  let v := cutTo ((2 ^ 128 - (p + 64)) * 2 ^ 128 / (2 ^ 128 + (p + 64)) : Nat) 128 100
  if neg then v.neg else v

/-- The square root of m · 2^e, with a sticky lowest bit. -/
def sqrtFp (m : Nat) (e : Int) : Fp :=
  let e2 : Int := if e % 2 = 0 then e - 120 else e - 121
  let mm := m * pow2 (e - e2)
  let s := isqrt mm
  .fin false (2 * s + (if s * s = mm then 0 else 1)) (e2 / 2 - 1)

/-- The reciprocal square root of m · 2^e, m > 0, with a sticky lowest bit. -/
def rsqrtFp (m : Nat) (e : Int) : Fp :=
  let k : Int := if e % 2 = 0 then 240 else 241
  let q := pow2 k / m
  let s := isqrt q
  .fin false (2 * s + (if s * s * m = pow2 k then 0 else 1)) ((-e - k) / 2 - 1)

/-- A special function of an FP32 value by op8 (R183): its exact and special cases, and a free value within its bound
elsewhere (log 13). -/
def specialE (op : Nat) (x : Word) : Word :=
  match f32.val x.toNat with
  | .nan => 0x7FC00000#32
  | .inf neg =>
    if op = 0x67 then (if neg then 0x80000000#32 else 0)
    else if op = 0x68 then (if neg then 0x7FC00000#32 else 0)
    else if op = 0x69 then (if neg then 0x7FC00000#32 else x)
    else if op = 0x6A then (if neg then 0 else x)
    else if op = 0x6B then (if neg then 0x7FC00000#32 else x)
    else if op = 0x6E then (if neg then 0xBF800000#32 else 0x3F800000#32)
    else 0x7FC00000#32
  | .fin neg m e =>
    let small := decide (x.toNat % 2 ^ 31 < 0x39800000)
    if op = 0x67 then
      if m = 0 then (if neg then 0xFF800000#32 else 0x7F800000#32) else encloses op x (Fp.quot neg 1 0 m e)
    else if op = 0x68 then
      if m = 0 then (if neg then 0xFF800000#32 else 0x7F800000#32)
      else if neg then 0x7FC00000#32 else encloses op x (rsqrtFp m e)
    else if op = 0x69 then
      if m = 0 then x else if neg then 0x7FC00000#32 else BitVec.ofNat 32 (f32.convert .rn false (sqrtFp m e))
    else if op = 0x6A then
      if Fp.cmp (.fin neg m e) (.fin false 128 0) ≥ 0 then 0x7F800000#32
      else if Fp.cmp (.fin neg m e) (.fin true 150 0) < 0 then 0
      else
        let n := roundInt .rz neg m e
        let i : Int := if neg then -n else n
        if Fp.cmp (Fp.ofInt i 0) (.fin neg m e) = 0 && i ≥ -149 then BitVec.ofNat 32 (f32.convert .rn false (.fin false 1 i))
        else within op x (exp2Fp neg m e) (ulps 2 (if neg then i - 1 else i))
    else if op = 0x6B then
      if m = 0 then 0xFF800000#32 else if neg then 0x7FC00000#32
      else if isPow2 m then BitVec.ofNat 32 (f32.convert .rn false (Fp.ofInt (e + Nat.log2 m) 0))
      else within op x (log2Fp m e) (if 0x3F000000 ≤ x.toNat ∧ x.toNat ≤ 0x40000000 then absBound else ulps 2 (log2Fp m e).lead)
    else if op = 0x6C then (if small then x else within op x (sinFp false neg m e) absBound)
    else if op = 0x6D then (if m = 0 then 0x3F800000#32 else within op x (sinFp true neg m e) absBound)
    else if small then x
    else
      -- |d| ≤ 1 always
      let d := within op x (tanhFp neg m e) (ulps 2 (tanhFp neg m e).lead)
      if d.toNat % 2 ^ 31 > 0x3F800000 then (if neg then 0xBF800000#32 else 0x3F800000#32) else d

/-! ### The device mixer (R173) -/

/-- One xor-shift step. -/
def xorShift (z : DWord) (k : Nat) : DWord := z ^^^ (z >>> k)

/-- mix64 (R173). -/
def mix64 (x : DWord) : DWord :=
  let z := x + 0x9E3779B97F4A7C15#64
  let z := xorShift z 30 * 0xBF58476D1CE4E5B9#64
  let z := xorShift z 27 * 0x94D049BB133111EB#64
  xorShift z 31

/-- rand(seed, ctr) (R173). -/
def rand (seed ctr : DWord) : DWord := mix64 (seed + ctr)

/-! ### Matrix sums (R174, R175) -/

/-- The format code of R163 of a matrix fmt field (R251): mk8, e4m3, e5m2, i8, bf16, f16. -/
def matFmt (f : Nat) : Nat :=
  if f = 0 then 9 else if f = 1 then 3 else if f = 2 then 4 else if f = 3 then 6 else if f = 4 then 1 else 2

/-- The exact value of a matrix element. -/
def matVal (fmt code : Nat) : Fp :=
  if fmt = 6 then Fp.ofInt (BitVec.ofNat 8 code).toInt 0 else widenCode fmt code

/-- One group: the accumulator plus the exact, scaled sum of products, rounded once; a scale is an E8M0 code, none for a
format without scales (R174, R175). The sum starts from +0 (log 123, DEDUCED). -/
def matGroup (acc : Word) (prods : List (Fp × Fp)) (scales : Option (Nat × Nat)) : Word :=
  let s := prods.foldl (fun t p => Fp.add false t (Fp.mul p.1 p.2)) (.fin false 0 0)
  let s := match scales with
    | none => s
    | some (a, b) => if a = 255 || b = 255 then .nan else Fp.scale s ((a : Int) + b - 254)
  BitVec.ofNat 32 (f32.convert .rn false (Fp.add false (f32.val acc.toNat) s))

end Sys2Proof.Machine
end

