-- ==== Sys2Proof/Machine/Checks.lean ====
section
/-! DEFINITION. Sys2Proof/Machine/Checks.lean: handles, the descriptors of the copy and matrix engines, and the checks
a word makes at issue beyond those of every word: row 7 of R104. -/

namespace Sys2Proof.Machine

open Sys2Proof

/-- A check that fails: its fault and `%faddr`. -/
structure Bad where
  code : Code
  faddr : Nat
  /-- A fault of the walker: it ends the context (R352). -/
  ends : Bool := false
deriving DecidableEq, Repr

/-- The first of two checks that fails. -/
def orElseBad (x y : Option Bad) : Option Bad :=
  match x with
  | some b => some b
  | none => y

/-- The first failing check of a list. -/
def firstBad (l : List (Option Bad)) : Option Bad := l.foldl orElseBad none

/-- A condition that must hold. -/
def need (c : Bool) (code : Code) (faddr : Nat) : Option Bad := if c then none else some { code, faddr }

/-! ### Handles (R269) -/

/-- Kind, slot and generation of a handle. -/
def handleKind (h : Word) : Nat := h.toNat / 2 ^ 28
def handleSlot (h : Word) : Nat := h.toNat / 2 ^ 12 % 2 ^ 16
def handleGen (h : Word) : Nat := h.toNat % 2 ^ 12

/-- The shape record a handle names for context x; none if the handle is stale (R269, R270). -/
def Control.shape? (c : Control) (x : Nat) (h : Word) : Option Shape :=
  if handleKind h = 2 ∧ Tbl.getD c.shapeGen (handleSlot h) 0 = handleGen h then
    match Tbl.get? c.shapes (handleSlot h) with
    | some r => if r.ctx = x then some r else none
    | none => none
  else none

/-- A thread leaves every waiter list (R141). -/
def Control.forget (c : Control) (b w l : Nat) : Control :=
  { c with futures := Tbl.mapVal c.futures fun f => { f with waiters := f.waiters.filter (· != (b, w, l)) },
           tasks := Tbl.mapVal c.tasks fun t => { t with waiters := t.waiters.filter (· != (b, w, l)) } }

/-- The future a handle names for context x (R269, R285). -/
def Control.future? (c : Control) (x : Nat) (h : Word) : Option Future :=
  if handleKind h = 1 ∧ Tbl.getD c.futGen (handleSlot h) 0 = handleGen h then
    match Tbl.get? c.futures (handleSlot h) with
    | some r => if r.ctx = x ∧ r.freedBy.isNone then some r else none
    | none => none
  else none

/-- The task a handle names for context x (R269, R271). -/
def Control.task? (c : Control) (x : Nat) (h : Word) : Option Task :=
  if handleKind h = 3 ∧ Tbl.getD c.taskGen (handleSlot h) 0 = handleGen h then
    match Tbl.get? c.tasks (handleSlot h) with
    | some r => if r.ctx = x ∧ !r.dropped then some r else none
    | none => none
  else none

/-- Does a record grant a right: 0 r, 1 w, 2 m, 3 g (R83, R270)? -/
def Shape.grants (sh : Shape) (bit : Nat) : Bool := sh.rights / 2 ^ bit % 2 == 1

/-! ### Addresses (R208) -/

/-- A local or parameter offset (R208). -/
def localAddr (a b : Word) (imm : BitVec 20) : Nat := (a + b + imm.signExtend 32).toNat
/-- A global address (R208). -/
def globalAddr (a : DWord) (b : Word) (imm : BitVec 20) : Nat := (a + b.setWidth 64 + imm.signExtend 64).toNat
/-- An atomic's address: its 16-bit offset (R212). -/
def atomicAddr (a : DWord) (imm : BitVec 20) : Nat := (a + (imm.setWidth 16).signExtend 64).toNat

/-- A local access of n bytes at an offset (R198, R208). -/
def winOk (win off n : Nat) : Bool := off % n == 0 && off + n ≤ win

/-! ### Box descriptors (R228–R230) -/

/-- A box descriptor (R228). -/
structure Box where
  o : List Int
  e : List Nat
  loff : Nat
  p1 : Nat
  p2 : Nat
  p3 : Nat
  bar : Nat
  aux0 : Nat
  aux1 : Nat
  aux2 : Nat
deriving DecidableEq, Repr

/-- An unsigned field of n bytes at an offset of a byte list. -/
def field (bs : List Byte) (off n : Nat) : Nat := ofBytes ((bs.drop off).take n)
/-- A signed 32-bit field. -/
def fieldI (bs : List Byte) (off : Nat) : Int := (BitVec.ofNat 32 (field bs off 4)).toInt

/-- The descriptor's fields (R228). -/
def Box.ofBytes (bs : List Byte) : Box :=
  { o := [fieldI bs 0, fieldI bs 4, fieldI bs 8, fieldI bs 12],
    e := [field bs 0x10 2, field bs 0x12 2, field bs 0x14 2, field bs 0x16 2],
    loff := field bs 0x18 4, p1 := field bs 0x1C 4, p2 := field bs 0x20 4, p3 := field bs 0x24 4,
    bar := field bs 0x28 4, aux0 := field bs 0x2C 4, aux1 := field bs 0x30 8, aux2 := field bs 0x38 8 }

/-- Origin and extent of dimension k. -/
def Box.ok (x : Box) (k : Nat) : Int := x.o.getD k 0
def Box.ek (x : Box) (k : Nat) : Nat := x.e.getD k 0
/-- Number of elements; a box with some extent 0 is empty (R229). -/
def Box.count (x : Box) : Nat := x.ek 0 * x.ek 1 * x.ek 2 * x.ek 3
/-- The element indexes of linear index j (R229). -/
def Box.idx (x : Box) (j k : Nat) : Nat :=
  if k = 0 then j % x.ek 0
  else if k = 1 then j / x.ek 0 % x.ek 1
  else if k = 2 then j / (x.ek 0 * x.ek 1) % x.ek 2
  else j / (x.ek 0 * x.ek 1 * x.ek 2)
/-- The window offset of element j, z bytes wide (R229). -/
def Box.win (x : Box) (z j : Nat) : Nat :=
  x.loff + z * x.idx j 0 + x.p1 * x.idx j 1 + x.p2 * x.idx j 2 + x.p3 * x.idx j 3
/-- The indexes of dimension k that a request uses: all below e_k, or those In the shape where the others are skipped
(R229, R239, R242). -/
def Box.span (x : Box) (inside : Option Shape) (k : Nat) : Nat × Nat :=
  match inside with
  | none => (0, x.ek k)
  | some r =>
    if r.dims ≤ k then (0, x.ek k)
    else ((- x.ok k).toNat, min (x.ek k) ((r.extents.getD k 0 : Nat) - x.ok k).toNat)
/-- Window bytes between steps of dimension k (R228, R229). -/
def Box.step (x : Box) (z k : Nat) : Nat := if k = 0 then z else if k = 1 then x.p1 else if k = 2 then x.p2 else x.p3
/-- The window bytes from an element to the last one in the dimensions below k. -/
def Box.reach (x : Box) (z : Nat) (inside : Option Shape) (k : Nat) : Nat :=
  sumBy (fun m => x.step z m * ((x.span inside m).2 - 1)) (List.range k)
/-- One past the last window byte that a request uses, with elements of n bytes. -/
def Box.winEnd (x : Box) (z n : Nat) (inside : Option Shape) : Nat :=
  if (List.range 4).any fun k => decide ((x.span inside k).2 ≤ (x.span inside k).1) then 0
  else x.loff + x.reach z inside 4 + n
/-- The lowest element whose window bytes reach past the window: dimension by dimension from the third, the least index
from which some element does. -/
def Box.firstPast (x : Box) (z n : Nat) (inside : Option Shape) (win : Nat) : Nat :=
  [3, 2, 1, 0].foldl (fun base k =>
    let lo := (x.span inside k).1
    let rest := base + x.reach z inside k + n
    let i := if rest + x.step z k * lo > win then lo else (win - rest) / x.step z k + 1
    base + x.step z k * i) x.loff

/-- The kinds of box request (R239–R243). -/
inductive BoxOp where
  | ld | st | bb | mcast | gather | accum | quant
deriving DecidableEq, Repr

/-- The rights a box request needs (R239–R243). -/
def BoxOp.rights : BoxOp → List Nat
  | .ld => [0] | .st => [1] | .bb => [] | .mcast => [2] | .gather => [3] | .accum => [0, 1] | .quant => [0]

/-- The formats a box request admits (R229, R242, R243). -/
def BoxOp.admits (op : BoxOp) (fmt : Nat) : Bool :=
  match op with
  | .accum => fmt == 1 || fmt == 3
  | .quant => fmt ≤ 2
  | .ld => fmt ≤ 9 | .st => fmt ≤ 9 | .bb => true | .mcast => fmt ≤ 9 | .gather => fmt ≤ 9

/-- Bytes of an element in the shape (R229). -/
def fmtBytes (c : Nat) : Nat := if c = 0 ∨ c = 7 ∨ c = 8 then 4 else if c = 1 ∨ c = 2 then 2 else 1

/-- The element size z of the window's layout: 1 for BCPYQ, 4 for `.bb`, else the format's width, for BCPYA too (R229, R243;
log 110, DEDUCED). -/
def BoxOp.winSize (op : BoxOp) (fmt : Nat) : Nat :=
  match op with
  | .quant => 1 | .bb => 4
  | .ld => fmtBytes fmt | .st => fmtBytes fmt | .mcast => fmtBytes fmt | .gather => fmtBytes fmt | .accum => fmtBytes fmt

/-- The window bytes of one element: BCPYA's sources are FP32 values (R242). -/
def BoxOp.winBytes (op : BoxOp) (fmt : Nat) : Nat :=
  match op with
  | .accum => 4
  | .quant => op.winSize fmt | .bb => op.winSize fmt | .ld => op.winSize fmt | .st => op.winSize fmt
  | .mcast => op.winSize fmt | .gather => op.winSize fmt

/-- Is dimension k of the box inside the shape for every element (R229)? -/
def Box.inDim (x : Box) (sh : Shape) (k : Nat) : Bool :=
  x.count == 0 || (decide (0 ≤ x.ok k) && decide (x.ok k + x.ek k ≤ (sh.extents.getD k 0 : Nat)))

/-- The blocks a box request names (R239, R240). -/
def Box.targets (x : Box) (op : BoxOp) (blk : Nat) : List Nat :=
  match op with
  | .bb => [x.aux1 % 2 ^ 32]
  | .mcast => ((List.range 8).filter fun i => x.aux0 / 2 ^ i % 2 == 1).map fun i => blk / 8 * 8 + i
  | .ld => [] | .st => [] | .gather => [] | .accum => [] | .quant => []

/-- Is a block of the same task resident? -/
def State.residentBlk (s : State) (task blk : Nat) : Bool :=
  decide (blk < 65536) && (match s.block? (bkey task blk) with
  | some b => b.core?.isSome
  | none => false)

/-- Bytes of scale bytes of BCPYQ (R243). -/
def Box.scaleCount (x : Box) : Nat := x.ek 0 / 32 * x.ek 1 * x.ek 2 * x.ek 3

/-- The checks of R230 for a box request of block bk with its descriptor at `off` and shape handle h. A gather's o1 that is not 0
fails check 6 (R241; log 154, DESIGN CHOICE). Mask 0 is checked after check 6 (log 163, DESIGN CHOICE). `%faddr` of check 7 is the lowest
element's offset past the window, or the offset of the `.bb` source, the index list or the scales (log 162, DESIGN CHOICE). -/
def State.boxBad (s : State) (bk : Block) (op : BoxOp) (off : Nat) (h : Word) (zf : Bool) : Option Bad :=
  let win := bk.lpb.window
  let x := Box.ofBytes (bk.winRead off 64)
  let sh := s.cp.shape? bk.ctx h
  let fmt := match sh with | some r => r.fmt | none => 0
  let z := op.winSize fmt
  let n := op.winBytes fmt
  let used := match op with
    | .st => sh
    | .accum => sh
    | .ld => none | .bb => none | .mcast => none | .gather => none | .quant => none
  firstBad [
    (if op = .bb then none else need sh.isSome .stale h.toNat),
    (match sh with
     | none => none
     | some r => if op = .bb then none else need (op.rights.all r.grants) .rights h.toNat),
    need (off % 64 == 0 && off + 64 ≤ win) .bounds off,
    (match sh with
     | none => none
     | some r => if op = .bb then none else need (op.admits r.fmt) .bounds r.fmt),
    (match sh, op with
     | _, .bb => (leastBelow 4 fun k => x.ok k != 0).map fun k => { code := .bounds, faddr := 0x100 + k }
     | some r, _ =>
       (leastBelow 4 fun k => r.dims ≤ k && !(x.ok k == 0 && x.ek k == 1)).map fun k => { code := .bounds, faddr := 0x100 + k }
     | none, _ => none),
    (if op = .quant then need (x.ek 0 % 32 == 0) .bounds 0x200 else none),
    (match sh, op with
     | _, .bb => none
     | some r, _ =>
       (leastBelow r.dims fun k =>
          if op = .gather && k = 1 then x.ok 1 != 0 else !zf && !x.inDim r k).map fun k => { code := .bounds, faddr := k }
     | none, _ => none),
    (if op = .mcast then need (x.aux0 % 256 != 0) .bounds 0 else none),
    need (x.loff % z == 0) .bounds x.loff,
    need (x.p1 % z == 0) .bounds x.p1,
    need (x.p2 % z == 0) .bounds x.p2,
    need (x.p3 % z == 0) .bounds x.p3,
    need (x.winEnd z n used ≤ win) .bounds (x.firstPast z n used win),
    (match op with
     | .bb => firstBad [need (x.aux0 % 4 == 0) .bounds x.aux0,
         need (x.count == 0 || x.aux0 + (x.winEnd z n none - x.loff) ≤ win) .bounds x.aux0]
     | .gather => if x.ek 1 = 0 then none
       else firstBad [need (x.aux0 % 4 == 0) .bounds x.aux0, need (x.aux0 + 4 * x.ek 1 ≤ win) .bounds x.aux0]
     | .quant => if x.scaleCount = 0 then none else need (x.aux0 + x.scaleCount ≤ win) .bounds x.aux0
     | .ld => none | .st => none | .mcast => none | .accum => none),
    need (x.bar == 0xFFFFFFFF || (x.bar % 16 == 0 && x.bar + 16 ≤ win)) .bounds x.bar,
    ((x.targets op bk.blk).find? fun t => !s.residentBlk bk.task t).map fun t => { code := .bounds, faddr := t }]

/-! ### CPYL's lanes (R238) -/

/-- The length a lane word asks for. -/
def cpylLen (b : Word) : Nat :=
  let k := b.toNat / 2 ^ 21 % 4
  if k = 0 then 0 else if k = 1 then 4 else if k = 2 then 8 else 16
/-- The window offset of a lane word. -/
def cpylOff (b : Word) : Nat := b.toNat % 2 ^ 21

/-- The check of one live lane (R238): dir 2 is `.l2l`, whose source offset is src. -/
def cpylBad (win : Nat) (dir : Nat) (b : Word) (src : Nat) : Option Bad :=
  let n := cpylLen b
  need (b.toNat / 2 ^ 23 == 0 && (n == 0 || (winOk win (cpylOff b) n && (dir != 2 || winOk win src n)))) .bounds b.toNat

/-! ### Matrix words (R248–R263) -/

/-- Tile number of a matrix word's immediate. -/
def tileNum (w : MWord) : Nat := (w.imm &&& 0xF#20).toNat

/-- The live quarters of a warp: all eight lanes live (R252, R253). -/
def quarterLive (live : Nat → Bool) (q : Nat) : Bool := (List.range 8).all fun i => live (8 * q + i)
/-- A quarter with both live and vacant lanes (R92). A lane in which no thread was created counts as vacant (log 43, DEDUCED). -/
def quarterMixed (live : Nat → Bool) (q : Nat) : Bool :=
  ((List.range 8).any fun i => live (8 * q + i)) && !quarterLive live q

/-- Is lane l of warp w live? -/
def Block.isLive (bk : Block) (w l : Nat) : Bool := (bk.thread w l).live

/-- Bytes of a row at a depth (R252). -/
def rowBytes (full : Bool) : Nat := if full then 64 else 32

/-- The A and B windows of MMA (R252). -/
def mmaBad (bk : Block) (w : Nat) (full : Bool) (ao bo : Nat) (checkA : Bool) : Option Bad :=
  let rb := rowBytes full
  let qs := (List.range 4).filter fun q => quarterLive (bk.isLive w) q
  let endA := maxBy (fun q => ao + rb * (16 * (q / 2) + 16)) qs
  let endB := maxBy (fun q => bo + rb * (16 * (q % 2) + 16)) qs
  firstBad [(if checkA then need (ao % 64 == 0 && endA ≤ bk.lpb.window) .bounds ao else none),
    need (bo % 64 == 0 && endB ≤ bk.lpb.window) .bounds bo]

/-- Integer quotient rounded down, of an exact integer. -/
def outSize (ext pad dil ker str : Nat) : Int := ((ext : Int) + 2 * pad - dil * (ker - 1) - 1) / str + 1

/-- Every element of a shape of three dimensions, z bytes wide with element (0, 0, 0) at a window offset, lies in the window;
a shape with an extent 0 has no element (R261). -/
def Shape.inWindow (sh : Shape) (base z win : Nat) : Bool :=
  let far := fun (k : Nat) => ((sh.extents.getD k 0 : Int) - 1) * sh.strides.getD k 0
  let lo : Int := [0, 1, 2].foldl (fun (n : Int) k => n + min 0 (far k)) 0
  let hi : Int := [0, 1, 2].foldl (fun (n : Int) k => n + max 0 (far k)) 0
  [0, 1, 2].any (fun k => sh.extents.getD k 0 == 0) ||
    (decide (0 ≤ (base : Int) + z * lo) && decide ((base : Int) + z * hi + z ≤ win))

/-- The unfolding descriptor read at an offset, checked (R261): the configuration, or the failing check. That the descriptor lies in the
window is checked after check 1 (log 167, DESIGN CHOICE). -/
def State.unfoldOf (s : State) (bk : Block) (off : Nat) (h : Word) : Except Bad Unfold :=
  let win := bk.lpb.window
  let bs := bk.winRead off 64
  let scaleH : Word := BitVec.ofNat 32 (field bs 0x10 4)
  match s.cp.shape? bk.ctx h with
  | none => .error { code := .stale, faddr := h.toNat }
  | some sh =>
    if !sh.grants 0 then .error { code := .rights, faddr := h.toNat }
    else
      let bad : Bad := { code := .bounds, faddr := off }
      let f := sh.fmt
      let b := fun k => field bs k 1
      let ext := fun k => sh.extents.getD k 0
      let str := fun k => sh.strides.getD k 0
      let ow := outSize (ext 1) (b 0xA) (b 8) (b 4) (b 6)
      let oh := outSize (ext 2) (b 0xB) (b 9) (b 5) (b 7)
      if off % 64 ≠ 0 ∨ off + 64 > win then .error bad
      else if sh.dims ≠ 3 ∨ ¬ ((1 ≤ f ∧ f ≤ 4) ∨ f = 6 ∨ f = 9) then .error bad
      else if [4, 5, 6, 7, 8, 9].any (fun k => b k == 0) || decide (ow < 1) || decide (oh < 1) then .error bad
      else
        if [0, 1, 2].any (fun k => decide (str k < 0)) || !sh.inWindow (field bs 0 4) (fmtBytes f) win then .error bad
        else
          let cfg : Unfold :=
            { handle := h, shape := sh, aoff := field bs 0 4, kw := b 4, kh := b 5, sw := b 6, sh := b 7, dw := b 8,
              dh := b 9, pw := b 0xA, ph := b 0xB, pad := field bs 0xC 2, scale := scaleH, scaleShape := none,
              soff := field bs 0x14 4, ow := ow.toNat, oh := oh.toNat }
          if scaleH = 0 then .ok cfg
          else match s.cp.shape? bk.ctx scaleH with
            | none => .error { code := .stale, faddr := scaleH.toNat }
            | some sc =>
              if !sc.grants 0 then .error { code := .rights, faddr := scaleH.toNat }
              else if sc.fmt ≠ 5 ∨ sc.dims ≠ 3 ∨ ext 0 % 32 ≠ 0 ∨ sc.extents.getD 0 0 < ext 0 / 32 then .error bad
              else if !sc.inWindow cfg.soff 1 win then .error bad
              else .ok { cfg with scaleShape := some sc }

/-- MMAU's checks (R262). -/
def State.mmauBad (s : State) (bk : Block) (w : Nat) (fmt : Nat) (full : Bool) (a : DWord) : Option Bad :=
  let kd := if fmt < 4 then (if full then 64 else 32) else (if full then 32 else 16)
  match bk.unfold with
  | none => some { code := .bounds, faddr := 0x300 }
  | some u => firstBad [
      need (s.cp.shape? bk.ctx u.handle).isSome .stale u.handle.toNat,
      (match s.cp.shape? bk.ctx u.handle with
       | some sh => need (sh.grants 0) .rights u.handle.toNat
       | none => none),
      (if u.scale = 0 then none else need (s.cp.shape? bk.ctx u.scale).isSome .stale u.scale.toNat),
      (match s.cp.shape? bk.ctx u.scale with
       | some sh => if u.scale = 0 then none else need (sh.grants 0) .rights u.scale.toNat
       | none => none),
      need (16 * (a.toNat / 2 ^ 24 % 2 ^ 16) % kd == 0) .bounds 0x301,
      need (u.shape.fmt == matFmt fmt) .bounds 0x302,
      need (a.toNat / 2 ^ 21 % 8 == 0) .bounds 0x303,
      mmaBad bk w full 0 (a.toNat % 2 ^ 21) false]

/-- The instruction names a tile (R263), and which. -/
def tileOf : Instr → Option Nat
  | .mma w => some (tileNum w) | .mmau w => some (tileNum w) | .accz w => some (tileNum w)
  | .accld w => some (tileNum w) | .accst w => some (tileNum w) | .accvq w => some (tileNum w)
  | _ => none

/-- Does it make a matrix request (R249)? -/
def isMatReq : Instr → Bool
  | .mma _ => true | .mmau _ => true | .accz _ => true | .accld _ => true | .accst _ => true
  | _ => false

/-- Does it make a copy request (R222)? -/
def isCopyReq : Instr → Bool
  | .cpyl _ => true | .bcpy _ => true | .bcpym _ => true | .bcpyg _ => true | .bcpya _ => true | .bcpyq _ => true
  | _ => false

/-! ### Row 7 of R104 -/

/-- The box request an instruction makes: its operation, descriptor operand, handle operand and zero fill (R226). -/
def boxReqOf : Instr → Option (BoxOp × MWord × Bool)
  | .bcpy w => some (if (w.kind &&& 3#4) = 0 then .ld else if (w.kind &&& 3#4) = 1 then .st else .bb, w, w.kind.getLsbD 2)
  | .bcpym w => some (.mcast, w, w.kind.getLsbD 2)
  | .bcpyg w => some (.gather, w, w.kind.getLsbD 2)
  | .bcpya w => some (.accum, w, w.kind.getLsbD 2)
  | .bcpyq w => some (.quant, w, w.kind.getLsbD 2)
  | _ => none

/-- 32 bits of a source. -/
def Block.read32 (bk : Block) (w l : Nat) (r : Reg) : Word := (bk.read w l r).setWidth 32

/-- The mailbox of GIVE and TAKE (R128). -/
def mailboxOf (bk : Block) (w l : Nat) (x : FWord) : Nat := (bk.read32 w l x.b).toNat + (x.mod &&& 0x3F#11).toNat

/-- References to the row a name maps to. -/
def Block.refOf (bk : Block) (w : Nat) (r : Reg) : Nat :=
  match r with
  | .v n => match bk.mapOf w n with
    | some (.row k) => (bk.row k).ref
    | some .pending => 0
    | none => 0
  | .o _ => 0 | .last _ => 0 | .z => 0 | .s _ => 0

/-- The row a name maps to. -/
def Block.rowOf (bk : Block) (w : Nat) (r : Reg) : Option Nat :=
  match r with
  | .v n => match bk.mapOf w n with
    | some (.row k) => some k
    | some .pending => none
    | none => none
  | .o _ => none | .last _ => none | .z => none | .s _ => none

/-- A count limit of 15 (R120). -/
def Block.countBad (bk : Block) (w : Nat) (r : Reg) : Option Bad :=
  need (bk.refOf w r < 15) .rowquota (2 ^ 32 + (bk.rowOf w r).getD 0)

/-- BANK of a map edit (R104 row 4, R127, R128). -/
def bankBad (i : Instr) (bk : Block) (w l : Nat) : Bool :=
  match i with
  | .rmov x => x.d.bank? != x.a.bank?
  | .rswap x => x.d.bank? != x.a.bank?
  | .ralias x => x.d.bank? != x.a.bank?
  | .give x => x.a.bank? != some (mailboxOf bk w l x % 4)
  | .take x => x.d.bank? != some (mailboxOf bk w l x % 4)
  | _ => false

/-- The population shape of a warp: every shape name maps to a row of its own that no other warp maps (R303). -/
def Block.shapeOk (bk : Block) (w k : Nat) : Bool :=
  let rs := (List.range k).map fun n => bk.rowOf w (.v (BitVec.ofNat 8 n))
  rs.all (fun r => match r with
    | some x => bk.mappers x == [w] && (rs.filter (· == some x)).length == 1
    | none => false)

/-- The checks of the word's own chapter for one thread (R104 row 7). Thread l's warp is w; bk is the block before the
bundle. -/
def State.ownBad (s : State) (c : Nat) (bk : Block) (i : Instr) (w l : Nat) : Option Bad :=
  let accuse := match tileOf i with
    | some _ => need ((s.core c).accown == BitVec.ofNat 32 bk.ctx) .accuse (s.core c).accown.toNat
    | none => none
  let win := bk.lpb.window
  orElseBad accuse (match i with
  | .ralias x =>
    if x.d == x.a then none else if bk.rowOf w x.d == bk.rowOf w x.a then none else bk.countBad w x.a
  | .give x => firstBad [need (mailboxOf bk w l x ≤ 63) .mailbox (mailboxOf bk w l x),
      if x.mod.getLsbD 6 then bk.countBad w x.a else none]
  | .take x => need (mailboxOf bk w l x ≤ 63) .mailbox (mailboxOf bk w l x)
  | .ldl x =>
    let a := localAddr (bk.read32 w l x.a) (bk.read32 w l x.b) x.imm
    need (winOk win a x.bytes) .bounds a
  | .stl x =>
    let a := localAddr (bk.read32 w l x.a) 0 x.imm
    need (winOk win a x.bytes) .bounds a
  | .amol x =>
    let a := localAddr (bk.read32 w l x.a) 0 x.imm
    need (winOk win a 4) .bounds a
  | .ldk x =>
    let a := localAddr (bk.read32 w l x.a) 0 x.imm
    need (winOk 256 a x.bytes) .bounds a
  | .cpyl x =>
    cpylBad win (x.kind >>> 2).toNat (bk.read32 w l x.b) (localAddr (bk.read32 w l x.a) 0 x.imm)
  | .bbini x =>
    let a := localAddr (bk.read32 w l x.a) 0 x.imm
    need (winOk win a 16) .bounds a
  | .bbwt x =>
    let a := localAddr (bk.read32 w l x.a) 0 x.imm
    need (winOk win a 16) .bounds a
  | .lnemp x =>
    let a := localAddr (bk.read32 w l x.a) 0 x.imm
    let n := if x.b == .z then 1 else (bk.read32 w l x.b).toNat
    need (a % 128 == 0 && (n == 0 || a + 128 * n ≤ win)) .bounds a
  | .mma x =>
    let a := bk.read w l x.a
    mmaBad bk w (!x.kind.getLsbD 0) (a.toNat % 2 ^ 32) (a.toNat / 2 ^ 32) true
  | .mmau x => s.mmauBad bk w (x.kind >>> 1).toNat (!x.kind.getLsbD 0) (bk.read w l x.a)
  | .accld x =>
    let a := (bk.read32 w l x.a).toNat
    need (a % 128 == 0 && a + 4096 ≤ win) .bounds a
  | .accst x =>
    let a := (bk.read32 w l x.a).toNat
    if x.kind = 2 then none
    else need (a % 128 == 0 && a + (if x.kind = 0 then 4096 else 2048) ≤ win) .bounds a
  | .unfcf x =>
    match s.unfoldOf bk (localAddr (bk.read32 w l x.a) 0 x.imm) (bk.read32 w l x.b) with
    | .error b => some b
    | .ok _ => none
  | .bar x =>
    let n := (bk.read32 w l x.b).toNat
    if x.b == .z then none else need (1 ≤ n && n ≤ 1024) .bounds n
  | .bara x =>
    let n := (bk.read32 w l x.b).toNat
    if x.b == .z then none else need (1 ≤ n && n ≤ 1024) .bounds n
  | .resamp x =>
    let n := x.imm.toNat
    firstBad [need (bk.lpb.flags % 2 == 1 && bk.shapeOk w bk.lpb.k) .popshape 0, need (n ≤ bk.lpb.capacity) .bounds n]
  | _ =>
    match boxReqOf i with
    | some (op, x, zf) =>
      s.boxBad bk op (localAddr (bk.read32 w l x.a) 0 x.imm) (bk.read32 w l x.b) zf
    | none => none)

end Sys2Proof.Machine
end

