-- ==== Sys2Proof/Machine/Issue.lean ====
section
/-! DEFINITION. Sys2Proof/Machine/Issue.lean: fragments and groups, when a fragment is ready, the checks at issue, and
the beginning and end of a bundle (R30, R31, R51, R52, R89, R90, R92, R104, R105, R195, R196). -/

namespace Sys2Proof.Machine

open Sys2Proof

/-! ### Classes of word that readiness looks at -/

/-- Words that access global memory, or carry a global footprint (R90 condition 6, R106, R223). -/
def isGlobal (i : Instr) : Bool :=
  match i with
  | .ldg _ => true | .stg _ => true | .pref _ => true | .amo _ => true | .amos _ => true | .acas _ => true
  | .rctr _ => true | .rsnap _ => true | .cflsh _ => true | .spawn _ => true
  | .cpyl w => (w.kind >>> 2) != 2#4
  | .bcpy w => (w.kind &&& 3#4) != 2#4
  | .bcpym _ => true | .bcpyg _ => true | .bcpya _ => true | .bcpyq _ => true
  | _ => false

/-- Words that act on all earlier memory words of the thread: publications and barrier arrivals (R19, R22, R287, R292;
log 22). -/
def isOrdering (i : Instr) : Bool :=
  match i with
  | .phase _ => true | .tlbi _ => true | .bar _ => true | .bara _ => true | .ftful _ => true | .ftget _ => true
  | .ftwait _ => true | .exit _ => true
  | _ => false

/-- A guarded word whose guard is false takes no part and raises nothing; SEL always acts (R43, R209). -/
def takesPart (bk : Block) (i : Instr) (w l : Nat) : Bool :=
  match i.view with
  | none => true
  | some v => i.family == .integer || bk.guard w l v.g v.gn

/-- The window line an instruction must find full, for one thread that takes part: LDL, AMOL, the box and unfolding descriptors
(R90 condition 4, R209, R214, R228, R261). -/
def lineRead (bk : Block) (i : Instr) (w l : Nat) : Option Nat :=
  if !takesPart bk i w l then none else
  match i with
  | .ldl x => some (localAddr (bk.read32 w l x.a) (bk.read32 w l x.b) x.imm)
  | .amol x => some (localAddr (bk.read32 w l x.a) 0 x.imm)
  | .unfcf x => some (localAddr (bk.read32 w l x.a) 0 x.imm)
  | _ => match boxReqOf i with
    | some (_, x, _) => some (localAddr (bk.read32 w l x.a) 0 x.imm)
    | none => none

/-- The names a map edit or query, other than MAPQ, treats as blocking while pending (R126). -/
def blocksPending (i : Instr) : List Reg :=
  match i with
  | .rnew w => [w.d] | .rfree w => [w.a] | .rmov w => [w.d, w.a] | .rswap w => [w.d, w.a] | .ralias w => [w.d, w.a]
  | .give w => [w.a] | .take w => [w.d] | .sete w => [w.a] | .empq w => [w.a]
  | _ => []

/-- Is a name pending in warp w? -/
def Block.isPending (bk : Block) (w : Nat) (r : Reg) : Bool :=
  match r with
  | .v n => bk.mapOf w n == some .pending
  | .o _ => false | .last _ => false | .z => false | .s _ => false

/-- The shape names of a population (R298). -/
def shapeNames (k : Nat) : List Reg := (List.range k).map fun n => .v (BitVec.ofNat 8 n)

/-- Is the block's task a population (R82)? -/
def Block.isPop (bk : Block) : Bool := bk.lpb.flags % 2 == 1

/-- The register of MMAU's pair that holds A's scales; with a scale shape it is not read (R253, R262). -/
def Block.unreadScale (bk : Block) (i : Instr) : Option Reg :=
  match i, bk.unfold with
  | .mmau x, some u => if u.scale = 0 then none else (x.b.group 2).head?
  | _, _ => none

/-- The sources of a word: RESAMP's shape names among them in a population, MMAU's A scale register only where it is read
(R262, R302, R303), after its other sources (log 150, DESIGN CHOICE). -/
def usesOf (bk : Block) (p : Placed) : List Use :=
  ((p.i.uses p.half).filter fun u => bk.unreadScale p.i != some u.r) ++ (match p.i with
    | .resamp _ => if bk.isPop then (shapeNames bk.lpb.k).map fun r => ⟨r, false⟩ else []
    | _ => [])

/-- The segment width of SHFL and SHFLX (R191). -/
def segWidth (m : BitVec 11) : Nat := 2 ^ (5 - (m &&& 7#11).toNat)

/-- The source lane of SHFLX, or the lane itself outside its segment (R192). -/
def shflxLane (m : BitVec 11) (l : Nat) (y : Word) : Nat :=
  let wd := segWidth m
  let base := l - l % wd
  let mode := ((m >>> 3) &&& 3#11).toNat
  let j : Int := if mode = 0 then ((l ^^^ (y.toNat % 32) : Nat) : Int)
    else if mode = 1 then (l : Int) - y.toNat else (l : Int) + y.toNat
  if (base : Int) ≤ j ∧ j < base + wd then j.toNat else l

/-- The source lane of SHFL (R192). -/
def shflLane (m : BitVec 11) (l : Nat) (y : Word) : Nat := l - l % segWidth m + y.toNat % segWidth m

/-- The lane whose word a cross-lane word takes for lane l, and the register (R192). -/
def laneTaken (bk : Block) (i : Instr) (w l : Nat) : Option (Nat × Reg) :=
  match i with
  | .qswp x => some (l ^^^ ((x.mod &&& 3#11).toNat + 1), x.a)
  | .qbrd x => some (4 * (l / 4) + (x.mod &&& 3#11).toNat, x.a)
  | .shfl x => some (shflLane x.mod l (bk.read32 w l x.b), x.a)
  | .shflI x => some (shflLane 0 l x.imm, x.a)
  | .shflx x => some (shflxLane x.mod l (bk.read32 w l x.b), x.a)
  | .shflxI x => some (shflxLane 0 l x.imm, x.a)
  | _ => none

/-- The register words that a word reads for one thread: its sources in the thread's lane, and that of a lane without a thread which
it names. A lane with a thread reads its own (R192, R323). -/
def wordsRead (bk : Block) (p : Placed) (w l : Nat) : List (Nat × Reg) :=
  ((usesOf bk p).map fun u => (l, u.r)) ++ ((laneTaken bk p.i w l).filter fun x => !(bk.thread w x.1).live).toList

/-- The blocking sources of a word in one thread: sources whose trap bit is 0, pending destinations and pending names of
map edits, and RESAMP's shape names (R90 condition 3, R121, R126, R302). -/
def blockedBy (bk : Block) (p : Placed) (w l : Nat) : Bool :=
  ((usesOf bk p).any fun u => !(u.trap && u.r.canEmpty) && bk.emptyAt w l u.r) ||
  (p.i.dests.any fun r => bk.isPending w r) || ((blocksPending p.i).any fun r => bk.isPending w r)

/-- The lane in which a write to a register would land, before the bundle (R95): none for a name that maps to no row. -/
def Block.laneOf (bk : Block) (w l : Nat) (r : Reg) : Option Tgt :=
  match r with
  | .v n => match bk.mapOf w n with
    | some (.row k) => some (.row k l)
    | some .pending => none
    | none => none
  | .o n => some (.oreg w n.toNat l)
  | .s _ => none | .last _ => none | .z => none

/-- Would the writes of the words to a thread's lanes, names of one row counted together, make more than seven pending on
one of them (R32, R90 condition 5)? A word whose guard is false for the thread writes none (R43, R209). -/
def Block.pendingFull (bk : Block) (ws : List Placed) (w l : Nat) : Bool :=
  let ts := ((ws.filter fun p => takesPart bk p.i w l).flatMap fun p => p.i.dests).filterMap (bk.laneOf w l)
  ts.any fun t => decide ((bk.pend.filter (·.tgt == t)).length + (ts.filter (· == t)).length > 7)

/-! ### Readiness (R90, R101) -/

/-- Why a fragment is not ready. -/
inductive Wait where
  /-- Stall field, R98 hold, handler entry; a sleep or a hold; a fault to be taken first. -/
  | other
  /-- Condition 3: an empty blocking source. Condition 4: an empty window line. -/
  | source | line
  /-- Condition 7: no power token. -/
  | token
  /-- A damaged source that the replay queue can rebuild (R324). -/
  | repair
deriving DecidableEq, Repr

/-- The version a matrix request waits for in version mode (R250, R257). -/
def versionOf (i : Instr) : Option Nat :=
  match i with
  | .mma w => some ((w.imm >>> 4) &&& 0xFF#20).toNat
  | .mmau w => some ((w.imm >>> 4) &&& 0xFF#20).toNat
  | .accst w => some ((w.imm >>> 4) &&& 0xFF#20).toNat
  | _ => none

/-- Is the context in version mode (R257)? -/
def State.versionMode (s : State) (x : Nat) : Bool :=
  match Tbl.get? s.ctxs x with
  | some k => k.mmode == 0
  | none => true

/-- Is a block that is to move to core c still draining, with a claim on tile t (R267)? -/
def State.claimComing (s : State) (c t key : Nat) : Bool :=
  s.blocks.any fun p => p.1 != key &&
    (match p.2.core?, p.2.drain with
     | some o, some (.toCore _ k) => k == c && (Tbl.getD (s.core o).tiles t .zero).claim == some p.1
     | some _, some (.toTrunk _ _) => false | some _, some (.ending _) => false | some _, none => false | none, _ => false)

/-- A tile request of block `key` waits: another block claims the tile, here or on its way here (log 112, DESIGN CHOICE), the
engine is to load it, or its version does not match (R248, R257, R267, R356). -/
def State.tileWaits (s : State) (c key : Nat) (bk : Block) (i : Instr) : Bool :=
  match tileOf i with
  | none => false
  | some t =>
    let tile := Tbl.getD (s.core c).tiles t .zero
    let claimed := match tile.claim with
      | none => false
      | some b => b != key
    let load := (Tbl.get? bk.saved t).isSome && tile.claim.isNone
    (s.core c).accown == BitVec.ofNat 32 bk.ctx && isMatReq i &&
      (claimed || load || s.claimComing c t key || (match versionOf i with
        | none => false
        | some v => s.versionMode bk.ctx && (tile.ver.toNat % 256 != v || decide (s.coreNow c < tile.stamp + 1))))

/-- Does the task of a block draw tokens (R82, R265)? -/
def Block.tokenMode (bk : Block) : Bool := bk.lpb.flags / 16 % 2 == 1
/-- Words that take a token (R265). -/
def takesToken (i : Instr) : Bool :=
  match i with
  | .mma _ => true | .mmau _ => true
  | _ => false

/-- Has a hold ended (R90 condition 2, R195)? Holds end by their own events, but for R195's, which ends when each lane it
still waits for has exited or stands at the bundle again; ERET takes its lane out (`Block.backAt`). -/
def Block.holdOver (bk : Block) (w : Nat) (h : Hold) : Bool :=
  match h with
  | .cross m a => (List.range 32).all fun l =>
      !m.getLsbD l || !(bk.thread w l).live || (bk.thread w l).pc == a
  | .jwait _ => false | .pantry _ => false | .ftwait _ => false | .bar _ _ => false | .resamp _ => false
  | .fencel _ _ => false | .bbwt _ _ _ => false | .until _ => false | .untilCore _ => false | .accsv _ => false
  | .scalar _ => false

/-- Are all holds of a thread over? -/
def Block.free (bk : Block) (w l : Nat) : Bool := (bk.thread w l).holds.all (bk.holdOver w)

/-- Does a replayed operation of the thread await translation, in the memory engine or the copy engine (R106, R231)? -/
def State.replayWaits (s : State) (c key : Nat) (bk : Block) (w l : Nat) : Bool :=
  (bk.ops.any fun o => o.todo.any fun a => a.again && a.w == w && a.lane == l) ||
  (s.reqsOf c key).any fun r => r.w == w && r.lanes.getLsbD l && r.again && r.state == .untranslated

/-- Does a step of the thread wait for a node to commit or roll back, or for room (R328, R331)? The thread then waits. -/
def Block.opWaits (bk : Block) (w l : Nat) : Bool :=
  bk.ops.any fun o => o.waits && o.todo.any fun a => a.w == w && a.lane == l

/-- Words that access the window at issue (R19, R214, R222). -/
def isLocal (i : Instr) : Bool :=
  match i with
  | .ldl _ => true | .stl _ => true | .amol _ => true | .bbini _ => true | .bbwt _ => true | .lnemp _ => true
  | _ => false

/-- The latest value for lane l among the entries of a warp's replay queue that p picks (R324). -/
def Warp.replayed (wp : Warp) (l : Nat) (p : ReplayEnt → Bool) : Option Word :=
  wp.replay.findSome? fun e => if p e then Tbl.get? e.vals l else none

/-- The latest write of a register word in the warp's replay queue (R324). An entry of a write that is not the word's latest
holds another value than the word (log 111, DEDUCED). -/
def Block.replayOf (bk : Block) (w l : Nat) (r : Reg) : Option Word :=
  let wp := bk.warp w
  let v := match r with
    | .v n => (match bk.mapOf w n with
      | some (.row k) => wp.replayed l fun e => e.tgt == Tgt.row k 0
      | some .pending => none
      | none => none)
    | .o n => wp.replayed l fun e => e.tgt == Tgt.oreg w n.toNat 0
    | .last p => wp.replayed l fun e => e.pos == some (match p with | .la => 1 | .lb => 2 | .lc => 3)
    | .z => none | .s _ => none
  v.filter fun x => x == (bk.read w l r).setWidth 32

/-- The register words that the words read for one thread and that hold a parity error which the replay queue can repair: lane and
register (R324). -/
def repairs (bk : Block) (ws : List Placed) (w l : Nat) : List (Nat × Reg) :=
  (ws.flatMap fun p => wordsRead bk p w l).filter fun x => bk.errAt w x.1 x.2 && (bk.replayOf w x.1 x.2).isSome

/-- Why one thread of a fragment waits, with the words of its bundle (R90, R222, R249, R324). -/
def State.threadWaits (s : State) (c key : Nat) (bk : Block) (ws : List Placed) (w l : Nat) : List Wait :=
  let t := bk.thread w l
  let tk := (ws.filter fun p => takesToken p.i).length
  (if t.ready ≤ s.coreNow c ∧ t.wake ≤ s.cyc ∧ bk.free w l ∧ t.memFault.isNone ∧ (t.trap.isNone ∨ t.recorded.isSome) ∧
      (t.lates.isEmpty ∨ t.level = .supervisor) then [] else [.other]) ++
  (if ws.any fun p => blockedBy bk p w l then [.source] else []) ++
  (if ws.any fun p => match lineRead bk p.i w l with | some a => bk.lineEmpty a | none => false then [.line] else []) ++
  (if bk.pendingFull ws w l then [.other] else []) ++
  (if (ws.any fun p => isGlobal p.i || isOrdering p.i || isLocal p.i) && (bk.untranslated w l || s.reqUntranslated c key w l)
    then [.other] else []) ++
  (if s.replayWaits c key bk w l || bk.opWaits w l then [.other] else []) ++
  (if bk.tokenMode && decide (s.mp.tokens < s.mp.tokensUsed + tk) && tk ≠ 0 then [.token] else []) ++
  (if (ws.any fun p => isCopyReq p.i) && s.queueFull c then [.other] else []) ++
  (if (ws.any fun p => isMatReq p.i) && decide ((s.core c).matQ.length ≥ 16) then [.other] else []) ++
  (if ws.any fun p => s.tileWaits c key bk p.i then [.other] else []) ++
  (if (repairs bk ws w l).isEmpty then [] else [.repair])

/-- Is the thread held at a JWAIT (R94)? -/
def Thread.atRejoin (t : Thread) : Bool :=
  t.holds.any fun h => match h with
    | .jwait _ => true
    | .pantry _ => false | .ftwait _ => false | .bar _ _ => false | .resamp _ => false | .fencel _ _ => false
    | .bbwt _ _ _ => false | .until _ => false | .untilCore _ => false | .accsv _ => false | .scalar _ => false | .cross _ _ => false

/-- The lanes of warp w whose live threads stand at an address: a fragment (R89). A thread held at a JWAIT stands at the
bundle after it only once it is released, and a thread that passes the JWAIT does not wait for it (R94; log 103, DEDUCED). -/
def Block.fragment (bk : Block) (w : Nat) (a : DWord) : List Nat :=
  ((bk.warp w).threads.filter fun p => p.2.live && p.2.pc == a && !p.2.atRejoin).map (·.1)

/-- The addresses at which live threads of a warp stand. -/
def Block.addressesOf (bk : Block) (w : Nat) : List DWord := ((bk.liveLanes w).map fun l => (bk.thread w l).pc).dedup

/-- The addresses at which live threads of a block stand, with the warps there. -/
def Block.addresses (bk : Block) : List DWord := ((bk.live).map fun p => (bk.thread p.1 p.2).pc).dedup

/-- Is the core open to the block: resident there, the core's number not absent, not draining, no scan, its context not ending (R7,
R107, R311, R325; log 139)? -/
def State.coreOpen (s : State) (c : Nat) (bk : Block) : Bool :=
  bk.core? == some c && (s.cap c).present && bk.drain.isNone && (s.core c).scan.isNone &&
  (match Tbl.get? s.ctxs bk.ctx with | some x => x.ending.isNone | none => false)

/-- May the block's core issue for it: it is open to the block, a core cycle begins in this chip cycle, and no bundle has issued
in the one at hand (R4, R89)? -/
def State.mayIssue (s : State) (c : Nat) (bk : Block) : Bool :=
  s.coreOpen c bk && decide (0 < s.coreBegins c) && !(s.core c).spent

/-! ### Fetch and decode (R34, R51, R52, R354) -/

/-- The physical address of a bundle for a fragment's threads: the first translation that succeeds. -/
def State.fetchPa (s : State) (c : Nat) (bk : Block) (w : Nat) (lanes : List Nat) (a : DWord) : Option Nat :=
  lanes.findSome? fun l => match s.translate c bk.ctx (bk.thread w l).level .fetch a.toNat with
    | .ok p => some p
    | .error _ => none

/-- The bundle at a physical address in core c's instruction cache (R354). -/
def State.cachedBundle (s : State) (c pa : Nat) : Option BundleBits := Tbl.get? (Tbl.getD s.ms.icache c []) pa

/-- What a fragment finds at its address. -/
inductive Fetched where
  /-- No thread may fetch there. -/
  | none
  /-- The instruction cache misses at a physical address. -/
  | miss (pa : Nat)
  /-- It misses on a sector that cannot be read (R335, R352; log 109). -/
  | bad (e : Code)
  | got (b : Except Reject Bundle)
deriving Repr

/-- The fetch of a fragment's bundle. -/
def State.fetch (s : State) (c : Nat) (bk : Block) (w : Nat) (lanes : List Nat) (a : DWord) : Fetched :=
  if a.toNat % 32 ≠ 0 then .none
  else match s.fetchPa c bk w lanes a with
    | none => .none
    | some pa => match s.cachedBundle c pa with
      | none => (match s.ms.sectorFault s.dev ((List.range 32).map (pa + ·)) with
        | some e => .bad e
        | none => .miss pa)
      | some b => .got (decodeBundle b)

/-- The words a fragment would issue; none if its bundle is not to be had. -/
def Fetched.words : Fetched → List Placed
  | .none => []
  | .miss _ => []
  | .bad _ => []
  | .got (.ok b) => b.words
  | .got (.error _) => []

/-- The group in ascending lane order, the order in which its threads act (R19). -/
def laneOrder (g : List (Nat × Nat)) : List (Nat × Nat) := sortBy (fun p => p.2) g

/-! ### Control transfers (R52, R136, R137, R146) -/

/-- What a word's control transfer does for one thread. -/
inductive Transfer where
  /-- No destination to check: the thread traps or exits. -/
  | leaves
  /-- The thread continues at the next bundle. -/
  | falls
  | goes (dest : DWord)
  | bad (b : Bad)
deriving DecidableEq, Repr

/-- A displacement's destination (R52). -/
def relative (a : DWord) (imm : Word) : DWord := a + (imm.signExtend 64 <<< 5)

/-- The transfer of a word of the bundle at address a, for one thread (R136, R137, R144, R146). -/
def transferOf (bk : Block) (a : DWord) (i : Instr) (w l : Nat) : Transfer :=
  let t := bk.thread w l
  match i with
  | .bra x => if bk.guard w l x.g x.gn then .goes (relative a x.imm) else .falls
  | .br x => if bk.guard w l x.g x.gn then .goes (bk.addrOf w l x.a) else .falls
  | .jmpi x =>
    if bk.guard w l x.g x.gn then
      let idx := bk.read32 w l x.b
      let dest := bk.addrOf w l x.a + (idx.setWidth 64 <<< 5)
      if idx.toNat ≥ x.mod.toNat then .bad { code := .target, faddr := dest.toNat } else .goes dest
    else .falls
  | .call x =>
    if bk.guard w l x.g x.gn then
      if x.d == .z && t.stack.length ≥ 16 then .bad { code := .illegal, faddr := 1 } else .goes (relative a x.imm)
    else .falls
  | .calli x =>
    if bk.guard w l x.g x.gn then
      if x.d == .z && t.stack.length ≥ 16 then .bad { code := .illegal, faddr := 1 } else .goes (bk.addrOf w l x.a)
    else .falls
  | .ret x =>
    if bk.guard w l x.g x.gn then
      if x.a == .z then
        match t.stack with
        | [] => .bad { code := .illegal, faddr := 2 }
        | d :: _ => .goes d
      else .goes (bk.addrOf w l x.a)
    else .falls
  | .eret _ => .goes (if t.rp then t.resume else t.fpc)
  | .exit _ => .leaves | .trap _ => .leaves | .bkpt _ => .leaves | .sysc _ => .leaves
  | _ => .falls

/-- The level at which a transfer's destination is checked: ERET's is the level it returns to (R52, R146). -/
def transferLevel (i : Instr) (t : Thread) : Level :=
  match i with
  | .eret _ => t.pl
  | _ => t.level

/-! ### The checks of R104 for one thread -/

/-- `%faddr` where the manual states none: a free value (log 23). -/
def State.openFaddr (_s : State) (c : Code) (a : DWord) : Nat := (Config.faddr c.num a.toNat).toNat
/-- The address in the record of a context's end that no thread's bundle caused: a free value (log 23, R311). -/
def State.openFpc (_s : State) (c : Code) : DWord := Config.faddr c.num 1

/-- The 9-bit specifier and word position that UNMAPPED and REGUE report (R196, R309). -/
def nameDetail (pos : Nat) (r : Reg) : Nat := pos * 2 ^ 16 + (encodeReg9 r).toNat

/-- The names a word reads that must be mapped: name operands first, then sources (R104 row 2, R196). -/
def namesOf (bk : Block) (p : Placed) : List Reg := p.i.needsMapped ++ (usesOf bk p).map (·.r)

/-- Is a mapped name unmapped in warp w? -/
def Block.isUnmapped (bk : Block) (w : Nat) (r : Reg) : Bool :=
  match r with
  | .v n => (bk.mapOf w n).isNone
  | .o _ => false | .last _ => false | .z => false | .s _ => false

/-- A write or SETE that targets a row mapped by more than one warp (R122). -/
def Block.isShared (bk : Block) (w : Nat) (r : Reg) : Bool :=
  match bk.rowOf w r with
  | some k => decide ((bk.mappers k).length > 1)
  | none => false

/-- The registers whose rows a word changes (R122, R130). -/
def changes (i : Instr) : List Reg :=
  i.dests ++ (match i with
    | .sete x => [x.a]
    | _ => [])

/-- The banks in which a word allocates a row for warp w, in the order of R115 (R116, R127). -/
def allocsOf (bk : Block) (p : Placed) (w : Nat) : List Nat :=
  (p.i.dests.filter fun r => bk.isUnmapped w r).filterMap Reg.bank? ++
  (match p.i with
   | .rnew x => x.d.bank?.toList
   | _ => [])

/-- The threads of a group in which a word takes part, in warp w. -/
def partIn (bk : Block) (g : List (Nat × Nat)) (p : Placed) (w : Nat) : List (Nat × Nat) :=
  g.filter fun q => q.1 == w && takesPart bk p.i q.1 q.2

/-- The first bank of a list whose share is spent, with `res` the banks of the rows already allotted (R114). -/
def spentBank (bk : Block) (res want : List Nat) : Option Nat :=
  match want with
  | [] => none
  | k :: r => if bk.heldIn k + (res.filter (· == k)).length ≥ bk.share then some k else spentBank bk (k :: res) r

/-- A check that a bundle's words fail as a whole for some threads of a group: the threads, the word's number, and the bank or
row at fault. -/
structure Refused where
  ts : List (Nat × Nat)
  word : Nat
  detail : Nat
deriving DecidableEq, Repr

/-- The refusal that concerns a thread. -/
def refusalOf (rs : List Refused) (q : Nat × Nat) : Option Refused := rs.find? (·.ts.contains q)

/-- The participants of a word in warp w whom no earlier word refused. -/
def stillIn (bk : Block) (g : List (Nat × Nat)) (rs : List Refused) (p : Placed) (w : Nat) : List (Nat × Nat) :=
  (partIn bk g p w).filter fun q => (refusalOf rs q).isNone

/-- The allotment of a bundle's rows so far: the threads each allotment is for, with its banks; and the refusals. -/
structure Allot where
  taken : List (List (Nat × Nat) × List Nat)
  refused : List Refused

/-- The allocations of word number n for warp w. Rows allotted only to threads that are then refused are free again (R105,
R116). -/
def Allot.word (al : Allot) (bk : Block) (g : List (Nat × Nat)) (p : Placed) (n w : Nat) : Allot :=
  let ts := stillIn bk g al.refused p w
  let want := allocsOf bk p w
  if ts.isEmpty || want.isEmpty then al
  else match spentBank bk (al.taken.flatMap (·.2)) want with
    | some k =>
      let out := al.refused ++ [⟨ts, n, k⟩]
      ⟨al.taken.filter fun x => x.1.any fun q => (refusalOf out q).isNone, out⟩
    | none => { al with taken := al.taken ++ [(ts, want)] }

/-- The allotment of a bundle for a group: words in order, and within a word ascending warps (R104 row 6, R115). -/
def allotAll (bk : Block) (ws : List Placed) (g : List (Nat × Nat)) : List Refused :=
  (ws.zipIdx.foldl (fun al x => (warpsOf g).foldl (fun (al : Allot) w => al.word bk g x.1 x.2 w) al) ⟨[], []⟩).refused

/-! ### The map edits on a block, and the references they add (R117, R120, R127, R128) -/

/-- The number of a mapped name. -/
def nameNo (r : Reg) : BitVec 8 :=
  match r with
  | .v n => n
  | .o _ => 0 | .last _ => 0 | .z => 0 | .s _ => 0

/-- Adds a reference to what an entry names, if that is a row (R120). -/
def Block.addEnt (bk : Block) (e : Option MapEnt) : Block :=
  match e with
  | some (.row r) => bk.modRow r fun x => { x with ref := x.ref + 1 }
  | some .pending => bk
  | none => bk

/-- Releases what a name maps to now, if that is a row, and maps the name to e, whose reference is already counted. The
row a name mapped to before the bundle is released once, whichever of two map words of the bundle unmaps it, so that a
count equals the number of references (R117, R120; log 107, DESIGN CHOICE). -/
def Block.remap (bk : Block) (w : Nat) (n : BitVec 8) (e : Option MapEnt) : Block :=
  (match bk.mapOf w n with
   | some (.row r) => bk.release r
   | some .pending => bk
   | none => bk).setMap w n e

/-- RMOV for one warp (R127); `old` is the block before the bundle, here as in the other edits (R32). -/
def Block.rmov (bk old : Block) (w : Nat) (d n : Reg) : Block :=
  if d == n then bk
  else
    let row := old.mapOf w (nameNo n)
    ((bk.addEnt row).remap w (nameNo d) row).remap w (nameNo n) none

/-- RSWAP for one warp (R127). -/
def Block.rswap (bk old : Block) (w : Nat) (x y : Reg) : Block :=
  let ex := old.mapOf w (nameNo x)
  let ey := old.mapOf w (nameNo y)
  (((bk.addEnt ex).addEnt ey).remap w (nameNo x) ey).remap w (nameNo y) ex

/-- RALIAS for one warp (R127). -/
def Block.ralias (bk old : Block) (w : Nat) (d n : Reg) : Block :=
  if d == n then bk
  else
    match old.mapOf w (nameNo n) with
    | some (.row r) => (bk.addEnt (some (.row r))).remap w (nameNo d) (some (.row r))
    | some .pending => bk
    | none => bk

/-- The reference that GIVE hands on: a new one with `.k`, else the name's own (R128). -/
def Block.giveRef (bk old : Block) (w : Nat) (x : FWord) : Block :=
  let bk := bk.addEnt (old.mapOf w (nameNo x.a))
  if x.mod.getLsbD 6 then bk else bk.remap w (nameNo x.a) none

/-- What a word does for warp w to the references that the rows have before the bundle. -/
def Block.edit (bk old : Block) (i : Instr) (w : Nat) : Block :=
  match i with
  | .rnew x => bk.remap w (nameNo x.d) none
  | .take x => bk.remap w (nameNo x.d) none
  | .rfree x => bk.remap w (nameNo x.a) none
  | .rmov x => bk.rmov old w x.d x.a
  | .rswap x => bk.rswap old w x.d x.a
  | .ralias x => bk.ralias old w x.d x.a
  | .give x => bk.giveRef old w x
  | _ => bk

/-- The names on whose rows a word may add a reference (R120). -/
def raises (i : Instr) : List Reg :=
  match i with
  | .ralias x => [x.a]
  | .give x => [x.a]
  | .rmov x => [x.a]
  | .rswap x => [x.d, x.a]
  | _ => []

/-- The edits of word number n for warp w, unless they would take a count above 15 (R120). -/
def raiseWord (old : Block) (g : List (Nat × Nat)) (k : Block × List Refused) (p : Placed) (n w : Nat) : Block × List Refused :=
  let ts := stillIn old g k.2 p w
  if ts.isEmpty then k
  else
    let bk := k.1.edit old p.i w
    match ((raises p.i).filterMap (old.rowOf w)).find? fun r => decide ((bk.row r).ref > 15) with
    | some r => (k.1, k.2 ++ [⟨ts, n, r⟩])
    | none => (bk, k.2)

/-- The edits of a bundle for a group, in the order of R115: the refusals (R120). -/
def raiseAll (bk : Block) (ws : List Placed) (g : List (Nat × Nat)) : List Refused :=
  (ws.zipIdx.foldl (fun k x => (warpsOf g).foldl (fun k w => raiseWord bk g k x.1 x.2 w) k) (bk, [])).2

/-- The threads of a group that a check of the whole bundle lets go on: those whom it refuses where all of the group ask, are
refused only if the others that go on leave them no room (R105, R116, R120). -/
def admitted (check : List (Nat × Nat) → List Refused) (g : List (Nat × Nat)) : List (Nat × Nat) :=
  let first := check g
  first.foldl (fun good e =>
      let more := g.filter fun q => good.contains q || e.ts.contains q
      if (check more).isEmpty then more else good)
    (g.filter fun q => (refusalOf first q).isNone)

/-- The refusal of thread q by a check of the whole bundle, beside those of a group that go on (R104, R120): a thread outside the
group, which fails elsewhere, is refused only where it finds no room beside them. -/
def refusedBeside (check : List (Nat × Nat) → List Refused) (good g : List (Nat × Nat)) (q : Nat × Nat) : Option Refused :=
  if good.contains q then none
  else
    let first := refusalOf (check (if g.contains q then g else q :: g)) q
    let mates := match first with
      | some e => e.ts
      | none => []
    match refusalOf (check ((q :: g).dedup.filter fun x => good.contains x || x == q || mates.contains x)) q with
    | some e => some e
    | none => if g.contains q then first else none

/-- The rejoin register a field names (R135). -/
def rejoinNo (r : Reg) : Nat :=
  match r with
  | .v n => n.toNat
  | .o _ => 0 | .last _ => 0 | .z => 0 | .s _ => 0

/-- The predicates a word reads besides its guard (R134, R193). -/
def predsRead (i : Instr) : List Nat :=
  let f := match i with
    | .iaddx x => (x.mod &&& 7#11).toNat
    | .vote x => ((x.mod >>> 4) &&& 7#11).toNat
    | _ => 0
  if f = 0 then [] else [f - 1]

/-- The predicate a word's guard reads (R43). -/
def guardRead (i : Instr) : List Nat :=
  match i.view with
  | some v => if v.g == 7 then [] else [v.g.toNat]
  | none => []

/-- The rejoin register a word reads or changes (R139). -/
def rejoinRead (i : Instr) : List Nat :=
  match i with
  | .jset x => [rejoinNo x.a] | .jsetI x => [rejoinNo x.a] | .jwait x => [rejoinNo x.a]
  | _ => []

/-- The names whose map entries a word reads, and those of them whose rows' reference counts it reads (R119, R120). -/
def countsRead (i : Instr) : List Reg :=
  blocksPending i ++ (match i with
    | .mapq x => [x.a]
    | _ => [])
def entriesRead (bk : Block) (p : Placed) : List Reg := (usesOf bk p).map (·.r) ++ p.i.dests ++ countsRead p.i

/-- Does the map entry of a name, or the reference count of its row, hold an error (R323)? -/
def Block.entryErr (bk : Block) (w : Nat) (r : Reg) : Bool :=
  match r with
  | .v n => bk.ecc.contains (.map w n.toNat)
  | .o _ => false | .last _ => false | .z => false | .s _ => false
def Block.countErr (bk : Block) (w : Nat) (r : Reg) : Bool :=
  match bk.rowOf w r with
  | some k => bk.ecc.contains (.count k)
  | none => false

/-- REGUE where a thread reads a predicate, a rejoin register, a map entry or a reference count with an error that ECC cannot
correct (R323): `all` are the bundle's words, `ws` those in which the thread takes part. -/
def State.eccBad (s : State) (bk : Block) (a : DWord) (all ws : List Placed) (w l : Nat) : Option Bad :=
  if bk.ecc.isEmpty then none
  else
    let plain : Bad := { code := .regue, faddr := s.openFaddr .regue a }
    firstBad [
      (if (all.flatMap (fun p => guardRead p.i) ++ ws.flatMap fun p => predsRead p.i).any fun k => bk.ecc.contains (.pred w l k) then some plain else none),
      (if (ws.flatMap fun p => rejoinRead p.i).any fun k => bk.ecc.contains (.rejoin w k) then some plain else none),
      (ws.findSome? fun p => ((entriesRead bk p).find? (bk.entryErr w)).map fun r => { code := .regue, faddr := nameDetail p.pos r }),
      (ws.findSome? fun p => ((countsRead p.i).find? (bk.countErr w)).map fun r => { code := .regue, faddr := nameDetail p.pos r })]

/-- Rows 2 to 5 of R104, and the checks of parity and ECC of R309, for one thread: `all` are the bundle's words, `ws` those in
which it takes part. -/
def State.earlyBad (s : State) (bk : Block) (a : DWord) (all ws : List Placed) (w l : Nat) : Option Bad :=
  firstBad [
    (ws.findSome? fun p => ((namesOf bk p).find? fun r => bk.isUnmapped w r).map fun r =>
      { code := .unmapped, faddr := nameDetail p.pos r }),
    (ws.findSome? fun p => ((usesOf bk p).find? fun u => u.trap && bk.emptyAt w l u.r).map fun _ =>
      { code := .earlyread, faddr := s.openFaddr .earlyread a }),
    (ws.findSome? fun p => ((wordsRead bk p w l).find? fun x => bk.errAt w x.1 x.2 && (bk.replayOf w x.1 x.2).isNone).map fun x =>
      { code := .regue, faddr := nameDetail p.pos x.2 }),
    s.eccBad bk a all ws w l,
    (if ws.any fun p => bankBad p.i bk w l then some { code := .bank, faddr := s.openFaddr .bank a } else none),
    (if ws.any fun p => (changes p.i).any fun r => bk.isShared w r then
      some { code := .sharedwrite, faddr := s.openFaddr .sharedwrite a } else none)]

/-- A code address that a thread may not go to: TARGET, or the fault of the walker (R52, R352). -/
def State.codeBad (s : State) (c x : Nat) (lv : Level) (d : DWord) : Option Bad :=
  (s.codeFault c x lv d).map fun e => { code := e, faddr := d.toNat, ends := e != .target }

/-- Row 8 of R104: the destination of the control transfer, or of falling off an executable page (R52). -/
def State.targetBad (s : State) (c : Nat) (bk : Block) (a : DWord) (ws : List Placed) (w l : Nat) : Option Bad :=
  let t := bk.thread w l
  let x := (ws.find? fun p => p.i.family == .transfer).map (·.i)
  let good := fun (lv : Level) (d : DWord) => s.codeBad c bk.ctx lv d
  match x with
  | none => if s.lastOfPage c bk.ctx a then good t.level (a + 32) else none
  | some i => match transferOf bk a i w l with
    | .leaves => none
    | .falls => if s.lastOfPage c bk.ctx a then good t.level (a + 32) else none
    | .goes d => good (transferLevel i t) d
    | .bad b => if b.code == .target then some b else none

/-- The depth of the return stack (R137), as row 7 of its own word. -/
def depthBad (bk : Block) (a : DWord) (i : Instr) (w l : Nat) : Option Bad :=
  if i.family != .transfer then none
  else match transferOf bk a i w l with
    | .bad b => if b.code == .illegal then some b else none
    | .leaves => none | .falls => none | .goes _ => none

/-- ROWQUOTA of word number n for a thread whose reference R120 refuses. -/
def raiseBad (r : Option Refused) (n : Nat) : Option Bad :=
  match r with
  | some e => if e.word = n then some { code := .rowquota, faddr := 2 ^ 32 + e.detail } else none
  | none => none

/-- Rows 7 and 8 of R104 for one thread, the words in turn; `r`: the refusal of a reference that concerns it (R120). -/
def State.lateBad (s : State) (c : Nat) (bk : Block) (a : DWord) (ws : List Placed) (r : Option Refused) (w l : Nat) : Option Bad :=
  firstBad ((ws.zipIdx.map fun x =>
    if takesPart bk x.1.i w l then
      firstBad [s.ownBad c bk x.1.i w l, raiseBad r x.2, depthBad bk a x.1.i w l]
    else none) ++ [s.targetBad c bk a ws w l])

/-- Row 1 of R104 for warp w: the group must hold all of the warp's live threads, and no quarter may be mixed for MMA
(R92). -/
def partialBad (bk : Block) (g : List (Nat × Nat)) (ws : List Placed) (w : Nat) : Bool :=
  (ws.any fun p => p.i.convergent) &&
  (((bk.liveLanes w).any fun l => !g.contains (w, l)) ||
   ((ws.any fun p => match p.i with | .mma _ => true | .mmau _ => true | _ => false) &&
    (List.range 4).any fun q => quarterMixed (bk.isLive w) q))

/-- Rows 1 to 5 of R104 for one thread of a group. A thread that failed at decode still counts for row 1, as its fragment
stood at the bundle (R92). -/
def State.firstRows (s : State) (bk : Block) (a : DWord) (ws : List Placed) (g : List (Nat × Nat)) (w l : Nat) : Option Bad :=
  if partialBad bk (g ++ (bk.fragment w a).map fun l => (w, l)) ws w then
    some { code := .partialWarp, faddr := s.openFaddr .partialWarp a }
  else s.earlyBad bk a ws (ws.filter fun p => takesPart bk p.i w l) w l

/-- The first unmapped name that a bundle reads in one of the threads that raise UNMAPPED: the same for each of them (R196). -/
def firstUnmapped (bk : Block) (ws : List Placed) (ts : List (Nat × Nat)) : Nat :=
  ((ws.findSome? fun p => ((namesOf bk p).find? fun r =>
    ts.any fun q => takesPart bk p.i q.1 q.2 && bk.isUnmapped q.1 r).map fun r => nameDetail p.pos r)).getD 0

/-- What refuses a bundle's words to threads of a group: no row, or no reference to one, the edits of those who get no row apart
(R105, R114, R120). -/
def refusals (bk : Block) (ws : List Placed) (g : List (Nat × Nat)) : List Refused :=
  let out := allotAll bk ws g
  out ++ raiseAll bk ws (g.filter fun q => (refusalOf out q).isNone)

/-- The failing threads of a group, in its order, each with its first failing check (R104). A thread that fails row 6 or R120, or
a later row, takes no row and adds no reference (R105). -/
def State.groupBad (s : State) (c : Nat) (bk : Block) (a : DWord) (ws : List Placed) (g : List (Nat × Nat)) :
    List ((Nat × Nat) × Bad) :=
  let early := g.map fun p => (p, s.firstRows bk a ws g p.1 p.2)
  let ok := (early.filter (·.2.isNone)).map (·.1)
  let sound := ok.filter fun p => (s.lateBad c bk a ws none p.1 p.2).isNone
  let good := admitted (refusals bk ws) sound
  let got := sound.filter fun p => (refusedBeside (allotAll bk ws) good sound p).isNone
  let unmapped := (early.filter fun x => x.2.any (·.code == .unmapped)).map (·.1)
  early.filterMap fun x => match x.2 with
    | some b => some (x.1, if b.code == .unmapped then { b with faddr := firstUnmapped bk ws unmapped } else b)
    | none =>
      match refusedBeside (allotAll bk ws) good sound x.1 with
      | some e => some (x.1, { code := .rowquota, faddr := e.detail })
      | none => (s.lateBad c bk a ws (refusedBeside (raiseAll bk ws) good got x.1) x.1.1 x.1.2).map fun b => (x.1, b)

/-! ### Faults of an issue (R105) -/

/-- The handles of nodes under prompt commit that a fault concerns, and of the nodes that have read their effects, go to the
host (R332). -/
def State.report (s : State) (hs : List Word) : State :=
  let reads := fun (k : Task) => k.node && k.reads.any hs.contains
  let more := (s.cp.tasks.filter fun p => reads p.2).map (fun p => s.handleOf p.1) ++ (s.cp.gone.filter fun g => reads g.task).map (·.handle)
  if hs.isEmpty then s else s.note (.reported (hs ++ more).dedup)

/-- A REGUE or MEMUE of a block's thread is a rollback of its node under verified commit, and a fault otherwise (R309). -/
def State.raise (s : State) (b w l : Nat) (e : Entry) : State :=
  match s.block? b with
  | none => s
  | some bk =>
    if (e.code = .regue ∨ e.code = .memue) ∧ (s.nodeTag bk.task).isSome then
      let s := s.recordMemue bk.ctx e
      { s with mp := { s.mp with rollDue := (bk.task, false) :: s.mp.rollDue } }
    else if e.code = .integrity then s.endCtx bk.ctx e
    else
      let s := s.recordMemue bk.ctx e
      let prompt : Bool := match Tbl.get? s.cp.tasks bk.task with
        | some k => k.node && (e.code == .regue || e.code == .memue)
        | none => false
      (if prompt then s.report [bk.handle] else s).takeFault b w l e

/-- The lanes of a warp that fail alike at this issue (R105). -/
def sameFault (bad : List ((Nat × Nat) × Bad)) (w : Nat) (b : Bad) : Word :=
  maskOf ((bad.filter fun x => x.1.1 == w && x.2.code == b.code).map (·.1.2))

/-- The failing threads take their faults, bundle-precisely (R105). ACCUSE's entry sets the switch latch of the core (R147, R263).
`%fmask` ends with the mask of the fault taken last (log 122, DEDUCED). -/
def State.takeAll (s : State) (key c : Nat) (a : DWord) (bad : List ((Nat × Nat) × Bad)) : State :=
  bad.foldl (fun s x =>
    let s := s.modThread key x.1.1 x.1.2 fun t => { t with holds := [] }
    let enters := (s.block? key).any fun bk => (bk.thread x.1.1 x.1.2).level == .user
    let e : Entry := { code := x.2.code, fpc := a, faddr := BitVec.ofNat 64 x.2.faddr, fmask := sameFault bad x.1.1 x.2 }
    let s := if x.2.ends then (match s.block? key with
        | some bk => s.endCtx bk.ctx e
        | none => s)
      else s.raise key x.1.1 x.1.2 e
    if x.2.code = .accuse && enters then s.modCore c fun k => { k with latch := match k.latch with
      | some h => some h
      | none => some (key, x.1.1, x.1.2) }
    else s) s

/-- THE CHECKS AT ISSUE: the failing threads of the bundle take their faults and leave the group; a bundle with a
cross-lane word then takes effect for no thread, also where a thread failed at decode (R195); the other threads go on to the next bundle, no sooner than
the stall field allows (R29, R31, R104, R105). Done once for a bundle. -/
def State.checkIssue (s : State) : State :=
  if s.iss.checked then s
  else
    let key := s.iss.blk
    let c := s.iss.core
    let a := s.iss.addr
    let bk := s.snap
    let bad := s.groupBad c bk a s.iss.words s.iss.grp
    let failed := bad.map (·.1)
    let rest := s.iss.grp.filter fun p => !failed.contains p
    let cross := s.iss.words.any fun p => p.i.family == .crossLane
    let gone := failed ++ s.warps.flatMap fun w => (bk.fragment w a).filterMap fun l =>
      if s.iss.grp.contains (w, l) then none else some (w, l)
    let s := s.takeAll key c a bad
    if cross && !gone.isEmpty then
      let s := s.modBlock key fun bk => rest.foldl (fun k p => k.modThread p.1 p.2 fun t =>
        { t with since := none, holds := [.cross (maskOf ((gone.filter (·.1 == p.1)).map (·.2))) a] }) bk
      { s with iss := { s.iss with checked := true, grp := [] } }
    else
      let next := s.now + 1 + s.iss.stall
      let s := s.modBlock key fun bk => bk.modThreads rest fun t =>
        { t with pc := a + 32, from? := some a, since := none, ready := next, holds := [] }
      { s with iss := { s.iss with checked := true, grp := rest } }

/-! ### Faults before the words (R34, R51, R52) -/

/-- The fault of one thread at its bundle's decode: TARGET on an entry, then the checks of R51. -/
def State.decodeBad (s : State) (c : Nat) (bk : Block) (a : DWord) (f : Fetched) (w l : Nat) : Option Bad :=
  let t := bk.thread w l
  match s.codeBad c bk.ctx t.level a with
  | some b => some b
  | none => match f with
    | .none => some { code := .target, faddr := a.toNat }
    | .miss _ => none
    | .bad e => some { code := e, faddr := a.toNat }
    | .got (.error .pool) => some { code := .poolfetch, faddr := (t.from?.getD 0).toNat }
    | .got (.error _) => some { code := .illegal, faddr := 0 }
    | .got (.ok b) =>
      if (b.words.any fun p => p.i.privileged) && t.level == .user then some { code := .priv, faddr := 0 } else none

/-! ### Ready fragments and groups (R89, R90, R263) -/

/-- Would a thread of the fragment of warp w at an address raise ACCUSE while another thread holds the switch latch (R263)? Words that
name a tile issue for one fragment alone (R92). -/
def State.latched (s : State) (c key : Nat) (bk : Block) (w : Nat) (a : DWord) : Bool :=
  match (s.core c).latch with
  | none => false
  | some h =>
    let lanes := bk.fragment w a
    let f := s.fetch c bk w lanes a
    (f.words.any fun p => (tileOf p.i).isSome) &&
      (s.groupBad c bk a f.words ((lanes.filter fun l => (s.decodeBad c bk a f w l).isNone).map fun l => (w, l))).any fun x =>
        x.2.code == .accuse && h != (key, x.1)

/-- Why some lanes of the fragment of warp w at an address do not issue (R90, R263). -/
def State.fragWaits (s : State) (c key : Nat) (bk : Block) (w : Nat) (a : DWord) (lanes : List Nat) : List Wait :=
  let ws := (s.fetch c bk w (bk.fragment w a) a).words
  (lanes.flatMap fun l => s.threadWaits c key bk ws w l) ++ if s.latched c key bk w a then [.other] else []

/-- Is the fragment ready (R90)? -/
def State.fragReady (s : State) (c key : Nat) (bk : Block) (w : Nat) (a : DWord) : Bool :=
  !(bk.fragment w a).isEmpty && (s.fragWaits c key bk w a (bk.fragment w a)).isEmpty

/-- Does the bundle at an address need convergence, as some fragment there finds it (R89)? -/
def State.convergesAt (s : State) (c : Nat) (bk : Block) (a : DWord) : Bool :=
  (Tbl.keys bk.warps).any fun w => (s.fetch c bk w (bk.fragment w a) a).words.any fun p => p.i.convergent

/-- The group at an address: warps ascending, lanes disjoint, alone for a convergent bundle (R89). The fragment of warp `first`, if one
must issue now, comes before the others (R91; log 171, DESIGN CHOICE). -/
def State.groupWith (s : State) (c key : Nat) (bk : Block) (a : DWord) (first : Option Nat) : List (Nat × Nat) :=
  let ws := match first with
    | none => Tbl.keys bk.warps
    | some w => w :: (Tbl.keys bk.warps).filter (· != w)
  let conv := s.convergesAt c bk a
  ws.foldl (fun g w =>
    if !s.fragReady c key bk w a then g
    else
      let lanes := bk.fragment w a
      if g.any (fun p => lanes.contains p.2) || (conv && !g.isEmpty) then g
      else g ++ lanes.map fun l => (w, l)) []

/-- The group at an address where no fragment must issue now (R89). -/
def State.groupAt (s : State) (c key : Nat) (bk : Block) (a : DWord) : List (Nat × Nat) := s.groupWith c key bk a none

/-! ### The beginning of a bundle (R32, R89) -/

/-- The special registers of core c and of context x that a bundle's words read as they stand before it (R32, R149). -/
def State.specialRegs (s : State) (c x : Nat) : SpecialRegs :=
  let k := s.core c
  match Tbl.get? s.ctxs x with
  | some y => { tvec := y.tvec, mmode := y.mmode, accown := k.accown, accused := k.accused }
  | none => { accown := k.accown, accused := k.accused }

/-- The issue of a bundle begins for a group (R89): threads whose decode fails take their faults; the rest are the issuing
group, and the block is kept as it stood (R32). -/
def State.begin (s : State) (c key : Nat) (bk : Block) (a : DWord) (f : Fetched) (g : List (Nat × Nat)) (wait : Bool) :
    State :=
  let g := laneOrder g
  let bad := g.filterMap fun p => (s.decodeBad c bk a f p.1 p.2).map fun b => (p, b)
  let failed := bad.map (·.1)
  let rest := g.filter fun p => !failed.contains p
  let regs := s.specialRegs c bk.ctx
  let s := (s.cached c bk.ctx a.toNat).takeAll key c a bad
  let (stall, ws) := match f with
    | .got (.ok b) => (b.stall, b.words)
    | .got (.error _) => (0, [])
    | .none => (0, [])
    | .miss _ => (0, [])
    | .bad _ => (0, [])
  let s := s.modCore c fun k => { k with issued := some s.cyc, spent := true }
  let s := { s with mp := { s.mp with clusters := Tbl.modD s.mp.clusters (clusterOf c) .fresh fun x => { x with active := true } } }
  let s := s.modTask bk.task fun t => { t with cores := Tbl.put t.cores c s.cyc }
  { s with iss := { core := c, blk := key, addr := a, stall, grp := rest, words := ws, pos := 1, half := .whole,
                    snap := some bk, regs, checked := false, wait, no := s.seq } }

/-- The word about to execute (R32): its position and half. -/
def State.atWord (s : State) (p : Placed) : State := { s with iss := { s.iss with pos := p.pos, half := p.half } }

/-- The bundle's issue is over. -/
def State.endBundle (s : State) : State := { s with iss := .none }

end Sys2Proof.Machine
end

