-- ==== Sys2Proof/Machine/Sync.lean ====
section
/-! DEFINITION. Sys2Proof/Machine/Sync.lean: rejoin registers, block barriers, the exit of a thread, and the replay or
discard of a recorded operation (R94, R118, R141, R146, R231, R292). -/

namespace Sys2Proof.Machine

open Sys2Proof

/-- Rejoin register k of a warp (R94). -/
def Warp.rejoin (wp : Warp) (k : Nat) : Rejoin := Tbl.getD wp.j k { mask := 0, arrived := 0 }
/-- Rejoin register k replaced. -/
def Warp.setRejoin (wp : Warp) (k : Nat) (r : Rejoin) : Warp := { wp with j := Tbl.put wp.j k r }

/-- Does the thread have a hold that p picks: its own, or one that a handler's entry interrupted? -/
def Thread.heldBy (t : Thread) (p : Hold → Bool) : Bool :=
  t.holds.any p || t.kept.any p

/-- The holds that p picks end: the thread may issue from the next cycle, subject to R90. -/
def Thread.release (t : Thread) (p : Hold → Bool) (now : Nat) : Thread :=
  { t with holds := t.holds.filter fun h => !p h, kept := t.kept.filter fun h => !p h,
           ready := if t.holds.any p then max t.ready (now + 1) else t.ready }

/-- One hold of a thread ends, of several equal ones the oldest (R124). -/
def Thread.releaseOne (t : Thread) (h : Hold) (now : Nat) : Thread :=
  if t.holds.contains h then { t with holds := t.holds.erase h, ready := max t.ready (now + 1) }
  else { t with kept := t.kept.erase h }

/-- Is a thread held at a JWAIT on register k (R94)? -/
def Thread.atJwait (t : Thread) (k : Nat) : Bool := t.live && t.heldBy (· == .jwait k)

/-- The lanes of a warp whose threads are held at a JWAIT on register k. -/
def Warp.waiting (wp : Warp) (k : Nat) : Word := maskOf ((wp.threads.filter fun p => p.2.atJwait k).map (·.1))

/-- The release condition of R94: every lane of the mask has arrived or is vacant; then all held threads go on and the
arrived set is cleared. -/
def Warp.rejoinCheck (wp : Warp) (k now : Nat) : Warp :=
  let r := wp.rejoin k
  let done := (List.range 32).all fun l => !r.mask.getLsbD l || r.arrived.getLsbD l || !(wp.thread l).live
  if done && wp.waiting k != 0 then
    { (wp.setRejoin k { r with arrived := 0 }) with
      threads := Tbl.mapVal wp.threads fun t => t.release (· == .jwait k) now }
  else wp

/-- Barrier id of a block (R292). -/
def Block.barrier (bk : Block) (id : Nat) : Barrier := Tbl.getD bk.bars id .fresh

/-- Every thread of the block changed by f. -/
def Block.allThreads (bk : Block) (f : Thread → Thread) : Block :=
  { bk with warps := Tbl.mapVal bk.warps fun wp => { wp with threads := Tbl.mapVal wp.threads f } }

/-- The holds on barrier id (R292). -/
def Hold.onBarrier (id : Nat) (h : Hold) : Bool :=
  match h with
  | .bar i _ => i == id
  | .jwait _ => false | .pantry _ => false | .ftwait _ => false | .resamp _ => false | .fencel _ _ => false
  | .bbwt _ _ _ => false | .until _ => false | .untilCore _ => false | .accsv _ => false | .scalar _ => false | .cross _ _ => false

/-- The release condition of a barrier: the expected count, or every live thread for LIVE (R292). -/
def Block.barCheck (bk : Block) (id now : Nat) : Block :=
  let b := bk.barrier id
  let full := match b.expect with
    | some n => decide (b.arrived ≥ n)
    | none => decide (b.arrived ≥ bk.live.length)
  if b.arrived > 0 && full then
    { bk with bars := Tbl.put bk.bars id { gen := b.gen + 1, arrived := 0, expect := none } }.allThreads
      (·.release (Hold.onBarrier id) now)
  else bk

/-- Every mapped name of a warp is released (R118). -/
def Block.releaseWarp (bk : Block) (w : Nat) : Block :=
  let bk := (bk.warp w).map.foldl (fun k p => match p.2 with
    | .row r => k.release r
    | .pending => k) bk
  bk.modWarp w fun wp => { wp with map := [] }

/-- A thread ends: its lane is vacant for R94 and R118, and LIVE barriers are evaluated again (R141, R292, R298). -/
def Block.exitThread (bk : Block) (w l now : Nat) : Block :=
  let bk := bk.modThread w l fun t => { t with live := false, holds := [], kept := [], trap := none, memFault := none, lates := [] }
  let bk := bk.modWarp w fun wp => (List.range 8).foldl (fun wp k => wp.rejoinCheck k now) wp
  let bk := (Tbl.keys bk.bars).foldl (fun k id => match (k.barrier id).expect with
    | none => k.barCheck id now
    | some _ => k) bk
  if (bk.liveLanes w).isEmpty && !bk.isPop then bk.releaseWarp w else bk

/-! ### Recorded operations (R106, R146, R231) -/

/-- Does a result of an operation belong to the thread at (w, l)? An operation's lanes are disjoint (R89). -/
def Pending.forThread (p : Pending) (w l : Nat) : Bool :=
  match p.tgt with
  | .row _ k => k == l
  | .oreg v _ k => v == w && k == l
  | .scalar v _ => v == w
  | .pred v k _ => v == w && k == l
  | .none => match p.last with
    | some (v, k, _) => v == w && k == l
    | none => false

/-- The thread in lane l has left its handler: R195's holds of its warp wait for it no longer. -/
def Block.backAt (bk : Block) (w l : Nat) : Block :=
  let f := fun (h : Hold) => match h with
    | .cross m a => .cross (setBit m l false) a
    | .jwait _ => h | .pantry _ => h | .ftwait _ => h | .bar _ _ => h | .resamp _ => h | .fencel _ _ => h
    | .bbwt _ _ _ => h | .until _ => h | .untilCore _ => h | .accsv _ => h | .scalar _ => h
  bk.modWarp w fun wp => { wp with threads := Tbl.mapVal wp.threads fun t =>
    { t with holds := t.holds.map f, kept := t.kept.map f } }

/-- The held accesses of a thread are performed again: they await translation once more, and until then the thread does not
issue (R106). The time of R102 counts anew from the replay. -/
def Block.replayOps (bk : Block) (w l now : Nat) : Block :=
  { bk with ops := bk.ops.map fun (o : MemOp) =>
      { o with coreAt := (if o.held.any fun a => a.w == w && a.lane == l then now else o.coreAt),
               todo := o.todo ++ (o.held.filter (fun a => a.w == w && a.lane == l)).map fun a => { a with again := true },
               held := o.held.filter fun a => !(a.w == w && a.lane == l) } }

/-- Is the operation's result one for the whole warp, in a scalar register (R207, R291)? -/
def scalarResult (i : Instr) : Bool :=
  match i with
  | .ldg w => w.d.isScalar | .spawn w => w.d.isScalar | .ftnew w => w.d.isScalar | .ftget w => w.d.isScalar
  | .ftwait w => w.d.isScalar | .tnext w => w.d.isScalar | .bara _ => true
  | _ => false

/-- Does a result of an operation depend on an access? -/
def Pending.needs (p : Pending) (o : MemOp) (a : Access) : Bool :=
  p.op == o.id && (p.forThread a.w a.lane || (scalarResult o.i && (match p.last with
    | some (w, _, _) => w == a.w
    | none => false)))

/-- Operations with nothing left to do and no result to come are over, and the threads that wait for them go on (R98). -/
def Block.retire (bk : Block) (now : Nat) : Block :=
  let isOver := fun (o : MemOp) => o.todo.isEmpty && o.held.isEmpty && o.parked.isEmpty && !bk.pend.any fun p => p.op == o.id && p.due.isNone
  let ids := (bk.ops.filter isOver).map (·.id)
  if ids.isEmpty then bk
  else
    let ended := fun (h : Hold) => match h with
      | .scalar k => ids.contains k
      | .ftwait k => ids.contains k
      | .jwait _ => false | .pantry _ => false | .bar _ _ => false | .resamp _ => false
      | .fencel _ _ => false | .bbwt _ _ _ => false | .until _ => false | .untilCore _ => false | .accsv _ => false
      | .cross _ _ => false
    { bk with ops := bk.ops.filter fun o => !isOver o }.allThreads (·.release ended now)

/-- A thread's held access of an operation is discarded: its destination lanes become 0 and full, in the order of R95 with
what else lands at the start of the next core cycle (R146). -/
def Block.dropOp (bk : Block) (op w l now : Nat) : Block :=
  match bk.ops.find? (·.id == op) with
  | none => bk
  | some o =>
    let gone := (o.held ++ o.parked).filter fun a => a.w == w && a.lane == l
    let mine := fun (p : Pending) => gone.any fun a => p.needs o a
    let bk := { bk with ops := bk.ops.map fun (o : MemOp) =>
                          if o.id == op then
                            { o with held := o.held.filter fun a => !(a.w == w && a.lane == l),
                                     parked := o.parked.filter fun a => !(a.w == w && a.lane == l) }
                          else o,
                        pend := bk.pend.map fun p => if mine p then { p with val := 0, due := some (now + 1) } else p }
    (bk.modThread w l (·.release (· == .ftwait op) now)).retire now

/-- A part of a request is discarded: zeros for its window bytes, nothing for global ones, and no global byte is read or written any
more (R231). -/
def Part.discard (p : Part) : Part :=
  { p with dropped := true, src := none, spa := [], dpa := [], data := List.replicate p.n 0 }

/-- A request is replayed: it is issued again, its parts or those of the lanes that replay are translated afresh, and it takes a
fresh promise in this cycle (R231). -/
def CopyReq.replay (r : CopyReq) (now : Nat) : CopyReq :=
  { r with state := .untranslated, issued := now, again := true, redone := true, owed := true, promise := none, deadline := none, back := [],
           parts := r.parts.map fun p => if r.box || r.back.any (fun x => x.1 == p.lane) then { p with spa := [], dpa := [] } else p }

/-- The request of a box whose faulting lanes have all returned or exited: the lowest-numbered one that returned decides;
with none the request is discarded (R231). -/
def CopyReq.settleBox (r : CopyReq) (now : Nat) : CopyReq :=
  match minBy (fun (x : Nat × Bool) => x.1) r.back with
  | some (_, false) => r.replay now
  | some (_, true) => { r with state := .queued, redone := true, back := [], parts := r.parts.map Part.discard }
  | none => { r with state := .queued, redone := true, back := [], parts := r.parts.map Part.discard }

/-- One faulting thread of a request returns by ERET, with or without `.drop`, or exits (R231). The request waits for every
lane that its fault names. For CPYL each lane decides for its own bytes, and one that returns without `.drop` replays its part. -/
def CopyReq.return (r : CopyReq) (l : Nat) (drop exited : Bool) (now : Nat) : CopyReq :=
  match r.state with
  | .faulted m =>
    if !m.getLsbD l then r
    else
      let rest := setBit m l false
      if r.box then
        let r := if exited then r else { r with back := r.back ++ [(l, drop)] }
        if rest = 0 then r.settleBox now else { r with state := .faulted rest }
      else
        let r := if drop || exited then
            { r with parts := r.parts.map fun p => if p.lane == l then p.discard else p }
          else { r with back := r.back ++ [(l, false)] }
        if rest ≠ 0 then { r with state := .faulted rest }
        else if r.back.isEmpty then { r with state := .queued, redone := true }
        else r.replay now
  | .untranslated => r | .queued => r | .started => r

/-- The faulting thread's requests in the copy queue of its core are answered; `.drop` discards the recorded one, `op`
(R231). -/
def State.answerReqs (s : State) (c b w l : Nat) (op : Nat) (drop exited : Bool) : State :=
  s.mapReqs c b fun r => if r.w == w then r.return l (drop && r.id == op) exited s.cyc else r

/-- A thread's recorded operation, in the memory engine or the copy engine, is replayed or dropped (R146, R231). -/
def State.settle (s : State) (c b w l : Nat) (drop : Bool) : State :=
  match s.block? b with
  | none => s
  | some bk => match (bk.thread w l).recorded with
    | none => s
    | some op =>
      let s := s.modBlock b fun bk => (if drop then bk.dropOp op w l (s.nowOf b) else bk).replayOps w l (s.nowOf b)
      s.answerReqs c b w l op drop false

end Sys2Proof.Machine
end

