-- ==== Sys2Proof/Machine/Control.lean ====
section
/-! DEFINITION. Sys2Proof/Machine/Control.lean: the control group: branches, calls, rejoining, exit, sleep, traps, the
return from a handler (R133–R148). -/

namespace Sys2Proof.Machine

open Sys2Proof

/-- What `exec` answers. -/
abbrev Out := Host.Outcome State Fault Refusal

/-- The issuing threads whose guard is true (R43). -/
def State.guarded (s : State) (g : BitVec 3) (gn : Bool) : List (Nat × Nat) :=
  s.iss.grp.filter fun p => s.guard p.1 p.2 g gn

/-- Each issuing thread whose guard is true continues at its own destination (R136, R138). -/
def State.branch (s : State) (g : BitVec 3) (gn : Bool) (dest : Nat → Nat → DWord) : State :=
  (s.guarded g gn).foldl (fun s p => s.goto p.1 p.2 (dest p.1 p.2)) s

/-- A code address written to an address operand: one scalar register per warp, or a pair of each thread's operand file,
with latency 1; its low half is the word's result in the last-result register (R99, R133, R137; log 37, DEDUCED). -/
def State.link (s : State) (ps : List (Nat × Nat)) (d : Reg) (v : DWord) : State :=
  match d with
  | .s n =>
    let s := (warpsOf ps).foldl (fun s w => s.writeScalar w (.s n) 1 v false) s
    ps.foldl (fun s p => s.write p.1 p.2 .z 1 (v.setWidth 32)) s
  | .o n => ps.foldl (fun s p => (s.write p.1 p.2 (.o n) 1 (v.setWidth 32)).writeQuiet p.1 p.2 (.o (n + 1)) 1
      ((v >>> 32).setWidth 32)) s
  | .v _ => s | .last _ => s | .z => s

/-- A call: the return address goes to d or onto the return stack (R137). -/
def State.call (s : State) (g : BitVec 3) (gn : Bool) (d : Reg) (dest : Nat → Nat → DWord) : State :=
  let ret := s.iss.addr + 32
  let ps := s.guarded g gn
  let s := if d == .z then
      s.modBlock s.iss.blk fun bk => bk.modThreads ps fun t => { t with stack := ret :: t.stack }
    else s.link ps d ret
  s.branch g gn dest

/-- JSET on rejoin register k, whose error is gone (R323): the mask of each warp; arrivals of threads still held survive, and
the release condition is evaluated in the next core cycle (R94, R139). -/
def State.jset (s : State) (k : Nat) (mask : Nat → Word) : State :=
  s.warps.foldl (fun s w => s.modBlock s.iss.blk fun bk => (bk.modWarp w fun wp =>
    { wp.setRejoin k { mask := mask w, arrived := (wp.rejoin k).arrived &&& wp.waiting k } with jset := wp.jset ++ [k] }).mendEcc (.rejoin w k)) s

/-- JWAIT on rejoin register k (R94, R139). -/
def State.jwait (s : State) (k : Nat) : State :=
  s.warps.foldl (fun s w =>
    let ls := (s.lanesOf w).filter fun l => ((s.snap.warp w).rejoin k).mask.getLsbD l
    s.modBlock s.iss.blk fun bk => bk.modWarp w fun wp =>
      let r := wp.rejoin k
      let wp := ls.foldl (fun wp l => wp.modThread l (·.addHold (.jwait k)))
        (wp.setRejoin k { r with arrived := r.arrived ||| maskOf ls })
      wp.rejoinCheck k s.now) s

/-- The switch latch that a thread holds is released, on whichever core (R263; log 113, DEDUCED). -/
def State.freeLatch (s : State) (b w l : Nat) : State :=
  { s with cores := Tbl.mapVal s.cores fun k => if k.latch = some (b, w, l) then { k with latch := none } else k }

/-- The held accesses of a thread are discarded (R141, R146). -/
def Block.dropHeld (bk : Block) (w l now : Nat) : Block :=
  ((bk.ops.filter fun (o : MemOp) => (o.held ++ o.parked).any fun a => a.w == w && a.lane == l).map (·.id)).foldl
    (fun bk id => bk.dropOp id w l now) bk

/-- The thread in lane l of warp w of block b on core c ends; operations recorded for it are discarded (R141, R231, R301). -/
def State.exitOne (s : State) (c b w l : Nat) : State :=
  let s := s.modBlock b fun bk => bk.dropHeld w l (s.nowOf b)
  let s := { s with cp := s.cp.forget b w l }
  ((s.answerReqs c b w l 0 false true).modBlock b fun bk => bk.exitThread w l (s.nowOf b)).freeLatch b w l

/-- EXIT (R141). -/
def State.exits (s : State) : State := s.iss.grp.foldl (fun s p => s.exitOne s.iss.core s.iss.blk p.1 p.2) s

/-- TRAP, BKPT and SYSC: each issuing thread takes the trap, with the address of the next bundle and the immediate
(R144, R145). -/
def State.traps (s : State) (c : Code) (imm : Word) : State :=
  s.iss.grp.foldl (fun s p => s.takeTrap s.iss.blk p.1 p.2
    { code := c, fpc := s.iss.addr + 32, faddr := imm.setWidth 64, fmask := maskOf (s.lanesOf p.1) }) s

/-- SLEEPC: the wake time is t + 1 + s + n (R142). -/
def State.sleepc (s : State) (n : Nat → Nat → Word) : State :=
  s.iss.grp.foldl (fun s p => s.modThread s.iss.blk p.1 p.2 fun t =>
    { t with wake := s.cyc + s.cycles (1 + s.iss.stall) + (n p.1 p.2).toNat, nap := false }) s

/-- NAPTO: the wake time is the value of the scalar register; beside a SLEEPC the later word's time holds (R142; log 148, DESIGN
CHOICE). -/
def State.napto (s : State) (a : Reg) : State :=
  s.iss.grp.foldl (fun s p => s.modThread s.iss.blk p.1 p.2 fun t =>
    { t with wake := (s.val64 p.1 p.2 a).toNat, nap := true }) s

/-- ERET of one thread: a recorded operation is replayed or dropped, the level and the pc are restored, and a switch
latch the thread holds is released (R146, R263). -/
def State.eretOne (s : State) (drop : Bool) (w l : Nat) : State :=
  let b := s.iss.blk
  let ts := s.snap.thread w l
  let s := if ts.rp then s.settle s.iss.core b w l drop else s
  (s.modBlock b fun bk => (bk.modThread w l fun t => t.eret ts s.iss.addr).backAt w l).freeLatch b w l

/-- ERET (R146). -/
def State.erets (s : State) (drop : Bool) : State := s.iss.grp.foldl (fun s p => s.eretOne drop p.1 p.2) s

/-! ### The words -/

/-- NOP: no effect, no result (R143). -/
def execNop (_w : FWord) (s : State) : Out := .next s.checkIssue

/-- BRA (R136). -/
def execBra (w : IWord) (s : State) : Out :=
  let s := s.checkIssue
  .next (s.branch w.g w.gn fun _ _ => relative s.iss.addr w.imm)

/-- BR (R136). -/
def execBr (w : FWord) (s : State) : Out :=
  let s := s.checkIssue
  .next (s.branch w.g w.gn fun v l => s.addr v l w.a)

/-- JMPI (R136); an index out of range was TARGET at issue. -/
def execJmpi (w : FWord) (s : State) : Out :=
  let s := s.checkIssue
  .next (s.branch w.g w.gn fun v l => s.addr v l w.a + ((s.val v l (.reg w.b)).setWidth 64 <<< 5))

/-- CALL (R137). -/
def execCall (w : IWord) (s : State) : Out :=
  let s := s.checkIssue
  .next (s.call w.g w.gn w.d fun _ _ => relative s.iss.addr w.imm)

/-- CALLI (R137). -/
def execCalli (w : FWord) (s : State) : Out :=
  let s := s.checkIssue
  .next (s.call w.g w.gn w.d fun v l => s.addr v l w.a)

/-- RET (R137). -/
def execRet (w : FWord) (s : State) : Out :=
  let s := s.checkIssue
  let t := s.branch w.g w.gn fun v l => if w.a == .z then (s.snap.thread v l).stack.headD 0 else s.addr v l w.a
  .next (if w.a == .z then
      t.modBlock t.iss.blk fun bk => bk.modThreads (s.guarded w.g w.gn) fun x => { x with stack := x.stack.tail }
    else t)

/-- JSET (R139). -/
def execJset (w : FWord) (s : State) : Out :=
  let s := s.checkIssue
  .next (s.jset (rejoinNo w.a) fun v =>
    if w.mod.getLsbD 0 then maskOf (s.lanesOf v) else s.val v (s.lowest v) (.reg w.b))

/-- JSET_I (R139). -/
def execJsetI (w : IWord) (s : State) : Out :=
  let s := s.checkIssue
  .next (s.jset (rejoinNo w.a) fun _ => w.imm)

/-- JWAIT (R139). -/
def execJwait (w : FWord) (s : State) : Out :=
  let s := s.checkIssue
  .next (s.jwait (rejoinNo w.a))

/-- ELECT: the lowest issuing lane of each warp (R140). -/
def execElect (w : FWord) (s : State) : Out :=
  let s := s.checkIssue
  let pd := (w.mod >>> 8).toNat
  let s := s.perWarp w.d 1 fun v => BitVec.ofNat 64 (s.lowest v)
  .next (s.iss.grp.foldl (fun s p => s.writePd p.1 p.2 pd 1 (p.2 == s.lowest p.1)) s)

/-- EXIT (R141). -/
def execExit (_w : FWord) (s : State) : Out := .next s.checkIssue.exits

/-- TRAP raises USERTRAP (R144). -/
def execTrap (w : IWord) (s : State) : Out := .next (s.checkIssue.traps .usertrap w.imm)

/-- BKPT raises BREAK (R144). -/
def execBkpt (w : IWord) (s : State) : Out := .next (s.checkIssue.traps .breakpoint w.imm)

/-- SYSC raises SYSCALL (R144). -/
def execSysc (w : IWord) (s : State) : Out := .next (s.checkIssue.traps .syscall w.imm)

/-- SLEEPC (R142). -/
def execSleepc (w : FWord) (s : State) : Out :=
  let s := s.checkIssue
  .next (s.sleepc fun v l => s.val v l (.reg w.b))

/-- SLEEPC_I (R142). -/
def execSleepcI (w : IWord) (s : State) : Out := .next (s.checkIssue.sleepc fun _ _ => w.imm)

/-- NAPTO (R142). -/
def execNapto (w : FWord) (s : State) : Out := .next (s.checkIssue.napto w.a)

/-- HINT advises the power control; the model keeps the advice of each warp (R143, R339). -/
def execHint (w : FWord) (s : State) : Out :=
  let s := s.checkIssue
  .next (s.warps.foldl (fun s v => s.modBlock s.iss.blk fun bk => bk.modWarp v fun wp =>
    { wp with hint := w.mod.setWidth 2 }) s)

/-- YIELD: advice of no architectural effect (R143). -/
def execYield (_w : FWord) (s : State) : Out := .next s.checkIssue

/-- ERET (R146). -/
def execEret (w : FWord) (s : State) : Out := .next (s.checkIssue.erets (w.mod.getLsbD 0))

end Sys2Proof.Machine
end

