-- ==== Sys2Proof/Machine/Special.lean ====
section
/-! DEFINITION. Sys2Proof/Machine/Special.lean: the special registers: SRD and SWR (R149–R151). -/

namespace Sys2Proof.Machine

open Sys2Proof

/-- `%lease`: the state of a context's boost lease and the cycle at which it ends (R340). -/
def leaseReg (k : Ctx) : DWord :=
  let st := match k.lease with
    | .none => 0 | .active => 1 | .suspended => 2 | .expired => 3
  BitVec.ofNat 64 (st * 2 ^ 62 + k.leaseEnd % 2 ^ 62)

/-- The value of special register n for the thread at (w, l) of block bk on core c, at the cycle of issue (R149, R150). -/
def State.sreg (s : State) (c : Nat) (bk : Block) (n w l : Nat) : DWord :=
  let t := bk.thread w l
  let x := Tbl.get? s.ctxs bk.ctx
  let nat := fun (k : Nat) => BitVec.ofNat 64 k
  if n = 0x00 then nat l
  else if n = 0x01 then nat (l / 4)
  else if n = 0x02 then nat (l / 8)
  else if n = 0x03 then nat w
  else if n = 0x04 then nat (32 * w + l)
  else if n = 0x05 then nat bk.blk
  else if n = 0x06 then bk.handle.setWidth 64
  else if n = 0x07 then bk.lpbAddr
  else if n = 0x08 then nat c
  else if n = 0x09 then nat (clusterOf c)
  else if n = 0x0A then nat (dieOf c)
  else if n = 0x0B then nat s.dev
  else if n = 0x0C then nat bk.lpb.window
  else if n = 0x0D then nat bk.ctx
  else if n = 0x10 then nat s.cyc
  else if n = 0x11 then nat s.slot
  else if n = 0x12 then nat s.frame
  else if n = 0x14 then t.stall
  else if n = 0x15 then t.pstall
  else if n = 0x18 then t.uid.setWidth 64
  else if n = 0x19 then t.par.setWidth 64
  else if n = 0x1A then (match Tbl.get? s.cp.tasks bk.task with
    | some k => k.gen.setWidth 64
    | none => 0)
  else if n = 0x1B then bk.lpb.seed
  else if n = 0x20 then s.iss.regs.accown.setWidth 64
  else if n = 0x21 then
    if s.iss.regs.accown == BitVec.ofNat 32 bk.ctx then s.iss.regs.accused.setWidth 64 else 0
  else if n = 0x22 then s.iss.regs.mmode.setWidth 64
  else if n = 0x28 then s.iss.regs.tvec
  else if n = 0x29 then t.fcode.setWidth 64
  else if n = 0x2A then t.fpc
  else if n = 0x2B then (bk.warp w).fmask.setWidth 64
  else if n = 0x2C then t.faddr
  else if n = 0x30 then nat (s.cluster (clusterOf c)).cls
  else if n = 0x31 then (match x with
    | some k => leaseReg k
    | none => 0)
  else 0

/-- Is special register n held per thread (R150)? -/
def perThread (n : Nat) : Bool := n == 0x14 || n == 0x15 || n == 0x29 || n == 0x2A || n == 0x2C

/-- A 64-bit register after a write: of all 64 bits, or of one half (R149). -/
def halfWrite (old v : DWord) (scalar hi : Bool) : DWord :=
  if scalar then v
  else if hi then (v <<< 32) ||| (old &&& 0xFFFFFFFF#64)
  else (old &&& 0xFFFFFFFF00000000#64) ||| (v &&& 0xFFFFFFFF#64)

/-- A register held by the thread after SWR. `%fcode`'s reserved bits read as 0 (R3, R145); while rp is 1, `%fpc` and the
resume address are written together (R146), after a write of one half too (log 160, DESIGN CHOICE). -/
def Thread.swr (t : Thread) (n : Nat) (rp : Bool) (f : DWord → DWord) : Thread :=
  if n = 0x14 then { t with stall := f t.stall }
  else if n = 0x15 then { t with pstall := f t.pstall }
  else if n = 0x29 then { t with fcode := (f (t.fcode.setWidth 64)).setWidth 32 &&& 0x3FF#32 }
  else if n = 0x2A then
    let v := f t.fpc
    if rp then { t with fpc := v, resume := v } else { t with fpc := v }
  else if n = 0x2C then { t with faddr := f t.faddr }
  else t

/-! ### The accumulator file's owner (R247, R263) -/

/-- Tile t of a core. -/
def Core.tile (k : Core) (t : Nat) : Tile := Tbl.getD k.tiles t .zero
/-- Tile t changed by f. -/
def Core.modTile (k : Core) (t : Nat) (f : Tile → Tile) : Core := { k with tiles := Tbl.modD k.tiles t .zero f }
/-- Tile t is added to `%accused` (R263). -/
def Core.accuse (k : Core) (t : Nat) : Core := { k with accused := k.accused ||| (1#16 <<< t) }
/-- The bit of a tile that a request or a load for a block of context x has written: set for the owner only (R263). -/
def Core.accuseFor (k : Core) (x t : Nat) : Core := if k.accown = BitVec.ofNat 32 x then k.accuse t else k

/-- The tiles of core c that resident blocks of context x claim. -/
def State.claimedBy (s : State) (c x : Nat) : List Nat :=
  (List.range 16).filter fun t => match ((s.core c).tile t).claim with
    | none => false
    | some b => (s.blocksOn c).any fun p => p.1 == b && p.2.ctx == x

/-- The file of core c comes to be context x's: every tile is cleared but those that resident blocks of x claim, which are
`%accused` (R247, R263, R264). -/
def State.setOwner (s : State) (c x : Nat) : State :=
  let mine := s.claimedBy c x
  s.modCore c fun k =>
    { k with tiles := (k.tiles.filter fun p => mine.contains p.1), accused := BitVec.ofNat 16 (sumBy (2 ^ ·) mine),
             accown := BitVec.ofNat 32 x }

/-- A register held by the warp, the core or the context after SWR (R149, R150). -/
def State.swrWide (s : State) (w n : Nat) (f : DWord → DWord) : State :=
  if n = 0x20 then
    let old := (s.core s.iss.core).accown
    let new : Word := (f (old.setWidth 64)).setWidth 32
    if new = old then s else s.setOwner s.iss.core new.toNat
  else if n = 0x22 then s.modCtx s.snap.ctx fun k => { k with mmode := (f (k.mmode.setWidth 64)).setWidth 32 }
  else if n = 0x28 then s.modCtx s.snap.ctx fun k => { k with tvec := f k.tvec }
  else if n = 0x2B then s.modBlock s.iss.blk fun bk => bk.modWarp w fun wp =>
    { wp with fmask := (f (wp.fmask.setWidth 64)).setWidth 32 }
  else s

/-- SRD (R149): each thread's half of the value, or all 64 bits of a scalar destination. -/
def execSrd (w : FWord) (s : State) : Out :=
  let s := s.checkIssue
  let v := fun wp l => s.sreg s.iss.core s.snap w.sreg wp l
  .next (if w.d.isScalar then s.perWarp w.d 1 fun wp => v wp (s.lowest wp)
    else s.perLane w.d 1 fun wp l => if w.hi then (v wp l >>> 32).setWidth 32 else (v wp l).setWidth 32)

/-- SWR (R149): per thread, or from the lowest issuing lane of each warp. -/
def execSwr (w : FWord) (s : State) : Out :=
  let s := s.checkIssue
  let f := fun wp l old => halfWrite old (s.val64 wp l w.a) w.a.isScalar w.hi
  .next (if perThread w.sreg then
      s.iss.grp.foldl (fun s p => s.modThread s.iss.blk p.1 p.2 fun t =>
        t.swr w.sreg (s.snap.thread p.1 p.2).rp (f p.1 p.2)) s
    else s.warps.foldl (fun s wp => s.swrWide wp w.sreg (f wp (s.lowest wp))) s)

end Sys2Proof.Machine
end

