-- ==== Sys2Proof/Machine/MapEdit.lean ====
section
/-! DEFINITION. Sys2Proof/Machine/MapEdit.lean: the rename map and the Pantry: RNEW to EMPQ (R119–R130). -/

namespace Sys2Proof.Machine

open Sys2Proof

/-- A word that acts once for each warp of the group (R127). -/
def State.eachWarp (s : State) (f : State → Nat → State) : State := s.warps.foldl f s

/-- The issuing block changed by f. -/
def State.modHere (s : State) (f : Block → Block) : State := s.modBlock s.iss.blk f

/-- What name n of warp w mapped to before the bundle. -/
def State.mapped (s : State) (w : Nat) (n : Reg) : Option MapEnt := s.snap.mapOf w (nameNo n)

/-- RNEW for one warp (R127). -/
def State.rnewOne (s : State) (d : Reg) (zero : Bool) (w : Nat) : State :=
  match s.alloc s.iss.core s.iss.blk ((nameNo d).toNat % 4) zero with
  | none => s
  | some (s, r) => s.modHere fun bk => bk.remap w (nameNo d) (some (.row r))

/-- RFREE for one warp (R127). -/
def State.rfreeOne (s : State) (n : Reg) (w : Nat) : State :=
  s.modHere fun bk => bk.remap w (nameNo n) none

/-- RMOV for one warp (R127). -/
def State.rmovOne (s : State) (d n : Reg) (w : Nat) : State := s.modHere fun bk => bk.rmov s.snap w d n

/-- RSWAP for one warp (R127). -/
def State.rswapOne (s : State) (x y : Reg) (w : Nat) : State := s.modHere fun bk => bk.rswap s.snap w x y

/-- RALIAS for one warp (R127). -/
def State.raliasOne (s : State) (d n : Reg) (w : Nat) : State := s.modHere fun bk => bk.ralias s.snap w d n

/-- The lanes of a fragment held at mailbox m are released (R124). -/
def Block.releasePantry (bk : Block) (w : Nat) (lanes : Word) (m now : Nat) : Block :=
  let free := fun (l : Nat) (t : Thread) =>
    if lanes.getLsbD l then t.releaseOne (.pantry m) now else t
  bk.modWarp w fun wp => { wp with threads := Tbl.mapKV wp.threads free }

/-- The lanes of a fragment are held at mailbox m (R128). -/
def Block.holdPantry (bk : Block) (w : Nat) (lanes : List Nat) (m : Nat) : Block :=
  lanes.foldl (fun k l => k.modThread w l (·.addHold (.pantry m))) bk

/-- Mailbox m. -/
def Block.mailbox (bk : Block) (m : Nat) : Mailbox := Tbl.getD bk.boxes m .empty
/-- Mailbox m replaced. -/
def Block.setMailbox (bk : Block) (m : Nat) (x : Mailbox) : Block := { bk with boxes := Tbl.put bk.boxes m x }

/-- A name of a warp that waits in TAKE, or takes at once, comes to map row r: the values that came with the row enter the
warp's replay queue (R124, R128, R324; log 111). -/
def Block.tookRow (bk : Block) (w : Nat) (n : BitVec 8) (r : Nat) : Block :=
  let x := bk.row r
  let good := (List.range 32).filter fun l => !x.err.getLsbD l
  (bk.setMap w n (some (.row r))).modWarp w fun wp =>
    { wp with replay := ({ word := 0, tgt := .row r 0, pos := none, vals := good.map fun l => (l, x.val l) } :: wp.replay).take 16 }

/-- A row comes to mailbox m from the fragment (w, lanes): to the oldest taker, else into the box, else the giver waits
(R124, R128). -/
def Block.give (bk : Block) (m r w : Nat) (lanes : List Nat) (now : Nat) : Block :=
  let x := bk.mailbox m
  match x.takers with
  | (w2, d2, f2) :: rest =>
    ((bk.setMailbox m { x with takers := rest }).tookRow w2 (BitVec.ofNat 8 d2) r).releasePantry w2 f2 m now
  | [] => match x.box with
    | none => bk.setMailbox m { x with box := some r }
    | some _ =>
      (bk.setMailbox m { x with givers := x.givers ++ [(r, w, maskOf lanes)] }).holdPantry w lanes m

/-- The fragment (w, lanes) takes from mailbox m into a name (R128). -/
def Block.take (bk : Block) (m w : Nat) (d : BitVec 8) (lanes : List Nat) (now : Nat) : Block :=
  let x := bk.mailbox m
  match x.box with
  | some r =>
    let bk := bk.tookRow w d r
    match x.givers with
    | (r2, w2, f2) :: rest => (bk.setMailbox m { x with box := some r2, givers := rest }).releasePantry w2 f2 m now
    | [] => bk.setMailbox m { x with box := none }
  | none =>
    ((bk.setMap w d (some .pending)).setMailbox m
      { x with takers := x.takers ++ [(w, d.toNat, maskOf lanes)] }).holdPantry w lanes m

/-- GIVE for one warp (R128). -/
def State.giveOne (s : State) (x : FWord) (w : Nat) : State :=
  match s.mapped w x.a with
  | some (.row r) =>
    let m := mailboxOf s.snap w (s.lowest w) x
    let lanes := s.lanesOf w
    s.modHere fun bk => (bk.giveRef s.snap w x).give m r w lanes s.now
  | some .pending => s
  | none => s

/-- TAKE for one warp (R128). -/
def State.takeOne (s : State) (x : FWord) (w : Nat) : State :=
  let m := mailboxOf s.snap w (s.lowest w) x
  let lanes := s.lanesOf w
  s.modHere fun bk => (bk.remap w (nameNo x.d) none).take m w (nameNo x.d) lanes s.now

/-- MAPQ's description of a mapping (R129). -/
def Block.mapDesc (bk : Block) (w : Nat) (n : Reg) : DWord :=
  let bank := (nameNo n).toNat % 4 * 2 ^ 16
  BitVec.ofNat 64 (match bk.mapOf w (nameNo n) with
    | none => 2 ^ 31 + bank
    | some .pending => 2 ^ 30 + bank
    | some (.row r) => bank + (bk.row r).ref * 2 ^ 12 + r)

/-- EMPQ's mask (R129). -/
def Block.emptyMask (bk : Block) (w : Nat) (n : Reg) : DWord :=
  match bk.mapOf w (nameNo n) with
  | none => 0
  | some .pending => 0xFFFFFFFF
  | some (.row r) => (bk.row r).empty.setWidth 64

/-- SETE for one warp: every lane with `all`, else the issuing ones (R130). -/
def State.seteOne (s : State) (n : Reg) (all : Bool) (w : Nat) : State :=
  match s.mapped w n with
  | some (.row r) =>
    let m := if all then 0xFFFFFFFF#32 else maskOf (s.lanesOf w)
    s.modHere fun bk => bk.modRow r fun x => { x with empty := x.empty ||| m }
  | some .pending => s
  | none => s

/-! ### The words -/

/-- RNEW (R127). -/
def execRnew (w : FWord) (s : State) : Out :=
  .next (s.checkIssue.eachWarp fun s v => s.rnewOne w.d (w.mod.getLsbD 0) v)
/-- RFREE (R127). -/
def execRfree (w : FWord) (s : State) : Out := .next (s.checkIssue.eachWarp fun s v => s.rfreeOne w.a v)
/-- RMOV (R127). -/
def execRmov (w : FWord) (s : State) : Out := .next (s.checkIssue.eachWarp fun s v => s.rmovOne w.d w.a v)
/-- RSWAP (R127). -/
def execRswap (w : FWord) (s : State) : Out := .next (s.checkIssue.eachWarp fun s v => s.rswapOne w.d w.a v)
/-- RALIAS (R127). -/
def execRalias (w : FWord) (s : State) : Out := .next (s.checkIssue.eachWarp fun s v => s.raliasOne w.d w.a v)
/-- GIVE (R128). -/
def execGive (w : FWord) (s : State) : Out := .next (s.checkIssue.eachWarp fun s v => s.giveOne w v)
/-- TAKE (R128). -/
def execTake (w : FWord) (s : State) : Out := .next (s.checkIssue.eachWarp fun s v => s.takeOne w v)
/-- MAPQ (R129). -/
def execMapq (w : FWord) (s : State) : Out :=
  let s := s.checkIssue
  .next (s.perWarp w.d 1 fun v => s.snap.mapDesc v w.a)
/-- SETE (R130). -/
def execSete (w : FWord) (s : State) : Out :=
  .next (s.checkIssue.eachWarp fun s v => s.seteOne w.a (w.mod.getLsbD 0) v)
/-- EMPQ (R129). -/
def execEmpq (w : FWord) (s : State) : Out :=
  let s := s.checkIssue
  .next (s.perWarp w.d 1 fun v => s.snap.emptyMask v w.a)

end Sys2Proof.Machine
end

