-- ==== Sys2Proof/Machine/Integer.lean ====
section
/-! DEFINITION. Sys2Proof/Machine/Integer.lean: the integer words, per lane or on the scalar unit (R152–R160). -/

namespace Sys2Proof.Machine

open Sys2Proof

/-! ### What each word computes, from its modifier and its sources x, y, z -/

/-- IADD (R154). -/
def iaddE (m : BitVec 11) (x y _z : Word) : Word :=
  narrow (m.getLsbD 1) (m.getLsbD 0) (patInt (m.getLsbD 0) x + patInt (m.getLsbD 0) y)
/-- ISUB (R154). -/
def isubE (m : BitVec 11) (x y _z : Word) : Word :=
  narrow (m.getLsbD 1) (m.getLsbD 0) (patInt (m.getLsbD 0) x - patInt (m.getLsbD 0) y)
/-- IMUL (R154). -/
def imulE (x y _z : Word) : Word := x * y
/-- IMULH: the high half of the exact product (R154). -/
def imulhE (m : BitVec 11) (x y _z : Word) : Word :=
  BitVec.ofInt 32 ((patInt (m.getLsbD 0) x * patInt (m.getLsbD 0) y).fdiv (2 ^ 32))
/-- IMAD (R154). -/
def imadE (x y z : Word) : Word := x * y + z
/-- IMIN (R154). -/
def iminE (m : BitVec 11) (x y _z : Word) : Word := if patInt (m.getLsbD 0) x ≤ patInt (m.getLsbD 0) y then x else y
/-- IMAX (R154). -/
def imaxE (m : BitVec 11) (x y _z : Word) : Word := if patInt (m.getLsbD 0) x ≥ patInt (m.getLsbD 0) y then x else y
/-- IABS (R154). -/
def iabsE (m : BitVec 11) (x _y _z : Word) : Word :=
  let e : Nat := x.toInt.natAbs
  if m.getLsbD 1 && e == 2 ^ 31 then 0x7FFFFFFF else BitVec.ofNat 32 e
/-- AND (R155). -/
def andE (x y _z : Word) : Word := x &&& y
/-- OR (R155). -/
def orE (x y _z : Word) : Word := x ||| y
/-- XOR (R155). -/
def xorE (x y _z : Word) : Word := x ^^^ y
/-- NOT (R155). -/
def notE (x _y _z : Word) : Word := ~~~x
/-- SHL (R155). -/
def shlE (x y _z : Word) : Word := if y.toNat ≥ 32 then 0 else x <<< y.toNat
/-- SHR (R155). -/
def shrE (x y _z : Word) : Word := if y.toNat ≥ 32 then 0 else x >>> y.toNat
/-- SAR (R155). -/
def sarE (x y _z : Word) : Word := x.sshiftRight (min y.toNat 31)
/-- ROTL (R155). -/
def rotlE (x y _z : Word) : Word := x.rotateLeft (y.toNat % 32)
/-- POPC (R155). -/
def popcE (x _y _z : Word) : Word := BitVec.ofNat 32 ((List.range 32).filter x.getLsbD).length
/-- CLZ (R155). -/
def clzE (x _y _z : Word) : Word := BitVec.ofNat 32 ((leastBelow 32 fun i => x.getLsbD (31 - i)).getD 32)
/-- BREV (R155). -/
def brevE (x _y _z : Word) : Word := maskOf ((List.range 32).filter fun i => x.getLsbD (31 - i))
/-- The position of a bit field (R156). -/
def fieldPos (y : Word) : Nat := y.toNat % 256
/-- The width of a bit field as encoded (R156). -/
def fieldLen (y : Word) : Nat := y.toNat / 256 % 256
/-- BFX (R156). -/
def bfxE (m : BitVec 11) (x y _z : Word) : Word :=
  let pos := fieldPos y
  let len := fieldLen y
  if pos ≥ 32 ∨ len = 0 then 0
  else
    let w := min len (32 - pos)
    let f := x.toNat / 2 ^ pos % 2 ^ w
    if m.getLsbD 0 then BitVec.ofNat 32 f else ((BitVec.ofNat w f).signExtend 32)
/-- BFI (R156). -/
def bfiE (x y z : Word) : Word :=
  let pos := fieldPos y
  let len := fieldLen y
  if pos ≥ 32 ∨ len = 0 then z
  else
    let w := min len (32 - pos)
    let m : Word := BitVec.ofNat 32 ((2 ^ w - 1) * 2 ^ pos)
    (z &&& ~~~m) ||| ((x <<< pos) &&& m)
/-- LEA (R156). -/
def leaE (m : BitVec 11) (x y _z : Word) : Word := x + (y <<< (m &&& 7#11).toNat)
/-- IDOT4 (R160). -/
def idot4E (m : BitVec 11) (x y z : Word) : Word :=
  let byte := fun (v : Word) (un : Bool) (i : Nat) =>
    let b := (v >>> (8 * i)).setWidth 8
    if un then (b.toNat : Int) else b.toInt
  let e := (List.range 4).foldl (fun acc i => acc + byte x (m.getLsbD 0) i * byte y (m.getLsbD 1) i) z.toInt
  narrow (m.getLsbD 2) false e

/-! ### Running an integer word -/

/-- An F-form word (R152). -/
def State.intF (s : State) (i : Instr) (w : FWord) (lat : Nat) (f : Word → Word → Word → Word) : State :=
  s.alu i.scalarUnit w.d (.reg w.a) (.reg w.b) (.reg w.c) lat f
/-- An I-form word: the immediate in place of b (R36, R152). -/
def State.intI (s : State) (i : Instr) (w : IWord) (lat : Nat) (f : Word → Word → Word → Word) : State :=
  s.alu i.scalarUnit w.d (.reg w.a) (.imm w.imm) (.reg .z) lat f
/-- A binary pair half: its destination is its first source (R38). -/
def State.intP (s : State) (i : Instr) (h : PHalf) (lat : Nat) (f : Word → Word → Word → Word) : State :=
  s.alu i.scalarUnit h.d (.reg h.d) (.reg h.s) (.reg .z) lat f
/-- A unary pair half (R38). -/
def State.intU (s : State) (i : Instr) (h : PHalf) (lat : Nat) (f : Word → Word → Word → Word) : State :=
  s.alu i.scalarUnit h.d (.reg h.s) (.reg .z) (.reg .z) lat f

/-- A predicate written beside a word's result (R98, R134): in the issuing thread with latency 2 and its hold, or, from
the scalar unit, in every issuing thread of the warp with latency 1. -/
def State.aluPd (s : State) (su : Bool) (pd : Nat) (f : Nat → Nat → Bool) : State :=
  if pd = 0 then s
  else if su then s.warps.foldl (fun s w => s.writePdWarp w pd 1 (f w (s.lowest w))) s
  else (s.iss.grp.foldl (fun s p => s.writePd p.1 p.2 pd 2 (f p.1 p.2)) s).holdFor 2

/-- ISET (R157). -/
def State.iset (s : State) (w : FWord) : State :=
  let un := w.mod.getLsbD 3
  let cond := (w.mod &&& 7#11).toNat
  let su := (Instr.iset w).scalarUnit
  let t := s.alu su w.d (.reg w.a) (.reg w.b) (.reg .z) 2 fun x y _ => isetVal (relation un cond x y)
  t.aluPd su (w.mod >>> 8).toNat fun v l => relation un cond (s.val v l (.reg w.a)) (s.val v l (.reg w.b))

/-- SEL in one lane (R157). -/
def State.sel (s : State) (g : BitVec 3) (gn : Bool) (x y : Opd) (v l : Nat) : Word :=
  if s.guard v l g gn then s.val v l x else s.val v l y

/-- SEL (R157). -/
def State.sels (s : State) (su : Bool) (d : Reg) (g : BitVec 3) (gn : Bool) (x y : Opd) : State :=
  if su then s.perWarp d 1 fun v => (s.sel g gn x y v (s.lowest v)).setWidth 64
  else s.perLane d 2 fun v l => s.sel g gn x y v l

/-- IADDX (R159). -/
def State.iaddx (s : State) (w : FWord) : State :=
  let sub := w.mod.getLsbD 6
  let co := ((w.mod >>> 3) &&& 7#11).toNat
  let ci := (w.mod &&& 7#11).toNat
  let su := (Instr.iaddx w).scalarUnit
  let x := fun v l => s.val v l (.reg w.a)
  let y := fun v l => s.val v l (.reg w.b)
  let sum := fun v l => BitVec.ofNat 32 (iaddxSum sub (x v l) (y v l) (s.carryIn v l ci sub))
  let t := if su then s.perWarp w.d 1 fun v => (sum v (s.lowest v)).setWidth 64 else s.perLane w.d 2 sum
  t.aluPd su co fun v l => iaddxCarry sub (x v l) (y v l) (s.carryIn v l ci sub)

/-! ### The words -/

/-- IADD (R154). -/
def execIadd (w : FWord) (s : State) : Out := .next (s.checkIssue.intF (.iadd w) w 2 (iaddE w.mod))
/-- IADD with an immediate (R154). -/
def execIaddI (w : IWord) (s : State) : Out := .next (s.checkIssue.intI (.iaddI w) w 2 (iaddE 0))
/-- IADD as a pair half (R154, R38). -/
def execIaddPair (h : PHalf) (s : State) : Out := .next (s.checkIssue.intP (.iaddPair h) h 2 (iaddE (h.pmod.setWidth 11)))
/-- ISUB (R154). -/
def execIsub (w : FWord) (s : State) : Out := .next (s.checkIssue.intF (.isub w) w 2 (isubE w.mod))
/-- ISUB with an immediate (R154). -/
def execIsubI (w : IWord) (s : State) : Out := .next (s.checkIssue.intI (.isubI w) w 2 (isubE 0))
/-- ISUB as a pair half (R154, R38). -/
def execIsubPair (h : PHalf) (s : State) : Out := .next (s.checkIssue.intP (.isubPair h) h 2 (isubE (h.pmod.setWidth 11)))
/-- IMUL (R154). -/
def execImul (w : FWord) (s : State) : Out := .next (s.checkIssue.intF (.imul w) w 4 imulE)
/-- IMUL with an immediate (R154). -/
def execImulI (w : IWord) (s : State) : Out := .next (s.checkIssue.intI (.imulI w) w 4 imulE)
/-- IMUL as a pair half (R154, R38). -/
def execImulPair (h : PHalf) (s : State) : Out := .next (s.checkIssue.intP (.imulPair h) h 4 imulE)
/-- IMULH (R154). -/
def execImulh (w : FWord) (s : State) : Out := .next (s.checkIssue.intF (.imulh w) w 4 (imulhE w.mod))
/-- IMULH with an immediate (R154). -/
def execImulhI (w : IWord) (s : State) : Out := .next (s.checkIssue.intI (.imulhI w) w 4 (imulhE 0))
/-- IMAD (R154). -/
def execImad (w : FWord) (s : State) : Out := .next (s.checkIssue.intF (.imad w) w 4 imadE)
/-- IMIN (R154). -/
def execImin (w : FWord) (s : State) : Out := .next (s.checkIssue.intF (.imin w) w 2 (iminE w.mod))
/-- IMIN with an immediate (R154). -/
def execIminI (w : IWord) (s : State) : Out := .next (s.checkIssue.intI (.iminI w) w 2 (iminE 0))
/-- IMIN as a pair half (R154, R38). -/
def execIminPair (h : PHalf) (s : State) : Out := .next (s.checkIssue.intP (.iminPair h) h 2 (iminE (h.pmod.setWidth 11)))
/-- IMAX (R154). -/
def execImax (w : FWord) (s : State) : Out := .next (s.checkIssue.intF (.imax w) w 2 (imaxE w.mod))
/-- IMAX with an immediate (R154). -/
def execImaxI (w : IWord) (s : State) : Out := .next (s.checkIssue.intI (.imaxI w) w 2 (imaxE 0))
/-- IMAX as a pair half (R154, R38). -/
def execImaxPair (h : PHalf) (s : State) : Out := .next (s.checkIssue.intP (.imaxPair h) h 2 (imaxE (h.pmod.setWidth 11)))
/-- IABS (R154). -/
def execIabs (w : FWord) (s : State) : Out := .next (s.checkIssue.intF (.iabs w) w 2 (iabsE w.mod))
/-- IABS as a pair half (R154, R38). -/
def execIabsPair (h : PHalf) (s : State) : Out := .next (s.checkIssue.intU (.iabsPair h) h 2 (iabsE (h.pmod.setWidth 11)))
/-- AND (R155). -/
def execAnd (w : FWord) (s : State) : Out := .next (s.checkIssue.intF (.and w) w 2 andE)
/-- AND with an immediate (R155). -/
def execAndI (w : IWord) (s : State) : Out := .next (s.checkIssue.intI (.andI w) w 2 andE)
/-- AND as a pair half (R155, R38). -/
def execAndPair (h : PHalf) (s : State) : Out := .next (s.checkIssue.intP (.andPair h) h 2 andE)
/-- OR (R155). -/
def execOr (w : FWord) (s : State) : Out := .next (s.checkIssue.intF (.or w) w 2 orE)
/-- OR with an immediate (R155). -/
def execOrI (w : IWord) (s : State) : Out := .next (s.checkIssue.intI (.orI w) w 2 orE)
/-- OR as a pair half (R155, R38). -/
def execOrPair (h : PHalf) (s : State) : Out := .next (s.checkIssue.intP (.orPair h) h 2 orE)
/-- XOR (R155). -/
def execXor (w : FWord) (s : State) : Out := .next (s.checkIssue.intF (.xor w) w 2 xorE)
/-- XOR with an immediate (R155). -/
def execXorI (w : IWord) (s : State) : Out := .next (s.checkIssue.intI (.xorI w) w 2 xorE)
/-- XOR as a pair half (R155, R38). -/
def execXorPair (h : PHalf) (s : State) : Out := .next (s.checkIssue.intP (.xorPair h) h 2 xorE)
/-- NOT (R155). -/
def execNot (w : FWord) (s : State) : Out := .next (s.checkIssue.intF (.not w) w 2 notE)
/-- NOT as a pair half (R155, R38). -/
def execNotPair (h : PHalf) (s : State) : Out := .next (s.checkIssue.intU (.notPair h) h 2 notE)
/-- SHL (R155). -/
def execShl (w : FWord) (s : State) : Out := .next (s.checkIssue.intF (.shl w) w 2 shlE)
/-- SHL with an immediate (R155). -/
def execShlI (w : IWord) (s : State) : Out := .next (s.checkIssue.intI (.shlI w) w 2 shlE)
/-- SHL as a pair half (R155, R38). -/
def execShlPair (h : PHalf) (s : State) : Out := .next (s.checkIssue.intP (.shlPair h) h 2 shlE)
/-- SHR (R155). -/
def execShr (w : FWord) (s : State) : Out := .next (s.checkIssue.intF (.shr w) w 2 shrE)
/-- SHR with an immediate (R155). -/
def execShrI (w : IWord) (s : State) : Out := .next (s.checkIssue.intI (.shrI w) w 2 shrE)
/-- SHR as a pair half (R155, R38). -/
def execShrPair (h : PHalf) (s : State) : Out := .next (s.checkIssue.intP (.shrPair h) h 2 shrE)
/-- SAR (R155). -/
def execSar (w : FWord) (s : State) : Out := .next (s.checkIssue.intF (.sar w) w 2 sarE)
/-- SAR with an immediate (R155). -/
def execSarI (w : IWord) (s : State) : Out := .next (s.checkIssue.intI (.sarI w) w 2 sarE)
/-- SAR as a pair half (R155, R38). -/
def execSarPair (h : PHalf) (s : State) : Out := .next (s.checkIssue.intP (.sarPair h) h 2 sarE)
/-- ROTL (R155). -/
def execRotl (w : FWord) (s : State) : Out := .next (s.checkIssue.intF (.rotl w) w 2 rotlE)
/-- ROTL with an immediate (R155). -/
def execRotlI (w : IWord) (s : State) : Out := .next (s.checkIssue.intI (.rotlI w) w 2 rotlE)
/-- POPC (R155). -/
def execPopc (w : FWord) (s : State) : Out := .next (s.checkIssue.intF (.popc w) w 2 popcE)
/-- POPC as a pair half (R155, R38). -/
def execPopcPair (h : PHalf) (s : State) : Out := .next (s.checkIssue.intU (.popcPair h) h 2 popcE)
/-- CLZ (R155). -/
def execClz (w : FWord) (s : State) : Out := .next (s.checkIssue.intF (.clz w) w 2 clzE)
/-- CLZ as a pair half (R155, R38). -/
def execClzPair (h : PHalf) (s : State) : Out := .next (s.checkIssue.intU (.clzPair h) h 2 clzE)
/-- BREV (R155). -/
def execBrev (w : FWord) (s : State) : Out := .next (s.checkIssue.intF (.brev w) w 2 brevE)
/-- BFX (R156). -/
def execBfx (w : FWord) (s : State) : Out := .next (s.checkIssue.intF (.bfx w) w 2 (bfxE w.mod))
/-- BFX with an immediate (R156). -/
def execBfxI (w : IWord) (s : State) : Out := .next (s.checkIssue.intI (.bfxI w) w 2 (bfxE 0))
/-- BFI (R156). -/
def execBfi (w : FWord) (s : State) : Out := .next (s.checkIssue.intF (.bfi w) w 2 bfiE)
/-- LEA (R156). -/
def execLea (w : FWord) (s : State) : Out := .next (s.checkIssue.intF (.lea w) w 2 (leaE w.mod))
/-- ISET (R157). -/
def execIset (w : FWord) (s : State) : Out := .next (s.checkIssue.iset w)
/-- SEL (R157). -/
def execSel (w : FWord) (s : State) : Out :=
  .next (s.checkIssue.sels (Instr.sel w).scalarUnit w.d w.g w.gn (.reg w.a) (.reg w.b))
/-- SEL with an immediate (R157). -/
def execSelI (w : IWord) (s : State) : Out :=
  .next (s.checkIssue.sels (Instr.selI w).scalarUnit w.d w.g w.gn (.reg w.a) (.imm w.imm))
/-- MOVI (R158). -/
def execMovi (w : IWord) (s : State) : Out := .next (s.checkIssue.intI (.movi w) w 2 fun _ y _ => y)
/-- DUP (R158). -/
def execDup (w : FWord) (s : State) : Out := .next (s.checkIssue.intF (.dup w) w 2 fun x _ _ => x)
/-- DUP as a pair half (R158, R38). -/
def execDupPair (h : PHalf) (s : State) : Out := .next (s.checkIssue.intU (.dupPair h) h 2 fun x _ _ => x)
/-- IADDX (R159). -/
def execIaddx (w : FWord) (s : State) : Out := .next (s.checkIssue.iaddx w)
/-- IDOT4 (R160). -/
def execIdot4 (w : FWord) (s : State) : Out := .next (s.checkIssue.intF (.idot4 w) w 4 (idot4E w.mod))

end Sys2Proof.Machine
end

