-- ==== Sys2Proof/Machine/Float.lean ====
section
/-! DEFINITION. Sys2Proof/Machine/Float.lean: the floating-point and conversion words (R177–R189). -/

namespace Sys2Proof.Machine

open Sys2Proof

/-! ### What each word computes, from its modifier and its sources x, y, z -/

/-- The rounding mode in mod[2:0] (R179). -/
def rnd3 (m : BitVec 11) : Mode := modeOf (m &&& 7#11).toNat 0

/-- FADD (R181). -/
def faddE (m : BitVec 11) (x y _z : Word) : Word := BitVec.ofNat 32 (f32.addE (rnd3 m) x.toNat y.toNat)
/-- FSUB (R181). -/
def fsubE (m : BitVec 11) (x y _z : Word) : Word := BitVec.ofNat 32 (f32.subE (rnd3 m) x.toNat y.toNat)
/-- FMUL (R181). -/
def fmulE (m : BitVec 11) (x y _z : Word) : Word := BitVec.ofNat 32 (f32.mulE (rnd3 m) x.toNat y.toNat)
/-- FFMA (R181). -/
def ffmaE (m : BitVec 11) (x y z : Word) : Word := BitVec.ofNat 32 (f32.fmaE (rnd3 m) x.toNat y.toNat z.toNat)
/-- The half format in mod[3] (R179). -/
def halfFmt (m : BitVec 11) : Fmt := if m.getLsbD 3 then bf16 else f16
/-- HADD2 (R187). -/
def hadd2E (m : BitVec 11) (x y z : Word) : Word := packed (fun a b _ => (halfFmt m).addE (rnd3 m) a b) x y z
/-- HMUL2 (R187). -/
def hmul2E (m : BitVec 11) (x y z : Word) : Word := packed (fun a b _ => (halfFmt m).mulE (rnd3 m) a b) x y z
/-- HFMA2 (R187). -/
def hfma2E (m : BitVec 11) (x y z : Word) : Word := packed ((halfFmt m).fmaE (rnd3 m)) x y z

/-- The rounding mode of FCVT and CVTEF; r is source b (R166, R184). -/
def cvtMode (w : FWord) (r : Word) : Mode := modeOf w.crnd.toNat r.toNat

/-- FCVT (R184). -/
def fcvtE (w : FWord) (x y z : Word) : Word :=
  let f := w.cfmt.toNat
  let n := fmtBits f
  if w.mod.getLsbD 10 then BitVec.ofNat 32 (f32.convert .rn false (widenCode f (element x n w.cel)))
  else withElement z n w.cel (convertCode f (cvtMode w y) w.cov (f32.val x.toNat))

/-- CVTEF: the narrowed value in its element, and the residual (R185). -/
def cvtefE (w : FWord) (x y : Word) : Word × Word :=
  let f := w.cfmt.toNat
  let n := fmtBits f
  let q := convertCode f (cvtMode w y) w.cov (f32.val x.toNat)
  let v := widenCode f q
  let e := if v.isNan then 0x7FC00000#32
    else BitVec.ofNat 32 (f32.convert .rn false (Fp.add false (f32.val x.toNat) v.neg))
  (withElement 0 n w.cel q, e)

/-- TOPKI: the better key and the other (R189). -/
def topkiE (mn : Bool) (x y : Word) : Word × Word := if topkBetter mn x y then (x, y) else (y, x)

/-! ### Running a floating-point word: each issuing thread in its own lane -/

/-- An F-form word (R177, R180). -/
def State.floatF (s : State) (w : FWord) (lat : Nat) (f : Word → Word → Word → Word) : State :=
  s.perLane w.d lat fun v l => f (s.val v l (.reg w.a)) (s.val v l (.reg w.b)) (s.val v l (.reg w.c))
/-- An I-form word (R36). -/
def State.floatI (s : State) (w : IWord) (lat : Nat) (f : Word → Word → Word → Word) : State :=
  s.perLane w.d lat fun v l => f (s.val v l (.reg w.a)) w.imm 0
/-- A binary pair half (R38). -/
def State.floatP (s : State) (h : PHalf) (lat : Nat) (f : Word → Word → Word → Word) : State :=
  s.perLane h.d lat fun v l => f (s.val v l (.reg h.d)) (s.val v l (.reg h.s)) 0
/-- A unary pair half (R38). -/
def State.floatU (s : State) (h : PHalf) (lat : Nat) (f : Word → Word → Word → Word) : State :=
  s.perLane h.d lat fun v l => f (s.val v l (.reg h.s)) 0 0

/-- FSET, with its predicate and the hold of R98 (R180, R182). -/
def State.fset (s : State) (w : FWord) : State :=
  let pd := (w.mod >>> 8).toNat
  let rel := fun v l => fsetRel (w.mod &&& 7#11).toNat (s.val v l (.reg w.a)) (s.val v l (.reg w.b))
  let t := s.perLane w.d 4 fun v l => isetVal (rel v l)
  if pd = 0 then t
  else (t.iss.grp.foldl (fun t p => t.writePd p.1 p.2 pd 4 (rel p.1 p.2)) t).holdFor 4

/-! ### The words -/

/-- FADD (R181). -/
def execFadd (w : FWord) (s : State) : Out := .next (s.checkIssue.floatF w 4 (faddE w.mod))
/-- FADD with an immediate (R181). -/
def execFaddI (w : IWord) (s : State) : Out := .next (s.checkIssue.floatI w 4 (faddE 0))
/-- FADD as a pair half (R181, R38). -/
def execFaddPair (h : PHalf) (s : State) : Out := .next (s.checkIssue.floatP h 4 (faddE (h.pmod.setWidth 11)))
/-- FSUB (R181). -/
def execFsub (w : FWord) (s : State) : Out := .next (s.checkIssue.floatF w 4 (fsubE w.mod))
/-- FSUB with an immediate (R181). -/
def execFsubI (w : IWord) (s : State) : Out := .next (s.checkIssue.floatI w 4 (fsubE 0))
/-- FSUB as a pair half (R181, R38). -/
def execFsubPair (h : PHalf) (s : State) : Out := .next (s.checkIssue.floatP h 4 (fsubE (h.pmod.setWidth 11)))
/-- FMUL (R181). -/
def execFmul (w : FWord) (s : State) : Out := .next (s.checkIssue.floatF w 4 (fmulE w.mod))
/-- FMUL with an immediate (R181). -/
def execFmulI (w : IWord) (s : State) : Out := .next (s.checkIssue.floatI w 4 (fmulE 0))
/-- FMUL as a pair half (R181, R38). -/
def execFmulPair (h : PHalf) (s : State) : Out := .next (s.checkIssue.floatP h 4 (fmulE (h.pmod.setWidth 11)))
/-- FFMA (R181). -/
def execFfma (w : FWord) (s : State) : Out := .next (s.checkIssue.floatF w 4 (ffmaE w.mod))
/-- FMIN (R181). -/
def execFmin (w : FWord) (s : State) : Out := .next (s.checkIssue.floatF w 4 (fun x y _ => fminmax false (w.mod.getLsbD 0) x y))
/-- FMIN with an immediate (R181). -/
def execFminI (w : IWord) (s : State) : Out := .next (s.checkIssue.floatI w 4 (fun x y _ => fminmax false false x y))
/-- FMIN as a pair half (R181, R38). -/
def execFminPair (h : PHalf) (s : State) : Out := .next (s.checkIssue.floatP h 4 (fun x y _ => fminmax false (h.pmod.getLsbD 0) x y))
/-- FMAX (R181). -/
def execFmax (w : FWord) (s : State) : Out := .next (s.checkIssue.floatF w 4 (fun x y _ => fminmax true (w.mod.getLsbD 0) x y))
/-- FMAX with an immediate (R181). -/
def execFmaxI (w : IWord) (s : State) : Out := .next (s.checkIssue.floatI w 4 (fun x y _ => fminmax true false x y))
/-- FMAX as a pair half (R181, R38). -/
def execFmaxPair (h : PHalf) (s : State) : Out := .next (s.checkIssue.floatP h 4 (fun x y _ => fminmax true (h.pmod.getLsbD 0) x y))
/-- FSET (R182). -/
def execFset (w : FWord) (s : State) : Out := .next (s.checkIssue.fset w)
/-- FRCP (R183). -/
def execFrcp (w : FWord) (s : State) : Out := .next (s.checkIssue.floatF w 12 (fun x _ _ => specialE 0x67 x))
/-- FRSQ (R183). -/
def execFrsq (w : FWord) (s : State) : Out := .next (s.checkIssue.floatF w 12 (fun x _ _ => specialE 0x68 x))
/-- FSQRT (R183). -/
def execFsqrt (w : FWord) (s : State) : Out := .next (s.checkIssue.floatF w 12 (fun x _ _ => specialE 0x69 x))
/-- FEX2 (R183). -/
def execFex2 (w : FWord) (s : State) : Out := .next (s.checkIssue.floatF w 12 (fun x _ _ => specialE 0x6A x))
/-- FLG2 (R183). -/
def execFlg2 (w : FWord) (s : State) : Out := .next (s.checkIssue.floatF w 12 (fun x _ _ => specialE 0x6B x))
/-- FSIN (R183). -/
def execFsin (w : FWord) (s : State) : Out := .next (s.checkIssue.floatF w 12 (fun x _ _ => specialE 0x6C x))
/-- FCOS (R183). -/
def execFcos (w : FWord) (s : State) : Out := .next (s.checkIssue.floatF w 12 (fun x _ _ => specialE 0x6D x))
/-- FTNH (R183). -/
def execFtnh (w : FWord) (s : State) : Out := .next (s.checkIssue.floatF w 12 (fun x _ _ => specialE 0x6E x))
/-- FCVT (R184). -/
def execFcvt (w : FWord) (s : State) : Out := .next (s.checkIssue.floatF w 4 (fcvtE w))
/-- CVTEF (R185). -/
def execCvtef (w : FWord) (s : State) : Out :=
  let s := s.checkIssue
  .next (s.perLane2 w.d w.c 4 fun v l => cvtefE w (s.val v l (.reg w.a)) (s.val v l (.reg w.b)))
/-- HADD2 (R187). -/
def execHadd2 (w : FWord) (s : State) : Out := .next (s.checkIssue.floatF w 4 (hadd2E w.mod))
/-- HADD2 with an immediate (R187). -/
def execHadd2I (w : IWord) (s : State) : Out := .next (s.checkIssue.floatI w 4 (hadd2E 0))
/-- HADD2 as a pair half (R187, R38). -/
def execHadd2Pair (h : PHalf) (s : State) : Out := .next (s.checkIssue.floatP h 4 (hadd2E (h.pmod.setWidth 11)))
/-- HMUL2 (R187). -/
def execHmul2 (w : FWord) (s : State) : Out := .next (s.checkIssue.floatF w 4 (hmul2E w.mod))
/-- HMUL2 with an immediate (R187). -/
def execHmul2I (w : IWord) (s : State) : Out := .next (s.checkIssue.floatI w 4 (hmul2E 0))
/-- HMUL2 as a pair half (R187, R38). -/
def execHmul2Pair (h : PHalf) (s : State) : Out := .next (s.checkIssue.floatP h 4 (hmul2E (h.pmod.setWidth 11)))
/-- HFMA2 (R187). -/
def execHfma2 (w : FWord) (s : State) : Out := .next (s.checkIssue.floatF w 4 (hfma2E w.mod))
/-- FDOT8 (R188). -/
def execFdot8 (w : FWord) (s : State) : Out := .next (s.checkIssue.floatF w 4 (fun x y z => fdot8E (w.mod >>> 7).toNat ((w.mod >>> 3) &&& 0xF#11).toNat (rnd3 w.mod) x y z))
/-- TOPKI (R189). -/
def execTopki (w : FWord) (s : State) : Out :=
  let s := s.checkIssue
  .next (s.perLane2 w.d w.c 6 fun v l => topkiE (w.mod.getLsbD 0) (s.val v l (.reg w.a)) (s.val v l (.reg w.b)))
/-- FRND (R181). -/
def execFrnd (w : FWord) (s : State) : Out := .next (s.checkIssue.floatF w 4 (fun x _ _ => frndE (rnd3 w.mod) x))
/-- FRND as a pair half (R181, R38). -/
def execFrndPair (h : PHalf) (s : State) : Out := .next (s.checkIssue.floatU h 4 (fun x _ _ => frndE (rnd3 (h.pmod.setWidth 11)) x))
/-- F2I (R186). -/
def execF2i (w : FWord) (s : State) : Out := .next (s.checkIssue.floatF w 4 (fun x _ _ => f2iE ((w.mod >>> 3) &&& 0xF#11).toNat (rnd3 w.mod) x))
/-- I2F (R186). -/
def execI2f (w : FWord) (s : State) : Out := .next (s.checkIssue.floatF w 4 (fun x _ _ => i2fE ((w.mod >>> 3) &&& 0xF#11).toNat (rnd3 w.mod) x))

end Sys2Proof.Machine
end

