-- ==== Sys2Proof/Machine/CrossLane.lean ====
section
/-! DEFINITION. Sys2Proof/Machine/CrossLane.lean: the cross-lane words, each for one converged warp (R190–R195). -/

namespace Sys2Proof.Machine

open Sys2Proof

/-- X(j): lane j's value of a source, whether or not a thread stands there (R93, R192; log 124, DESIGN CHOICE). -/
def State.lane (s : State) (w j : Nat) (r : Reg) : Word := (s.snap.read w j r).setWidth 32

/-- The operation of REDW and SCANW (R194). -/
def redOp (op : Nat) (x y : Word) : Word :=
  if op = 0 then x + y
  else if op = 1 then iminE 0 x y 0
  else if op = 2 then imaxE 0 x y 0
  else if op = 3 then iminE 1 x y 0
  else if op = 4 then imaxE 1 x y 0
  else if op = 5 then x &&& y
  else if op = 6 then x ||| y
  else if op = 7 then x ^^^ y
  else if op = 8 then faddE 0 x y 0
  else if op = 9 then fminmax false false x y
  else fminmax true false x y

/-- Its identity (R194). -/
def redId (op : Nat) : Word :=
  if op = 1 then 0x7FFFFFFF else if op = 2 then 0x80000000 else if op = 3 then 0xFFFFFFFF else if op = 5 then 0xFFFFFFFF
  else if op = 8 then 0x80000000 else if op = 9 then 0x7F800000 else if op = 10 then 0xFF800000 else 0

/-- Values combined in order; the identity for none (R194). -/
def reduce (op : Nat) (xs : List Word) : Word :=
  match xs with
  | [] => redId op
  | x :: r => r.foldl (redOp op) x

/-- A result in each issuing lane, from that lane's own function (R190). -/
def State.crossLane (s : State) (d : Reg) (f : Nat → Nat → Word) : State := s.perLane d 6 f

/-- A result of the whole warp: in every issuing lane, or in a scalar register with the hold of R98 (R190). -/
def State.crossWarp (s : State) (d : Reg) (lanes : Nat → Nat → Word) (scalar : Nat → Word) : State :=
  if d.isScalar then (s.perWarp d 6 fun w => (scalar w).setWidth 64).holdFor 6 else s.perLane d 6 lanes

/-- A predicate in every issuing thread, with the hold of R98 (R190, R193). -/
def State.crossPd (s : State) (pd : Nat) (t : Nat → Bool) : State :=
  if pd = 0 then s else (s.warps.foldl (fun s w => s.writePdWarp w pd 6 (t w)) s).holdFor 6

/-- VOTE's mask of one warp (R193). -/
def State.voteMask (s : State) (x : FWord) (w : Nat) : Word :=
  let ps := ((x.mod >>> 4) &&& 7#11).toNat
  maskOf ((s.lanesOf w).filter fun j =>
    if ps = 0 then s.lane w j x.a != 0 else (s.snap.thread w j).p.getLsbD (ps - 1))

/-- VOTE's truth value (R193). -/
def State.voteTrue (s : State) (x : FWord) (w : Nat) : Bool :=
  let m := s.voteMask x w
  let all := maskOf (s.lanesOf w)
  let op := (x.mod &&& 3#11).toNat
  if op = 0 then m == all else if op = 2 then m == 0 || m == all else m != 0

/-- VOTE's result (R193). -/
def State.voteVal (s : State) (x : FWord) (w : Nat) : Word :=
  if (x.mod &&& 3#11) = 3 then s.voteMask x w else isetVal (s.voteTrue x w)

/-- MATCH.any's mask for a lane (R193). -/
def State.matchAny (s : State) (a : Reg) (w l : Nat) : Word :=
  maskOf ((s.lanesOf w).filter fun j => s.lane w j a == s.lane w l a)

/-- Do all lanes hold one pattern (R193)? -/
def State.matchAll (s : State) (a : Reg) (w : Nat) : Bool :=
  (s.lanesOf w).all fun j => s.lane w j a == s.lane w (s.lowest w) a

/-! ### The words -/

/-- QSWP (R192). -/
def execQswp (w : FWord) (s : State) : Out :=
  let s := s.checkIssue
  .next (s.crossLane w.d fun v l => s.lane v (l ^^^ ((w.mod &&& 3#11).toNat + 1)) w.a)
/-- QBRD (R192). -/
def execQbrd (w : FWord) (s : State) : Out :=
  let s := s.checkIssue
  .next (s.crossLane w.d fun v l => s.lane v (4 * (l / 4) + (w.mod &&& 3#11).toNat) w.a)
/-- SHFL (R192). -/
def execShfl (w : FWord) (s : State) : Out :=
  let s := s.checkIssue
  .next (s.crossLane w.d fun v l => s.lane v (shflLane w.mod l (s.val v l (.reg w.b))) w.a)
/-- SHFL with an immediate (R192). -/
def execShflI (w : IWord) (s : State) : Out :=
  let s := s.checkIssue
  .next (s.crossLane w.d fun v l => s.lane v (shflLane 0 l w.imm) w.a)
/-- SHFLX (R192). -/
def execShflx (w : FWord) (s : State) : Out :=
  let s := s.checkIssue
  .next (s.crossLane w.d fun v l => s.lane v (shflxLane w.mod l (s.val v l (.reg w.b))) w.a)
/-- SHFLX with an immediate (R192). -/
def execShflxI (w : IWord) (s : State) : Out :=
  let s := s.checkIssue
  .next (s.crossLane w.d fun v l => s.lane v (shflxLane 0 l w.imm) w.a)
/-- VOTE (R193). -/
def execVote (w : FWord) (s : State) : Out :=
  let s := s.checkIssue
  .next ((s.crossWarp w.d (fun v _ => s.voteVal w v) fun v => s.voteVal w v).crossPd (w.mod >>> 8).toNat fun v =>
    s.voteTrue w v)
/-- REDW (R194). -/
def execRedw (w : FWord) (s : State) : Out :=
  let s := s.checkIssue
  let r := fun v => reduce (w.mod &&& 0xF#11).toNat ((s.lanesOf v).map fun j => s.lane v j w.a)
  .next (s.crossWarp w.d (fun v _ => r v) r)
/-- SCANW (R194). -/
def execScanw (w : FWord) (s : State) : Out :=
  let s := s.checkIssue
  let exc := w.mod.getLsbD 4
  .next (s.crossLane w.d fun v l => reduce (w.mod &&& 0xF#11).toNat
    (((s.lanesOf v).filter fun j => decide (j < l) || (!exc && j == l)).map fun j => s.lane v j w.a))
/-- MATCH (R193). -/
def execMatchW (w : FWord) (s : State) : Out :=
  let s := s.checkIssue
  let all := fun v => if s.matchAll w.a v then maskOf (s.lanesOf v) else 0
  .next (if w.mod.getLsbD 0 then
      (s.crossWarp w.d (fun v _ => all v) all).crossPd (w.mod >>> 8).toNat fun v => s.matchAll w.a v
    else s.crossWarp w.d (fun v l => s.matchAny w.a v l) fun v => s.matchAny w.a v (s.lowest v))

end Sys2Proof.Machine
end

