-- ==== Sys2Proof/Machine/MemoryWords.lean ====
section
/-! DEFINITION. Sys2Proof/Machine/MemoryWords.lean: the memory engine: loads, stores, atomics, counters, phases and
maintenance (R197–R220, R327, R328, R353–R355). -/

namespace Sys2Proof.Machine

open Sys2Proof

/-! ### Steps of the ordering machine on bytes (R21–R23) -/

/-- The scope of an LDG or STG, or of a PHASE (R206). -/
def MWord.scope (w : MWord) : Nat := (w.kind &&& 3#4).toNat
/-- The scope, acquire and release of an atomic (R212). -/
def MWord.ascope (w : MWord) : Nat := (w.imm >>> 18).toNat
def MWord.acq (w : MWord) : Bool := w.imm.getLsbD 17
def MWord.rel (w : MWord) : Bool := w.imm.getLsbD 16

/-- The versions a byte holds, to a core: what its path holds and what the truth holds (R328). -/
def State.versions (s : State) (c pa : Nat) : List (Option Nat) :=
  [(s.ms.peek s.dev c 0 pa).node, s.ms.nodeOf (.byte pa)]

/-- A load of a scope: the bytes and the level that served them (R21). -/
def MemSys.load (m : MemSys) (dev c sc : Nat) (pas : List Nat) : MemSys × List VByte × Nat :=
  let m := m.dropBelow c sc pas.contains
  let top := maxBy (fun a => m.lowest dev c 0 a) pas
  let m := pas.foldl (fun m a => if m.lowest dev c 0 a > sc then m.fillTo dev c sc a else m) m
  (m, pas.map (fun a => m.peek dev c 0 a), top)

/-- A store of a scope (R21). -/
def MemSys.store (m : MemSys) (dev c sc : Nat) (pas : List Nat) (bs : List Byte) (n : Option Nat) : MemSys :=
  (m.write dev c 0 pas bs n).moveUp dev c 0 sc pas.contains

/-- An atomic's read-modify-write at a level, its bytes brought there first: the old value and the new memory (R23). -/
def MemSys.rmw (m : MemSys) (dev c sc : Nat) (pas : List Nat) (f : Word → Word) (n : Option Nat) : MemSys × Word :=
  let m := (m.moveUp dev c 0 sc pas.contains).dropBelow c sc pas.contains
  let m := pas.foldl (fun m a => if m.lowest dev c sc a > sc then m.fillTo dev c sc a else m) m
  let old := BitVec.ofNat 32 (ofBytes (pas.map fun a => (m.peek dev c sc a).val))
  (m.write dev c sc pas (toBytes 4 (f old).toNat) n, old)

/-- The least time of a step served at a level, but for the read of a line from HBM (R353). -/
def leastTime (dev c lv pa : Nat) : Nat :=
  if lv = 0 then 16 else if lv = 1 then 48
  else if lv = 2 then (if Config.homeDie (pa / 128) = dieOf c then 110 else 180)
  else if homeOf pa = dev then (if Config.homeDie (pa / 128) = dieOf c then 110 else 180) else 600

/-- The fills an access of scope `sc` served from level `top` takes are charged to the context (R220). -/
def State.chargeFills (s : State) (x sc top : Nat) : State :=
  let s := if sc = 0 && decide (top > 0) then s.charge x 0 128 else s
  if decide (sc ≤ 1) && decide (top > 1) then s.charge x 1 128 else s

/-- The least time of an access served at level `lv`: that of the level, and of the read of the line from HBM (R353). -/
def State.accessTime (s : State) (c lv pa : Nat) : Nat := leastTime s.dev c lv pa + if s.missesSlice lv pa then 160 else 0

/-! ### Atomic operations (R213) -/

/-- The new value of an atomic. -/
def atomicOp (op : Nat) (v y : Word) : Word :=
  if op = 0 then v + y
  else if op = 1 then iminE 0 v y 0
  else if op = 2 then imaxE 0 v y 0
  else if op = 3 then iminE 1 v y 0
  else if op = 4 then imaxE 1 v y 0
  else if op = 5 then v &&& y
  else if op = 6 then v ||| y
  else if op = 7 then v ^^^ y
  else if op = 8 then y
  else faddE 0 v y 0

/-! ### What an operation needs -/

/-- The permissions a global word needs (R202, R217). -/
def needOf (i : Instr) : Need :=
  match i with
  | .stg _ => .store | .amo _ => .atomic | .amos _ => .atomic | .acas _ => .atomic | .cflsh _ => .any
  | _ => .load

/-- The bytes one access touches (R206, R212). -/
def accessBytes (i : Instr) : Nat :=
  match i with
  | .ldg w => w.bytes | .stg w => w.bytes | .amo _ => 4 | .amos _ => 4 | .acas _ => 4
  | _ => 1

/-- The level at which an access starts to read the truth. -/
def scopeOf (i : Instr) : Nat :=
  match i with
  | .ldg w => MWord.scope w | .stg w => MWord.scope w | .amo w => MWord.ascope w | .amos w => MWord.ascope w
  | .acas w => MWord.ascope w
  | _ => 0

/-- Does the word write memory? -/
def writesMem (i : Instr) : Bool :=
  match i with
  | .stg _ => true | .amo _ => true | .amos _ => true | .acas _ => true | .rctr _ => true | .rsnap _ => true
  | _ => false

/-- Does it act on routing counters? -/
def onCounters (i : Instr) : Bool :=
  match i with
  | .rctr _ => true | .rsnap _ => true
  | _ => false

/-- Operations whose accesses need no translation: routing counters, and the task engine's but SPAWN (R216, R291). -/
def untranslatedOp (i : Instr) : Bool :=
  onCounters i || (match i with
    | .tnext _ => true | .ftnew _ => true | .ftful _ => true | .ftget _ => true | .ftwait _ => true | .ftdrop _ => true
    | _ => false)

/-- The bytes of an access that come from the truth: a load's, and an atomic's, whose unpublished bytes below its scope go up to its
level first (R21, R23). -/
def MemSys.readsTruth (m : MemSys) (dev c : Nat) (i : Instr) (pas : List Nat) : List Nat :=
  match needOf i with
  | .load => m.fromTruth dev c (scopeOf i) pas
  | .atomic => (pas.filter fun a => scopeOf i ≥ truthLevel dev a) ++ m.fromTruth dev c (scopeOf i) pas
  | .store => [] | .fetch => [] | .any => []

/-- What an access meets in the home slices and sectors that it reads (R309, R335, R352). -/
def State.sectorBad (s : State) (c : Nat) (i : Instr) (pas : List Nat) : Option Code :=
  if s.ms.homeLost s.dev pas then some .memue else s.ms.sectorFault s.dev (s.ms.readsTruth s.dev c i pas)

/-- Does a store write part of a poisoned sector, where a word's threads write the bytes `all` in one step (R209, R352)? -/
def State.tears (s : State) (i : Instr) (all pas : List Nat) : Bool :=
  !s.ms.sectors.isEmpty && needOf i == .store && pas.any fun a =>
    scopeOf i ≥ truthLevel s.dev a && Tbl.get? s.ms.sectors (a / 64) == some .poisoned &&
    !(List.range 64).all fun k => all.contains (a / 64 * 64 + k)

/-- Translation of one access: its physical addresses, or its fault (R198, R200–R202, R208, R216). A misaligned address
that does not translate either raises ACCESS (log 151, DEDUCED). -/
def State.xlat (s : State) (c x : Nat) (i : Instr) (a : Access) : Except Code (List Nat) :=
  if onCounters i then if a.addr ≤ 63 then .ok [] else .error .bounds
  else
    let n := accessBytes i
    if a.addr % n ≠ 0 then .error .access
    else match s.translate c x a.lv (needOf i) a.addr with
      | .error e => .error e
      | .ok pa =>
        let pas := (List.range n).map (pa + ·)
        match s.sectorBad c i pas with
        | some e => .error e
        | none => .ok pas

/-! ### Sizes (R313, R317, R318, R327) -/

/-- The size S of a block's state (R313). -/
def Block.size (bk : Block) : Nat :=
  4096 + 9216 * bk.lpb.warps + 136 * (bk.lpb.warps * bk.lpb.quota) + bk.lpb.window + 64 * bk.carried.length

/-- The transfer time T within a die, or else (R313). -/
def Block.transfer (bk : Block) (sameDie : Bool) : Nat := 1024 + ceilDiv bk.size (if sameDie then 256 else 128)

/-- A block image in the Trunk (R318). -/
def Block.image (bk : Block) : Nat := ceilDiv bk.size 4096 * 4096

/-- Bytes of a context's Trunk: its header, the save area of each block, the image of each block in it or on its way there
(R318). -/
def State.trunkBytes (s : State) (x : Nat) : Nat :=
  4096 + sumBy (fun (p : Nat × Block) => if p.2.ctx ≠ x then 0 else 65600 + (match p.2.place with
    | .trunk _ _ _ _ _ => p.2.image
    | .core _ => (match p.2.drain with
      | some (.toTrunk _ _) => p.2.image
      | some (.toCore _ _) => 0 | some (.ending _) => 0
      | none => 0)
    | .moving _ _ _ => 0)) s.blocks

/-- Cellar space the Trunks use, in 64 KiB units (R317). -/
def State.trunksUsed (s : State) : Nat := sumBy (fun (p : Nat × Ctx) => ceilDiv (s.trunkBytes p.1) 65536) s.ctxs

/-- Is a provisional version one of a byte, which a home slice stages (R327)? -/
def Staged.isByte (v : Staged) : Bool :=
  match v.loc with
  | .byte _ => true
  | .counter _ _ => false | .future _ => false

/-- The context whose version it is; none for a committed one. -/
def State.stagedBy (s : State) (v : Staged) : Option Nat := v.node.bind fun n => (Tbl.get? s.cp.tasks n).map (·.ctx)

/-- The staged bytes that have spilled into the staging regions, those that came when the home slices were full (R327; log
20). -/
def State.spilled (s : State) : List Staged :=
  let bytes := s.ms.staged.filter (·.isByte)
  bytes.take (bytes.length - Config.stagingStore)

/-- Those of one staging region. -/
def State.spillOf (s : State) (x : Option Nat) : Nat := (s.spilled.filter fun v => s.stagedBy v == x).length

/-- Cellar space in use, in 64 KiB units: each Trunk and each staging region has its own (R317). -/
def State.cellarUsed (s : State) : Nat :=
  s.trunksUsed + sumBy (fun x => ceilDiv (s.spillOf x) 65536) (s.spilled.map s.stagedBy).dedup

/-- Free Cellar space, in 64 KiB units (R334). -/
def State.cellarFree (s : State) : Nat := s.mp.cellarGiB * 16384 - s.cellarUsed

/-! ### Staging space (R317, R331) -/

/-- Does a node of the context wait only on a scan (R329, R331)? -/
def State.scanOnly (s : State) (x : Nat) : Bool :=
  s.cp.tasks.any fun p => p.2.ctx == x && p.2.node && !p.2.committed && p.2.st == .done &&
    p.2.inherits.all fun n => match Tbl.get? s.cp.tasks n with
      | some k => k.committed
      | none => true

/-- The provisional bytes that stand unpublished in views and will be staged as versions of their own: context and location (R21,
R327). -/
def State.unstaged (s : State) : List (Nat × Nat × Nat) :=
  let of := fun (v : Tbl VByte) => v.filterMap fun p => match p.2.node with
    | some n => if p.2.unpub && s.ms.nodeOf (.byte p.1) != some n then
        (Tbl.get? s.cp.tasks n).map fun k => (k.ctx, n, p.1) else none
    | none => none
  ((s.ms.v.flatMap fun p => of p.2) ++ (s.ms.g.flatMap fun p => of p.2) ++ of s.ms.d).dedup

/-- How many of some bytes that a node writes on core c's path become versions that nothing has room for yet. -/
def State.newVersions (s : State) (c n : Nat) (pas : List Nat) : Nat :=
  (pas.dedup.filter fun a => s.ms.nodeOf (.byte a) != some n &&
    !([0, 1, 2] : List Nat).any fun lv => (Tbl.get? (s.ms.view c lv) a).any fun b => b.unpub && b.node == some n).length

/-- Is there room for n more provisional bytes of context x: in the home slices, else in its staging region, within its quota
and the free space? Bytes that are on their way to the home slices have their room (R317, R327, R331; log 140, DESIGN CHOICE). -/
def State.stageRoom (s : State) (x n : Nat) : Bool :=
  let due := s.unstaged
  let excess := (s.ms.staged.filter (·.isByte)).length + due.length + n - Config.stagingStore
  let units := fun (y : Nat) => ceilDiv (s.spillOf (some y) +
    min ((due.filter (·.1 == y)).length + if y = x then n else 0) excess) 65536
  let old := s.spillOf none
  let quota := match Tbl.get? s.ctxs x with
    | some k => k.quota
    | none => 0
  decide (excess = 0) || (decide (units x ≤ quota) &&
    decide (s.trunksUsed + ceilDiv old 65536 + sumBy units (Tbl.keys s.ctxs) ≤ s.mp.cellarGiB * 16384))

/-! ### Performing an operation -/

/-- The values of one thread's destination group, register by register (R207); for a scalar result the whole value. -/
def Block.deliver (bk : Block) (o : MemOp) (w l : Nat) (vals : List Word) : Block :=
  let full : DWord := (vals.headD 0).setWidth 64 ||| ((vals.getD 1 0).setWidth 64 <<< 32)
  if scalarResult o.i then
    { bk with pend := bk.pend.map fun p =>
        if p.op == o.id then match p.tgt with
          | .scalar v _ => if v == w then { p with val := full } else p
          | .none => (match p.last with
            | some (v, _, _) => if v == w then { p with val := (vals.headD 0).setWidth 64 } else p
            | none => p)
          | .row _ _ => p | .oreg _ _ _ => p | .pred _ _ _ => p
        else p }
  else
    { bk with pend := (bk.pend.foldl (fun (acc : List Pending × List Word) p =>
        if p.op == o.id && p.forThread w l then
          (acc.1 ++ [{ p with val := (acc.2.headD 0).setWidth 64 }], acc.2.tail)
        else (acc.1 ++ [p], acc.2)) ([], vals)).1 }

/-- 32-bit words of loaded bytes, `.b8` zero-extended (R207). -/
def wordsOf (bs : List Byte) : List Word :=
  (List.range ((bs.length + 3) / 4)).map fun i => BitVec.ofNat 32 (ofBytes ((bs.drop (4 * i)).take 4))

/-- A routing counter (R215). -/
def State.counter (s : State) (x n : Nat) : Word :=
  match Tbl.get? s.ctxs x with
  | some k => Tbl.getD k.ctrs n 0
  | none => 0

/-- A routing counter set by a task, staged for a node under verified commit (R215, R327). -/
def State.setCounter (s : State) (x n : Nat) (node : Option Nat) (v : Word) : State :=
  let m := (s.ms.overlay node (.counter x n) (.num (s.counter x n).toNat)).setMark (.counter x n) none
  { s with ms := m }.modCtx x fun k => { k with ctrs := Tbl.putD k.ctrs n 0 v }

/-- The least time of RCTR and RSNAP: the manual does not say which home slice holds a counter (R353; log 21). -/
def counterTime (c x n : Nat) : Nat := if Config.counterDie x n = dieOf c then 110 else 180

/-- The effect of one access of an operation on memory: the state, the loaded words, and its least time. A store's bytes go up to its
scope with those of the other threads (`State.after`). -/
def State.access1 (s : State) (c x : Nat) (i : Instr) (node : Option Nat) (a : Access) (pas : List Nat) :
    State × List Word × Nat :=
  let dev := s.dev
  let pa := pas.headD 0
  let load := fun (sc : Nat) =>
    let (m, vs, top) := s.ms.load dev c sc pas
    (({ s with ms := m }.chargeFills x sc top, wordsOf (vs.map (·.val)), s.accessTime c top pa) : State × List Word × Nat)
  let atomic := fun (sc : Nat) (f : Word → Word) =>
    let (m, old) := s.ms.rmw dev c sc pas f node
    let top := maxBy (fun a => s.ms.lowest dev c sc a) pas
    (({ s with ms := m.ownedBy c sc x pas }.chargeFills x sc top, [old],
      leastTime dev c sc pa + if s.missesSlice top pa then 160 else 0) : State × List Word × Nat)
  let y := BitVec.ofNat 32 (ofBytes a.data)
  match i with
  | .ldg w => load (MWord.scope w)
  | .stg _ => ({ s with ms := s.ms.store dev c 0 pas a.data node }, [], 0)
  | .amo w => atomic (MWord.ascope w) fun v => atomicOp w.kind.toNat v y
  | .amos w => atomic (MWord.ascope w) fun v => atomicOp w.kind.toNat v y
  | .acas w => atomic (MWord.ascope w) fun v => if v = a.cmp then y else v
  | .pref w =>
    let sc := MWord.scope w
    let top := maxBy (fun i => s.ms.lowest dev c 0 (lineOf pa + i)) (List.range 128)
    ({ s with ms := s.ms.prefetch dev c sc pa }.chargeFills x sc top, [], 0)
  | .rctr _ =>
    let old := s.counter x a.addr
    (s.setCounter x a.addr node (BitVec.ofNat 32 (min (old.toNat + y.toNat) 0xFFFFFFFF)), [old], counterTime c x a.addr)
  | .rsnap _ => (s, [s.counter x a.addr], counterTime c x a.addr)
  | .cflsh w =>
    let sc := MWord.scope w
    let inLine := fun b => lineOf b == lineOf pa
    let m := (s.ms.moveUp dev c 0 sc inLine).dropBelow c sc inLine
    let m := if sc = 3 then { m with icache := Tbl.mapVal m.icache fun t => t.filter fun e => lineOf e.1 != lineOf pa } else m
    ({ s with ms := m }, [], 0)
  | _ => (s, [], 0)

/-- What an operation that writes needs for all of its accesses at once, so that no access of it moves what another has written: bytes of
other nodes make way for a store's, and an atomic's bytes go up to its level (R19–R21, R23, R209). -/
def State.makeReady (s : State) (c : Nat) (i : Instr) (node : Option Nat) (pas : List Nat) : State :=
  let sc := scopeOf i
  match needOf i with
  | .store => { s with ms := pas.foldl (fun (m : MemSys) a => m.makeWay s.dev c 0 a node) s.ms }
  | .atomic =>
    let up := s.ms.moveUp s.dev c 0 sc pas.contains
    { s with ms := pas.foldl (fun (m : MemSys) a => if sc ≥ truthLevel s.dev a then m else m.makeWay s.dev c sc a node) up }
  | .load => s | .fetch => s | .any => s

/-- The parts of an operation that come before its accesses: a release, and after them: an acquire; RSNAP's clearing
(R23, R216). -/
def State.before (s : State) (c : Nat) (i : Instr) : State :=
  match i with
  | .amo w => if MWord.rel w then { s with ms := s.ms.publish s.dev c (MWord.ascope w) } else s
  | .amos w => if MWord.rel w then { s with ms := s.ms.publish s.dev c (MWord.ascope w) } else s
  | .acas w => if MWord.rel w then { s with ms := s.ms.publish s.dev c (MWord.ascope w) } else s
  | _ => s
/-- What follows the accesses of an operation: the bytes a store has written go up to its scope together (R21, R209). -/
def State.after (s : State) (c x : Nat) (i : Instr) (node : Option Nat) (good : List (Access × List Nat)) : State :=
  match i with
  | .stg w =>
    let pas := good.flatMap (·.2)
    { s with ms := (s.ms.moveUp s.dev c 0 (MWord.scope w) pas.contains).ownedBy c (MWord.scope w) x pas }
  | .amo w => if MWord.acq w then { s with ms := s.ms.refresh c (MWord.ascope w) } else s
  | .acas w => if MWord.acq w then { s with ms := s.ms.refresh c (MWord.ascope w) } else s
  | .rsnap _ => ((good.map (·.1.addr)).dedup).foldl (fun s n => s.setCounter x n node 0) s
  | _ => s

/-- The least hold of a PHASE or CFLSH of a scope (R355): `away`: a byte it publishes is homed on another device. -/
def leastHold (sc : Nat) (away : Bool) : Nat :=
  if sc = 0 then 0 else if sc = 1 then 8 else if sc = 2 then 32 else if away then 600 else 32

/-- The lines the views on a core's path hold (R355). -/
def MemSys.linesHeld (m : MemSys) (c : Nat) : Nat :=
  sumBy (fun lv => (((m.view c lv).map fun x => lineOf x.1).dedup).length) [0, 1, 2]

/-- Does the path below a scope hold an unpublished byte homed elsewhere? -/
def MemSys.away (m : MemSys) (dev c sc : Nat) (p : Nat → Bool) : Bool :=
  (List.range 3).any fun lv => decide (lv < sc) && (unpublished (m.view c lv) p).any fun a => homeOf a != dev

/-- The threads of an operation that are held until it is done are held for a time (R355). -/
def Block.holdOp (bk : Block) (id until_ : Nat) : Block :=
  bk.allThreads fun t => { t with holds := t.holds.map fun h => if h == .scalar id then .until until_ else h }

/-- Threads with a fault found at this translation: warp, lane, code, address. -/
abbrev BadAccess := Access × Code

/-- A memory fault is found for a thread; for one that has exited, in the bundle itself, the access is discarded (R141; log 142, DESIGN
CHOICE). INTEGRITY ends the context (R311, R352). A thread that already has one found keeps
the access held with it, as one does that has another recorded (R106), unless the access is its handler's own (R147, R310). -/
def State.foundFault (s : State) (key w l id : Nat) (lv : Level) (e : Entry) : State :=
  if e.code = .integrity then (match s.block? key with
    | some bk => s.endCtx bk.ctx e
    | none => s)
  else if !(s.block? key).any fun bk => (bk.thread w l).live then s.modBlock key fun bk => bk.dropOp id w l (s.nowOf key)
  else s.modThread key w l fun t =>
    if t.memFault.isSome || (t.recorded.isSome && lv == .user) then t else { t with memFault := some (id, e) }

/-- A memory fault is found for each bad access (R106). -/
def State.recordFaults (s : State) (key id : Nat) (pc : DWord) (bad : List BadAccess) : State :=
  bad.foldl (fun (s : State) (x : BadAccess) =>
    let mask := maskOf ((bad.filter fun y => y.1.w == x.1.w && y.2 == x.2).map fun y => y.1.lane)
    s.foundFault key x.1.w x.1.lane id x.1.lv { code := x.2, fpc := pc, faddr := BitVec.ofNat 64 x.1.addr, fmask := mask }) s

/-- Does an operation wait at its translation for a provisional version, or for room for its own (R328, R331)? -/
def Block.setWaits (bk : Block) (id : Nat) (v : Bool) : Block :=
  { bk with ops := bk.ops.map fun (o : MemOp) => if o.id == id then { o with waits := v } else o }

/-- The effects of nodes under prompt commit that an operation reads, and the marks of its own (R332). -/
def readsMem (i : Instr) : Bool :=
  match i with
  | .ldg _ => true | .amo _ => true | .amos _ => true | .acas _ => true
  | _ => false
def State.effectsRead (s : State) (c x : Nat) (i : Instr) (good : List (Access × List Nat)) : List Word :=
  if onCounters i then good.filterMap fun p => s.ms.markOf (.counter x p.1.addr)
  else if readsMem i then s.effectsAt c (scopeOf i) (good.flatMap (·.2))
  else []
def State.markWritten (s : State) (c x task : Nat) (i : Instr) (good : List (Access × List Nat)) : State :=
  match s.effectOf task with
  | none => s
  | some h =>
    if onCounters i then { s with ms := good.foldl (fun (m : MemSys) p => m.setMark (.counter x p.1.addr) (some h)) s.ms }
    else if writesMem i then { s with ms := s.ms.markEffects c (good.flatMap (·.2)) (some h) }
    else s

/-- The level at which an access acts on a byte (R21, R23, R209). -/
def MemSys.actsAt (m : MemSys) (dev c : Nat) (i : Instr) (pa : Nat) : Nat :=
  match i with
  | .ldg w => m.servedAt dev c (MWord.scope w) pa
  | .stg w => MWord.scope w
  | .amo w => m.lowest dev c (MWord.ascope w) pa | .amos w => m.lowest dev c (MWord.ascope w) pa
  | .acas w => m.lowest dev c (MWord.ascope w) pa
  | .pref _ => maxBy (fun k => m.lowest dev c 0 (lineOf pa + k)) (List.range 128)
  | _ => 0

/-- Each line that an operation needs from a home slice is charged once (R204, R220); `m`: memory before its accesses. -/
def State.chargeLines (s : State) (m : MemSys) (c x : Nat) (i : Instr) (pas : List Nat) : State :=
  ((pas.map lineOf).dedup).foldl (fun (s : State) ln =>
    s.chargeSlice x (maxBy (fun a => m.actsAt s.dev c i a) (pas.filter fun a => lineOf a == ln)) ln) s

/-- An operation of the memory engine passes translation and performs, as one step in ascending lane order (R19, R106,
R209). The time of a walk is added to that of the access (R353); what a walker cannot read ends the context, be it for
a PREF (R352; log 153, DEDUCED). It stays where it is while R328 or R331 makes it wait. -/
def State.performMem (s : State) (key id : Nat) : State :=
  match s.block? key with
  | none => s
  | some bk => match bk.core?, bk.ops.find? (·.id == id) with
    | some c, some o =>
      let x := bk.ctx
      let todo := sortBy (fun (a : Access) => a.lane) o.todo
      match (if onCounters o.i then none else todo.findSome? fun a => (s.walkBad c x a.addr).map fun e => (a, e)) with
      | some (a, e) => s.endCtx x { code := e, fpc := o.pc, faddr := BitVec.ofNat 64 a.addr, fmask := maskOf (todo.map (·.lane)) }
      | none =>
      let walks := o.missed || !onCounters o.i && todo.any fun a => (s.tlbHit c x a.addr).isNone
      let tr := todo.map fun a => (a, s.xlat c x o.i a)
      let s := if onCounters o.i then s else todo.foldl (fun s a => s.cached c x a.addr) s
      let found := tr.filterMap fun p => match p.2 with
        | .ok pas => some (p.1, pas)
        | .error _ => none
      let torn := fun (p : Access × List Nat) => s.tears o.i (found.flatMap (·.2)) p.2
      let good := found.filter fun p => !torn p
      let bad := tr.filterMap fun p => match p.2 with
        | .ok pas => if torn (p.1, pas) then some (p.1, .integrity) else none
        | .error e => some (p.1, e)
      let vers := if onCounters o.i then good.map fun p => s.ms.nodeOf (.counter x p.1.addr)
        else good.flatMap fun p => p.2.flatMap fun pa => s.versions c pa
      let node := s.nodeTag bk.task
      let need := match node with
        | some n => if writesMem o.i then s.newVersions c n (good.flatMap (·.2)) else 0
        | none => 0
      let stay := s.modBlock key fun bk => bk.setWaits id true
      if vers.any fun v => !s.mayStep bk.task v then stay
      else if decide (need > 0) && !s.stageRoom x need then
        if s.scanOnly x then stay else { stay with mp := { s.mp with rollDue := (bk.task, true) :: s.mp.rollDue } }
      else
        let s := (s.inheritAll bk.task vers).saw bk.task (s.effectsRead c x o.i good)
        let s := if good.isEmpty then s else (s.before c o.i).makeReady c o.i node (good.flatMap (·.2))
        let away := match o.i with
          | .cflsh w => good.any fun p => s.ms.away s.dev c (MWord.scope w) fun b => lineOf b == lineOf (p.2.headD 0)
          | _ => false
        let m := s.ms
        let (s, time) := good.foldl (fun (acc : State × Nat) p =>
          let (s, vals, t) := acc.1.access1 c x o.i node p.1 p.2
          (s.modBlock key fun bk => bk.deliver o p.1.w p.1.lane vals, max acc.2 t)) (s, 0)
        let s := (if good.isEmpty then s else s.after c x o.i node good).chargeLines m c x o.i (good.flatMap (·.2))
        let s := s.markWritten c x bk.task o.i good
        let kept := match o.i with
          | .pref _ => []
          | _ => bad.map (·.1)
        let now := s.cyc
        let upd := fun (q : MemOp) =>
          if q.id == id then
            { q with todo := [], held := q.held ++ kept, waits := false,
                     arrive := some (max (q.arrive.getD 0) (max ((if walks then now else q.issued) + time) (now + 1))) }
          else q
        let s := s.modBlock key fun bk => { bk with ops := bk.ops.map upd }
        let s := match o.i with
          | .cflsh w => if bad.isEmpty then s.modBlock key fun bk =>
              bk.holdOp id (s.cyc + leastHold (MWord.scope w) away) else s
          | _ => s
        let s := match o.i with
          | .pref _ => s
          | _ => s.recordFaults key id o.pc bad
        s.modBlock key fun bk => bk.retire (s.coreNow c)
    | _, _ => s

/-! ### Issuing an operation of the memory engine -/

/-- May the operation translate: it has accesses to perform, and no thread of it has an earlier access still to translate
(R19, R90). -/
def Block.inLine (bk : Block) (id : Nat) : Bool :=
  match bk.ops.find? (·.id == id) with
  | none => false
  | some o => !o.todo.isEmpty && o.todo.all fun a => !bk.ops.any fun q => decide (q.id < id) && q.todo.any fun b => b.w == a.w && b.lane == a.lane

/-- The results of an operation enter flight for one thread: a register each, the first with the last-result register;
`$z` leaves the last-result register alone to receive the first word (R95, R207). -/
def State.postGroup (s : State) (id w l : Nat) (regs : List Reg) (last : Bool) : State :=
  match regs with
  | [] => if last then s.post s.iss.blk id none .none 0 (s.lastOf w l) else s
  | r :: rest =>
    rest.foldl (fun s q => s.post s.iss.blk id none (s.target w l q) 0 none)
      (s.post s.iss.blk id none (s.target w l r) 0 (if last then s.lastOf w l else none))

/-- The results of a scalar operation of warp w: the register, and the last-result register of each issuing thread, which
is held until it lands (R98, R207, R291). -/
def State.postScalar (s : State) (id w : Nat) (d : Reg) : State :=
  let s := s.post s.iss.blk id none (s.target w (s.lowest w) d) 0 none
  (s.lanesOf w).foldl (fun (s : State) l =>
    (s.post s.iss.blk id none .none 0 (s.lastOf w l)).holdThread w l (.scalar id)) s

/-- Does every access find its translation in the TLB? -/
def State.tlbAll (s : State) (as : List Access) : Bool :=
  as.all fun a => (s.tlbHit s.iss.core s.snap.ctx a.addr).isSome

/-- The operation joins its block's operations. -/
def State.addOp (s : State) (id : Nat) (i : Instr) (as : List Access) : State :=
  s.modBlock s.iss.blk fun bk => { bk with ops := bk.ops ++
    [{ id, i, pc := s.iss.addr, issued := s.cyc, coreAt := s.now, missed := isGlobal i && !untranslatedOp i && !s.tlbAll as, todo := as, held := [],
       parked := [], arrive := none }] }

/-- Does an earlier memory word of a thread of warp w that issues now await its step? The warp's arrivals and its local accesses
then wait for it (R19, R292). -/
def State.warpLags (s : State) (w : Nat) : Bool := (s.lanesOf w).any fun l => s.here.untranslated w l
/-- Is it so for some warp that issues now? -/
def State.lags (s : State) : Bool := s.warps.any s.warpLags

/-- A global operation joins its block's operations: its results enter flight, and the threads that its result holds are
held (R98, R106, R207, R291). -/
def State.joinOp (s : State) (i : Instr) (regs : List Reg) (last : Bool) (as : List Access) : State :=
  let id := s.seq
  let ps := as.map fun a => (a.w, a.lane)
  let s := { s.openAll (warpsOf ps) regs with seq := id + 1 }
  let s := if scalarResult i then (warpsOf ps).foldl (fun s w => s.postScalar id w (regs.headD .z)) s
    else ps.foldl (fun s p => s.postGroup id p.1 p.2 regs last) s
  let s := match i with
    | .cflsh _ => ps.foldl (fun (s : State) (p : Nat × Nat) => s.holdThread p.1 p.2 (.scalar id)) s
    | .phase _ => ps.foldl (fun (s : State) (p : Nat × Nat) => s.holdThread p.1 p.2 (.scalar id)) s
    | .tlbi _ => ps.foldl (fun (s : State) (p : Nat × Nat) => s.holdThread p.1 p.2 (.scalar id)) s
    | .tnext w => (match w.d with
      | .s n => (warpsOf ps).foldl (fun (s : State) v => s.post s.iss.blk id none (.scalar v (n.toNat + 1)) 0 none) s
      | .v _ => s | .o _ => s | .last _ => s | .z => s)
    | .ftwait w =>
      if w.d.isScalar then s else ps.foldl (fun (s : State) (p : Nat × Nat) => s.holdThread p.1 p.2 (.ftwait id)) s
    | _ => s
  s.addOp id i as

/-- May operation `id`, which has just joined, act at once (R204, R291)? -/
def State.atOnce (s : State) (i : Instr) (id : Nat) (as : List Access) : Bool :=
  !s.iss.wait && (untranslatedOp i || s.tlbAll as) && s.here.inLine id

/-- A global operation issues: it acts at once if its translations are in the TLB; otherwise it waits for a TRANSLATION
event (R106, R204). -/
def State.engineOp (s : State) (perform : State → Nat → Nat → State) (i : Instr) (regs : List Reg) (last : Bool)
    (as : List Access) : State :=
  if as.isEmpty then s
  else
    let t := s.joinOp i regs last as
    if t.atOnce i s.seq as then perform t s.iss.blk s.seq else t

/-- A global operation of the memory engine. -/
def State.globalOp (s : State) (i : Instr) (regs : List Reg) (last : Bool) (as : List Access) : State :=
  s.engineOp State.performMem i regs last as

/-- The access of one thread. -/
def State.accessOf (s : State) (w l addr : Nat) (data : List Byte) (cmp : Word) : Access :=
  { w, lane := l, lv := (s.snap.thread w l).level, addr, data, cmp }

/-- The bytes of a data group (R207). -/
def State.dataOf (s : State) (w l : Nat) (r : Reg) (n : Nat) : List Byte :=
  match r with
  | .s _ => toBytes n (s.val64 w l r).toNat
  | .z => List.replicate n 0
  | .v _ => ((r.group ((n + 3) / 4)).flatMap fun q => toBytes 4 (s.val w l (.reg q)).toNat).take n
  | .o _ => ((r.group ((n + 3) / 4)).flatMap fun q => toBytes 4 (s.val w l (.reg q)).toNat).take n
  | .last _ => toBytes n (s.val w l (.reg r)).toNat

/-! ### Local accesses (R97, R208, R209, R214) -/

/-- The most words a bank must supply (R97). -/
def bankLoad (ws : List Nat) : Nat := maxBy (fun b => (ws.filter fun x => x % 32 == b).length) (List.range 32)

/-- The latency of a local load: n words, one counted once however many threads name it (R97). -/
def localLat (offs : List Nat) (n : Nat) : Nat :=
  let ws := (offs.flatMap fun a => (List.range ((n + 3) / 4)).map fun i => a / 4 + i).dedup
  8 + (max 1 (bankLoad ws) - 1)

/-- A group of words written to a thread's registers with a fixed latency; `$z`: the last-result register alone (R207). -/
def State.writeGroup (s : State) (w l : Nat) (regs : List Reg) (lat : Nat) (vals : List Word) : State :=
  match regs with
  | [] => s.lastOnly w l lat (vals.headD 0)
  | r :: rest => (rest.zip vals.tail).foldl (fun s x => s.writeQuiet w l x.1 lat x.2) (s.write w l r lat (vals.headD 0))

/-- The offset of a local access of a thread (R208). -/
def State.localOff (s : State) (x : MWord) (w l : Nat) : Nat :=
  localAddr (s.val w l (.reg x.a)) (s.val w l (.reg x.b)) x.imm
/-- The offset without an index register (R208). -/
def State.plainOff (s : State) (x : MWord) (w l : Nat) : Nat := localAddr (s.val w l (.reg x.a)) 0 x.imm

/-- A local or parameter load (R209): `bytes off` are the bytes there. -/
def State.localLoad (s : State) (x : MWord) (off : Nat → Nat → Nat) (bytes : Nat → List Byte) : State :=
  let n := x.bytes
  if x.d.isScalar then
    (s.warps.foldl (fun s w => s.writeScalar w x.d 8 (BitVec.ofNat 64 (ofBytes (bytes (off w (s.lowest w))))) true) s).holdFor 8
  else
    let lat := localLat (s.iss.grp.map fun p => off p.1 p.2) n
    let regs := x.d.group x.regs
    s.iss.grp.foldl (fun s p => s.writeGroup p.1 p.2 regs lat (wordsOf (bytes (off p.1 p.2)))) (s.openAll s.warps regs)

/-- The threads of a guarded M-form word. -/
def State.mGroup (s : State) (x : MWord) : List (Nat × Nat) := s.guarded x.g x.gn

/-- A local store (R209). -/
def State.localStore (s : State) (x : MWord) : State :=
  (s.mGroup x).foldl (fun s p =>
    let off := s.plainOff x p.1 p.2
    let bs := s.dataOf p.1 p.2 x.b x.bytes
    s.modHere fun bk => bk.winWrite off bs) s

/-- A local atomic (R214). -/
def State.localAtomic (s : State) (x : MWord) : State :=
  let ps := s.mGroup x
  let lat := 8 + (max 1 (bankLoad (ps.map fun p => s.plainOff x p.1 p.2 / 4)) - 1)
  let regs := x.d.group 1
  ps.foldl (fun s p =>
    let off := s.plainOff x p.1 p.2
    let old := BitVec.ofNat 32 (ofBytes (s.here.winRead off 4))
    let new := atomicOp x.kind.toNat old (s.val p.1 p.2 (.reg x.b))
    (s.modHere fun bk => bk.winWrite off (toBytes 4 new.toNat)).writeGroup p.1 p.2 regs lat [old])
    (s.openAll (warpsOf ps) regs)

/-- The access of one thread of a local word that waited: the block after it, and the words loaded (R209, R214). -/
def Block.localAccess (bk : Block) (i : Instr) (a : Access) : Block × List Word :=
  match i with
  | .ldl x => (bk, wordsOf (bk.winRead a.addr x.bytes))
  | .stl _ => (bk.winWrite a.addr a.data, [])
  | .amol x =>
    let old := BitVec.ofNat 32 (ofBytes (bk.winRead a.addr 4))
    (bk.winWrite a.addr (toBytes 4 (atomicOp x.kind.toNat old (BitVec.ofNat 32 (ofBytes a.data))).toNat), [old])
  | _ => (bk, [])

/-- The latency of a local word's results (R97). -/
def localTime (i : Instr) (offs : List Nat) : Nat :=
  match i with
  | .ldl x => localLat offs x.bytes
  | _ => 8 + (max 1 (bankLoad (offs.map (· / 4))) - 1)

/-- Does a local word act on full lines alone (R21, R90)? -/
def needsFull (i : Instr) : Bool :=
  match i with
  | .stl _ => false
  | _ => true

/-- A local word that waited for another word of its bundle takes its one step, once the lines that it reads are full; its results land
after their latency (R19, R21, R97; log 22). -/
def State.performWindow (s : State) (key id : Nat) : State :=
  s.modBlock key fun bk => match bk.ops.find? (·.id == id) with
    | none => bk
    | some o =>
      let todo := sortBy (fun (a : Access) => a.lane) o.todo
      if needsFull o.i && todo.any fun a => bk.lineEmpty a.addr then bk
      else
        let now := s.nowOf key
        let due := some (now + localTime o.i (todo.map (·.addr)))
        let bk := todo.foldl (fun (bk : Block) a => (bk.localAccess o.i a).1.deliver o a.w a.lane (bk.localAccess o.i a).2) bk
        Block.retire { bk with pend := bk.pend.map fun (p : Pending) => if p.op == id && p.due.isNone then { p with due } else p,
                               ops := bk.ops.map fun (q : MemOp) => if q.id == id then { q with todo := [] } else q } now

/-! ### Accesses of the global words -/

/-- The accesses of LDG and PREF (R208); one for a warp when the destination is a scalar register (R207). -/
def State.loadAccesses (s : State) (x : MWord) : List Access :=
  let of := fun (w l : Nat) => s.accessOf w l (globalAddr (s.addr w l x.a) (s.val w l (.reg x.b)) x.imm) [] 0
  if x.d.isScalar then s.warps.map fun w => of w (s.lowest w) else s.iss.grp.map fun p => of p.1 p.2

/-- The accesses of STG (R208, R209). -/
def State.storeAccesses (s : State) (x : MWord) : List Access :=
  (s.mGroup x).map fun p =>
    s.accessOf p.1 p.2 (globalAddr (s.addr p.1 p.2 x.a) 0 x.imm) (s.dataOf p.1 p.2 x.b x.bytes) 0

/-- The accesses of an atomic, with ACAS's compare value (R212, R214). -/
def State.atomicAccesses (s : State) (x : MWord) : List Access :=
  (s.mGroup x).map fun p => s.accessOf p.1 p.2 (atomicAddr (s.addr p.1 p.2 x.a) x.imm)
    (toBytes 4 (s.val p.1 p.2 (.reg x.b)).toNat) (s.val p.1 p.2 (.reg x.d))

/-- The counter number U(a) + SignExtend(imm20) of a thread, as `%faddr` holds it (R216). -/
def State.counterNo (s : State) (x : MWord) (w l : Nat) : DWord :=
  (s.val w l (.reg x.a)).setWidth 64 + x.imm.signExtend 64

/-- The accesses of RCTR and RSNAP: a counter number and an increment (R216). -/
def State.counterAccesses (s : State) (x : MWord) : List Access :=
  s.iss.grp.map fun p =>
    let inc := if x.b == .z then 1 else (s.val p.1 p.2 (.reg x.b)).toNat
    s.accessOf p.1 p.2 (s.counterNo x p.1 p.2).toNat (toBytes 4 inc) 0

/-! ### Phases, fences, maintenance -/

/-- Each issuing thread is held for a number of chip cycles (R355). -/
def State.holdUntil (s : State) (n : Nat) : State :=
  if n = 0 then s else s.eachThread (·.addHold (.until (s.cyc + n)))

/-- PHASE.s on core c's path, and its least hold (R22, R210, R355). -/
def State.phaseStep (s : State) (c sc : Nat) : State × Nat :=
  ({ s with ms := (s.ms.publish s.dev c sc).refresh c sc }, leastHold sc (s.ms.away s.dev c sc fun _ => true))

/-- PHASE.s on the issuing core's path, once (R22, R210, R355). -/
def State.phase (s : State) (sc : Nat) : State :=
  if s.iss.grp.isEmpty then s else (s.phaseStep s.iss.core sc).1.holdUntil (s.phaseStep s.iss.core sc).2

/-- CFLSH `.all` on core c's path, for context x, and its least hold (R217, R220, R355). -/
def State.flushStep (s : State) (c x sc : Nat) : State × Nat :=
  let m := (s.ms.publish s.dev c sc).refresh c sc
  let t := if sc = 3 then s.charge x 3 (128 * Config.dirtyLines s.cyc) else s
  ({ t with ms := if sc = 3 then { m with icache := [] } else m },
    leastHold sc (s.ms.away s.dev c sc fun _ => true) + s.ms.linesHeld c)

/-- CFLSH `.all` (R217, R355). -/
def State.flushAll (s : State) (sc : Nat) : State :=
  if s.iss.grp.isEmpty then s
  else (s.flushStep s.iss.core s.snap.ctx sc).1.holdUntil (s.flushStep s.iss.core s.snap.ctx sc).2

/-- The requests of warp w of the issuing block that FENCEL waits for: all, or those not started (R211). -/
def State.fenceReqs (s : State) (key w : Nat) (c : Nat) (done : Bool) : List Nat :=
  ((s.reqsOf c key).filter fun r => r.w == w && (done || r.state != .started)).map (·.id) ++
  ((s.core c).matQ.filter fun r => r.b == key && r.w == w && (done || r.start.isNone)).map (·.id)

/-- TLBI: entries of a context and page, of a context, or all, on every core (R218). No fault comes of an address
out of range (log 126, DEDUCED). -/
def MemSys.tlbDrop (m : MemSys) (p : TlbEnt → Bool) : MemSys :=
  { m with tlb := Tbl.mapVal m.tlb fun l => l.filter fun e => !p e }
/-- TLBI of a kind by context x: of all, of contexts, or of the pages of addresses, one for each thread (R218). -/
def MemSys.tlbi (m : MemSys) (kd x : Nat) (vals : List Nat) : MemSys :=
  vals.foldl (fun (m : MemSys) v => m.tlbDrop fun e =>
    kd == 2 || (if kd = 1 then e.ctx == v else e.ctx == x && v / 2 ^ e.bits == e.va / 2 ^ e.bits)) m

/-- A word of the memory engine that waited for another word of its bundle takes its one step, with the least hold of its threads from
then on (R19, R355; log 22). -/
def State.performStep (s : State) (key id : Nat) (f : State → Nat → Nat → List Nat → State × Nat) : State :=
  match s.block? key with
  | none => s
  | some bk => match bk.core?, bk.ops.find? (·.id == id) with
    | some c, some o =>
      let (t, n) := f s c bk.ctx (o.todo.map (·.addr))
      t.modBlock key fun bk =>
        let bk := if n = 0 then bk else bk.holdOp id (s.cyc + n)
        Block.retire { bk with ops := bk.ops.map fun (q : MemOp) => if q.id == id then { q with todo := [] } else q } (s.coreNow c)
    | _, _ => s

/-- One access of each issuing thread, with a number. -/
def State.numbered (s : State) (f : Nat → Nat → Nat) : List Access := s.iss.grp.map fun p => s.accessOf p.1 p.2 (f p.1 p.2) [] 0

/-! ### The words -/

/-- LDG (R207–R209). -/
def execLdg (w : MWord) (s : State) : Out :=
  let s := s.checkIssue
  .next (s.globalOp (.ldg w) (if w.d.isScalar then [w.d] else w.d.group w.regs) true (s.loadAccesses w))
/-- STG (R207–R209). -/
def execStg (w : MWord) (s : State) : Out :=
  let s := s.checkIssue
  .next (s.globalOp (.stg w) [] false (s.storeAccesses w))
/-- LDL: at issue, or after the words of its bundle that await a step or have emptied its line (R19, R21, R209). -/
def execLdl (w : MWord) (s : State) : Out :=
  let s := s.checkIssue
  .next (if s.lags || s.iss.grp.any fun p => s.here.lineEmpty (s.localOff w p.1 p.2) then
      s.joinOp (.ldl w) (w.d.group w.regs) true (s.numbered (s.localOff w))
    else s.localLoad w (s.localOff w) fun o => s.here.winRead o w.bytes)
/-- STL: at issue, or after a word of its bundle that awaits a step (R19, R209). -/
def execStl (w : MWord) (s : State) : Out :=
  let s := s.checkIssue
  .next (if s.lags && !(s.mGroup w).isEmpty then s.joinOp (.stl w) [] false
      ((s.mGroup w).map fun p => s.accessOf p.1 p.2 (s.plainOff w p.1 p.2) (s.dataOf p.1 p.2 w.b w.bytes) 0)
    else s.localStore w)
/-- LDK: the block's parameter area (R199, R209). -/
def execLdk (w : MWord) (s : State) : Out :=
  let s := s.checkIssue
  .next (s.localLoad w (s.plainOff w) fun o => (List.range w.bytes).map fun i => s.snap.lpb.bytes.getD (o + i) 0)
/-- PREF (R209). -/
def execPref (w : MWord) (s : State) : Out :=
  let s := s.checkIssue
  .next (s.globalOp (.pref w) [] false (s.loadAccesses w))
/-- PHASE: at issue, or after a word of its bundle that awaits a step (R19, R210). -/
def execPhase (w : MWord) (s : State) : Out :=
  let s := s.checkIssue
  .next (if s.lags then s.joinOp (.phase w) [] false (s.numbered fun _ _ => 0) else s.phase (MWord.scope w))
/-- FENCEL (R211). -/
def execFencel (w : MWord) (s : State) : Out :=
  let s := s.checkIssue
  let done := w.kind.getLsbD 0
  .next (s.iss.grp.foldl (fun s p =>
    let rs := s.fenceReqs s.iss.blk p.1 s.iss.core done
    if rs.isEmpty then s else s.holdThread p.1 p.2 (.fencel done rs)) s)
/-- AMO (R212–R214). -/
def execAmo (w : MWord) (s : State) : Out :=
  let s := s.checkIssue
  .next (s.globalOp (.amo w) (w.d.group 1) true (s.atomicAccesses w))
/-- AMOL: at issue, or after the words of its bundle that await a step or have emptied its line (R19, R21, R214). -/
def execAmol (w : MWord) (s : State) : Out :=
  let s := s.checkIssue
  .next (if (s.lags && !(s.mGroup w).isEmpty) || (s.mGroup w).any fun p => s.here.lineEmpty (s.plainOff w p.1 p.2) then
      s.joinOp (.amol w) (w.d.group 1) true
        ((s.mGroup w).map fun p => s.accessOf p.1 p.2 (s.plainOff w p.1 p.2) (toBytes 4 (s.val p.1 p.2 (.reg w.b)).toNat) 0)
    else s.localAtomic w)
/-- AMOS (R214). -/
def execAmos (w : MWord) (s : State) : Out :=
  let s := s.checkIssue
  .next (s.globalOp (.amos w) [] false (s.atomicAccesses w))
/-- ACAS (R214). -/
def execAcas (w : MWord) (s : State) : Out :=
  let s := s.checkIssue
  .next (s.globalOp (.acas w) (w.d.group 1) true (s.atomicAccesses w))
/-- RCTR (R216). -/
def execRctr (w : MWord) (s : State) : Out :=
  let s := s.checkIssue
  .next (s.globalOp (.rctr w) (w.d.group 1) true (s.counterAccesses w))
/-- RSNAP (R216). -/
def execRsnap (w : MWord) (s : State) : Out :=
  let s := s.checkIssue
  .next (s.globalOp (.rsnap w) (w.d.group 1) true (s.counterAccesses w))
/-- CFLSH: `.all` acts at issue, or after a word of its bundle that awaits a step (R19, R217). -/
def execCflsh (w : MWord) (s : State) : Out :=
  let s := s.checkIssue
  .next (if !w.kind.getLsbD 2 then s.globalOp (.cflsh w) [] false (s.loadAccesses w)
    else if s.lags then s.joinOp (.cflsh w) [] false (s.numbered fun _ _ => 0)
    else s.flushAll (MWord.scope w))
/-- TLBI: at issue, or after a word of its bundle that awaits a step (R19, R218): the number of each thread is its address, or the
context that its warp names. -/
def execTlbi (w : MWord) (s : State) : Out :=
  let s := s.checkIssue
  let kd := MWord.scope w
  let x := s.snap.ctx
  let of := fun (v l : Nat) =>
    if kd = 1 then (if w.b == .z then x else (s.val64 v (s.lowest v) w.b).toNat % 2 ^ 32)
    else globalAddr (s.addr v l w.a) 0 w.imm
  .next (if s.lags then s.joinOp (.tlbi w) [] false (s.numbered of)
    else { s with ms := s.ms.tlbi kd x (s.iss.grp.map fun (p : Nat × Nat) => of p.1 p.2) }.holdUntil 64)

end Sys2Proof.Machine
end

