-- ==== Sys2Proof/Machine/CopyWords.lean ====
section
/-! DEFINITION. Sys2Proof/Machine/CopyWords.lean: the copy engine's words: requests, promises, byte barriers, line marks
(R222–R244). -/

namespace Sys2Proof.Machine

open Sys2Proof

/-! ### Footprints (R26, R225) -/

/-- A run of bytes: its side, its length, and the physical addresses of global bytes once they are known. -/
structure Span where
  side : Side
  n : Nat
  pas : List Nat
deriving DecidableEq, Repr

/-- Bytes that a part reads at its source (R229, R242, R243). -/
def CopyKind.srcLen (k : CopyKind) (n : Nat) : Nat :=
  match k with
  | .plain => n
  | .gather _ _ _ _ _ => n
  | .accum _ _ _ => 4
  | .quant fmt _ => fmtBytes fmt

/-- What a part reads. BCPYA also reads its destination (R242). -/
def Part.readSpans (p : Part) (k : CopyKind) : List Span :=
  let dst : List Span := match k with
    | .accum _ _ _ => [{ side := p.dst, n := p.n, pas := p.dpa }]
    | .plain => [] | .gather _ _ _ _ _ => [] | .quant _ _ => []
  match p.src with
  | some d => { side := d, n := k.srcLen p.n, pas := p.spa } :: dst
  | none => dst

/-- What a part writes. -/
def Part.writeSpan (p : Part) : Span := { side := p.dst, n := p.n, pas := p.dpa }

/-- The read footprint of a request; BCPYG's holds its index list (R241). -/
def CopyReq.reads (r : CopyReq) : List Span :=
  (match r.kind with
   | .gather idx _ _ _ els => [{ side := .win r.b idx, n := 4 * els, pas := [] }]
   | .plain => [] | .accum _ _ _ => [] | .quant _ _ => []) ++ r.parts.flatMap fun p => p.readSpans r.kind

/-- The write footprint of a request. -/
def CopyReq.writes (r : CopyReq) : List Span := r.parts.map Part.writeSpan

/-- Do two runs share a byte? Global runs are compared by physical address where both are known, else within one
context by virtual address. -/
def Span.meets (x y : Span) (sameCtx : Bool) : Bool :=
  let touch := fun (a n b m : Nat) => decide (a < b + m) && decide (b < a + n)
  match x.side, y.side with
  | .win b o, .win d q => b == d && touch o x.n q y.n
  | .glob a, .glob d =>
    if x.pas.isEmpty || y.pas.isEmpty then sameCtx && touch a x.n d y.n else x.pas.any y.pas.contains
  | .win _ _, .glob _ => false
  | .glob _, .win _ _ => false

/-- Two footprints share a byte. -/
def meet (x y : List Span) (sameCtx : Bool) : Bool := x.any fun a => y.any fun b => a.meets b sameCtx

/-- Must a later request wait to start: read-after-write and write-after-write until the earlier is complete,
write-after-read until it has started (R26)? -/
def CopyReq.blocks (earlier later : CopyReq) (sameCtx : Bool) : Bool :=
  meet earlier.writes later.reads sameCtx || meet earlier.writes later.writes sameCtx ||
  (earlier.state != .started && meet earlier.reads later.writes sameCtx)

/-- The number of BCPYG's row at a place of its index list (R241): 0xFFFFFFFF for a row of zeros. -/
def indexAt (bk : Block) (idx row : Nat) : Nat := ofBytes (bk.winRead (idx + 4 * row) 4)

/-- The source of a BCPYG part whose row has number v, in the shape: its base without dimension 1, with that row (R229, R241). -/
def rowAddr (a n v : Nat) (stride : Int) : Nat := (((a : Int) + n * ((v : Int) * stride)) % 2 ^ 64).toNat

/-- Does a run of m bytes at b meet a row that an index below ext may name, of n bytes, at a plus a multiple of the stride (R241)? -/
def rowsMeet (a n ext : Nat) (stride : Int) (b m : Nat) : Bool :=
  let d : Int := n * stride
  let lo : Int := b + 1 - (n + a)
  let hi : Int := b + m - (a + 1)
  if d = 0 then decide (0 < ext) && decide (lo ≤ 0) && decide (0 ≤ hi)
  else
    let (d, lo, hi) := if d < 0 then (-d, -hi, -lo) else (d, lo, hi)
    let v := max 0 ((lo + d - 1) / d)
    decide (v < ext) && decide (v * d ≤ hi)

/-- May a BCPYG that has not started, and reads its index list only then, read global bytes that a later request of its context
writes (R26, R241; log 156, DESIGN CHOICE)? -/
def CopyReq.mayRead (earlier later : CopyReq) : Bool :=
  match earlier.kind with
  | .gather _ stride ext _ _ => earlier.state != .started && earlier.parts.any fun p => !p.dropped && (match p.src with
    | some (.glob a) => later.parts.any fun q => (match q.dst with
      | .glob b => rowsMeet a p.n ext stride b q.n
      | .win _ _ => false)
    | some (.win _ _) => false
    | none => false)
  | .plain => false | .accum _ _ _ => false | .quant _ _ => false

/-- Does a later request conflict with an earlier one (R26)? -/
def CopyReq.conflicts (earlier later : CopyReq) (sameCtx : Bool) : Bool :=
  meet earlier.writes later.reads sameCtx || meet earlier.writes later.writes sameCtx ||
  meet earlier.reads later.writes sameCtx || (sameCtx && earlier.mayRead later)

/-- Has a BCPYG global rows still to name at its Start, which a later request may write under whatever address (R26, R241; log 156,
DESIGN CHOICE)? -/
def CopyReq.unread (earlier later : CopyReq) : Bool :=
  let glob := fun (d : Side) => match d with
    | .glob _ => true
    | .win _ _ => false
  match earlier.kind with
  | .gather _ _ _ _ _ => earlier.state != .started && (earlier.parts.any fun p => !p.dropped && p.src.any glob) &&
      later.parts.any fun p => !p.dropped && glob p.dst
  | .plain => false | .accum _ _ _ => false | .quant _ _ => false

/-- What a part of a request that has not started would touch, as its block's index list and its context's tables stand:
BCPYG's rows, and the physical addresses that translate (R26, R241). -/
def State.located (s : State) (c : Nat) (bk : Block) (r : CopyReq) (p : Part) : Part :=
  let where_ := fun (d : Side) (need : Need) (k : Nat) => match d with
    | .win _ _ => []
    | .glob va => (match s.translateN c bk.ctx r.level need va k with
      | .ok l => l
      | .error _ => [])
  let src := match r.kind, p.src with
    | .gather idx stride ext _ _, some (.glob a) =>
      let v := indexAt bk idx p.row
      if v < ext then some (Side.glob (rowAddr a p.n v stride)) else none
    | _, d => d
  let fresh := match r.kind with
    | .gather _ _ _ _ _ => true
    | .plain => false | .accum _ _ _ => false | .quant _ _ => false
  let spa := if p.spa.isEmpty || fresh then (match src with
      | some d => where_ d .load (r.kind.srcLen p.n)
      | none => []) else p.spa
  { p with src, spa, dpa := if p.dpa.isEmpty then where_ p.dst .any p.n else p.dpa }

/-- A request with its parts located, unless it has started. -/
def State.locate (s : State) (c : Nat) (r : CopyReq) : CopyReq :=
  if r.state == .started then r
  else match s.block? r.b with
    | none => r
    | some bk => { r with parts := r.parts.map fun p => if p.dropped then p else s.located c bk r p }

/-- Are two blocks of one context? -/
def State.sameCtx (s : State) (b d : Nat) : Bool :=
  match s.block? b, s.block? d with
  | some x, some y => x.ctx == y.ctx
  | _, _ => false

/-! ### Promises (R232) -/

/-- The larger of two promises; NONE is the largest. -/
def maxPromise (x y : Option Nat) : Option Nat :=
  match x, y with
  | some a, some b => some (max a b)
  | _, _ => none

/-- The base for bytes at a global address: by the home of its line, taken at issue (R232, R343). -/
def State.homeBase (s : State) (c x : Nat) (lv : Level) (n : Need) (id va : Nat) : Option Nat :=
  match s.translate c x lv n va with
  | .error _ => Config.homelessBase id
  | .ok pa =>
    if homeOf pa ≠ s.dev then Config.fabricBase id
    else if Config.homeDie (pa / 128) = dieOf c then some 160 else some 256

/-- The global bytes' base: the largest, or 24 when there is none (R232). -/
def State.globalBase (s : State) (c x : Nat) (lv : Level) (id : Nat) (vas : List (Need × Nat)) : Option Nat :=
  match vas with
  | [] => some 24
  | _ => vas.foldl (fun acc p => maxPromise acc (s.homeBase c x lv p.1 id p.2)) (some 0)

/-- The base of a transfer to a core: same core, cluster, die, other die (R103, R232). -/
def coreBase (c d : Nat) : Nat :=
  if c = d then 24 else if clusterOf c = clusterOf d then 48 else if dieOf c = dieOf d then 96 else 192

/-- A target's addition to BCPYM's base: none on the issuer's core (R232). -/
def mcastBase (c d : Nat) : Nat := if c = d then 0 else coreBase c d

/-- The promise from its parts: the latest conflicting promise, the base, the bytes (R232). -/
def State.promiseOf (s : State) (c : Nat) (r : CopyReq) (base : Option Nat) (bytes : Nat) : Option Nat :=
  let r := s.locate c r
  let dep := (s.core c).copyQ.foldl (fun acc q =>
    if (s.locate c q).conflicts r (s.sameCtx q.b r.b) then maxPromise acc q.promise else acc) (some s.cyc)
  match dep, base with
  | some p, some k => some (p + k + ceilDiv bytes 64)
  | _, _ => none

/-- Does an earlier request of core c's queue keep a later one from its Start (R26)? -/
def State.stops (s : State) (c : Nat) (earlier later : CopyReq) : Bool :=
  (s.locate c earlier).blocks (s.locate c later) (s.sameCtx earlier.b later.b) || earlier.unread later

/-- A promise as the scalar register shows it (R232). -/
def promiseWord (p : Option Nat) : DWord :=
  match p with
  | some n => BitVec.ofNat 64 n
  | none => 0xFFFFFFFFFFFFFFFF

/-! ### Making a request (R224) -/

/-- The window lines of a request's write footprint are marked empty, in every window (R224). -/
def State.markAll (s : State) (r : CopyReq) : State :=
  r.parts.foldl (fun s p => match p.dst with
    | .win b off => s.modBlock b fun bk => (linesOf off p.n).foldl (fun k ln => k.markLine ln r.id) bk
    | .glob _ => s) s

/-- Has a request global bytes (R223)? BCPYG's are known, and translated, at its Start (R241). -/
def CopyReq.hasGlobal (r : CopyReq) : Bool :=
  r.parts.any fun p => (match p.src with | some (.glob _) => true | some (.win _ _) => false | none => false) ||
    (match p.dst with | .glob _ => true | .win _ _ => false)

/-- The global addresses of a request, with what each needs. -/
def CopyReq.globals (r : CopyReq) : List (Need × Nat) :=
  r.parts.flatMap fun p =>
    (match p.src with | some (.glob a) => [(Need.load, a)] | some (.win _ _) => [] | none => []) ++
    (match p.dst with
     | .glob a => [((match r.kind with
         | .accum _ _ _ => Need.atomic
         | .plain => Need.store | .gather _ _ _ _ _ => Need.store | .quant _ _ => Need.store), a)]
     | .win _ _ => [])

/-- The fresh promise of a replayed request (R231, R232). -/
def State.freshPromise (s : State) (c x : Nat) (r : CopyReq) : State :=
  let at_ := s.locate c r
  let base := (s.globalBase c x r.level r.id at_.globals).map (· + r.plus)
  let dep := ((s.core c).copyQ.takeWhile fun q => q.id != r.id).foldl (fun acc q =>
    if (s.locate c q).conflicts at_ (s.sameCtx q.b r.b) then maxPromise acc q.promise else acc) (some s.cyc)
  let p := match dep, base with
    | some a, some k => some (a + k + ceilDiv r.bytes 64)
    | _, _ => none
  s.modReq c r.id fun q => { q with promise := p, deadline := p, owed := false, late := false }

/-- The fresh promise that a replayed request has to take is taken (R231). -/
def State.payPromise (s : State) (c q : Nat) : State :=
  match (s.core c).copyQ.find? fun r => r.id == q && r.owed with
  | none => s
  | some r => match s.block? r.b with
    | none => s
    | some bk => s.freshPromise c bk.ctx r

/-- Every fresh promise that is due to be taken in core c's queue is taken, before a later request looks at it (R231, R232). -/
def State.payCore (s : State) (c : Nat) : State :=
  ((s.core c).copyQ.filter (·.owed)).foldl (fun (s : State) r => s.payPromise c r.id) s

/-- Does a request copy from window to window (R103)? -/
def CopyReq.local (r : CopyReq) : Bool :=
  r.parts.all fun p => match p.src, p.dst with
    | some (.win _ _), .win _ _ => true
    | _, _ => false

/-- By when a request that waits for no earlier one as it issues is complete, if R103 names it. -/
def State.quickOf (s : State) (c : Nat) (r : CopyReq) (p base : Option Nat) (bytes : Nat) : Option Nat :=
  if r.local && p.isSome && (s.core c).copyQ.all fun e => !s.stops c e r then base.map fun k => s.cyc + k + ceilDiv bytes 64 else none

/-- The request joins the queue, its lines are marked, and its promise goes to d (R222, R224). -/
def State.addReq (s : State) (r : CopyReq) (d : Reg) (base : Option Nat) (bytes : Nat) : State :=
  let c := s.iss.core
  let s := s.payCore c
  let p := s.promiseOf c r base bytes
  let r := { r with promise := p, deadline := p, bytes, quick := s.quickOf c r p base bytes }
  let s := (s.markAll r).modCore c fun k => { k with copyQ := k.copyQ ++ [r] }
  s.writeScalar r.w d 1 (promiseWord p) true

/-- A request of the issuing warp with no parts yet. -/
def State.blankReq (s : State) (w : Nat) (box : Bool) (lt : Bool) (kind : CopyKind) : CopyReq :=
  { id := s.seq, b := s.iss.blk, w, lanes := maskOf (s.lanesOf w), pc := s.iss.addr,
    level := (s.snap.thread w (s.lowest w)).level, issued := s.cyc, box, kind, parts := [], state := .queued,
    promise := none, deadline := none, again := false, plus := 0, bytes := 0, lt, late := false, bar := none, node := s.nodeTag s.snap.task }

/-- One part. -/
def mkPart (lane j : Nat) (src : Option Side) (dst : Side) (n row : Nat) : Part :=
  { lane, j, src, dst, n, spa := [], dpa := [], data := [], done := false, dropped := false, row }

/-- How many bytes lie in runs of bytes, each byte counted once; the runs stand in order of their starts, and no byte
below hi counts. -/
def unionLen : List (Nat × Nat) → Nat → Nat
  | [], _ => 0
  | x :: t, hi => (x.1 + x.2 - max x.1 hi) + unionLen t (max hi (x.1 + x.2))

/-- The destination bytes of one target, a byte that parts share counted once; elements of BCPYA count each (R232, R242).
DEDUCED (log 104). -/
def CopyReq.destBytes (r : CopyReq) : Nat :=
  let once := fun (l : List (Nat × Nat)) => unionLen (sortBy (fun (y : Nat × Nat) => y.1) l) 0
  match r.kind, (r.parts.head?.map fun (p : Part) => p.dst : Option Side) with
  | .accum _ _ _, _ => sumBy (fun (p : Part) => p.n) r.parts
  | _, none => 0
  | _, some (.win b _) => once (r.parts.filterMap fun p => match p.dst with
      | .win d q => if d = b then some (q, p.n) else none
      | .glob _ => none)
  | _, some (.glob _) => once (r.parts.filterMap fun p => match p.dst with
      | .glob a => some (a, p.n)
      | .win _ _ => none)

/-- Does a live lane of warp w fail CPYL's checks, so that the request is made for no lane (R238)? -/
def State.cpylRefused (s : State) (x : MWord) (w : Nat) : Bool :=
  (List.range 32).any fun l => s.snap.isLive w l &&
    (cpylBad s.snap.lpb.window (x.kind >>> 2).toNat (s.val w l (.reg x.b)) (s.plainOff x w l)).isSome

/-- CPYL: a part for each live lane that copies bytes (R238). -/
def State.cpyl (s : State) (x : MWord) (w : Nat) : State :=
  if s.cpylRefused x w then s else
  let dir := (x.kind >>> 2).toNat
  let b := s.iss.blk
  let r := s.blankReq w false (x.kind.getLsbD 1) .plain
  let parts := (s.lanesOf w).filterMap fun l =>
    let y := s.val w l (.reg x.b)
    let n := cpylLen y
    let off := cpylOff y
    let g := globalAddr (s.addr w l x.a) 0 x.imm
    let o := s.plainOff x w l
    if n = 0 then none
    else if dir = 0 then some (mkPart l l (some (.glob g)) (.win b off) n 0)
    else if dir = 1 then some (mkPart l l (some (.win b off)) (.glob g) n 0)
    else some (mkPart l l (some (.win b o)) (.win b off) n 0)
  let r := { r with parts, state := if dir = 2 || parts.isEmpty then .queued else .untranslated }
  let base := if dir = 2 then some 24 else s.globalBase s.iss.core s.snap.ctx r.level r.id r.globals
  { s with seq := s.seq + 1 }.addReq r x.d base r.destBytes

/-- The parts of a box request, in element order (R229, R239–R243); `glob` forms an element's address. -/
def boxParts (op : BoxOp) (x : Box) (sh : Option Shape) (own : Nat) (targets : List Nat) : List Part :=
  let fmt := match sh with
    | some r => r.fmt
    | none => 0
  let z := op.winSize fmt
  let zs := fmtBytes fmt
  let inside := fun (j : Nat) => match sh with
    | none => true
    | some r => (List.range r.dims).all fun k =>
        (op == .gather && k == 1) ||
        (decide (0 ≤ x.ok k + (x.idx j k : Int)) && decide (x.ok k + (x.idx j k : Int) < (r.extents.getD k 0 : Int)))
  let glob := fun (j : Nat) => match sh with
    | none => Side.glob 0
    | some r =>
      let off : Int := (List.range r.dims).foldl (fun t k =>
        if op == .gather && k == 1 then t else t + (x.ok k + (x.idx j k : Int)) * r.strides.getD k 0) 0
      Side.glob (((r.base : Int) + zs * off) % 2 ^ 64).toNat
  let js := List.range x.count
  match op with
  | .ld => js.map fun j => mkPart 0 j (if inside j then some (glob j) else none) (.win own (x.win z j)) z 0
  | .gather => js.map fun j =>
      mkPart 0 j (if inside j then some (glob j) else none) (.win own (x.win z j)) z (x.idx j 1)
  | .st => (js.filter inside).map fun j => mkPart 0 j (some (.win own (x.win z j))) (glob j) z 0
  | .accum => (js.filter inside).map fun j => mkPart 0 j (some (.win own (x.win z j))) (glob j) zs 0
  | .bb => targets.flatMap fun t => js.map fun j =>
      mkPart 0 j (some (.win own (x.aux0 + (x.win z j - x.loff)))) (.win t (x.win z j)) z 0
  | .mcast => targets.flatMap fun t => js.map fun j =>
      mkPart 0 j (if inside j then some (glob j) else none) (.win t (x.win z j)) z 0
  | .quant =>
      (js.map fun j => mkPart 0 j (if inside j then some (glob j) else none) (.win own (x.win 1 j)) 1 0) ++
      (List.range x.scaleCount).map fun k => mkPart 0 (x.count + k) none (.win own (x.aux0 + k)) 1 0

/-- What a box request does with its data (R241–R243); a gather takes dimension 1 of the record as it stands (log 155, DESIGN
CHOICE). -/
def boxKind (op : BoxOp) (x : Box) (sh : Option Shape) (zf : Bool) (out : Nat) : CopyKind :=
  match op, sh with
  | .gather, some r => .gather x.aux0 (r.strides.getD 1 0) (r.extents.getD 1 0) zf (x.ek 1)
  | .accum, some r => .accum x.aux1 x.aux2 r.fmt
  | .quant, some r => .quant r.fmt out
  | _, _ => .plain

/-- What a box request adds to the base of its global bytes (R232). -/
def State.boxPlus (s : State) (op : BoxOp) (targets : List Nat) : Nat :=
  let c := s.iss.core
  let place := fun t => match s.block? t with
    | some bk => bk.core?.getD c
    | none => c
  match op with
  | .mcast => maxBy (fun t => mcastBase c (place t)) targets
  | .accum => 64
  | .quant => 32
  | .ld => 0 | .st => 0 | .gather => 0 | .bb => 0

/-- The base of a box request (R232). -/
def State.boxBase (s : State) (op : BoxOp) (r : CopyReq) (targets : List Nat) : Option Nat :=
  let c := s.iss.core
  let place := fun t => match s.block? t with
    | some bk => bk.core?.getD c
    | none => c
  let g := s.globalBase c s.snap.ctx r.level r.id (s.locate c r).globals
  if op == .bb then some (maxBy (fun t => coreBase c (place t)) targets) else g.map (· + s.boxPlus op targets)

/-- A box request of warp w (R239–R243). -/
def State.boxCopy (s : State) (op : BoxOp) (x : MWord) (lt zf : Bool) (out : Nat) (w : Nat) : State :=
  let bk := s.snap
  let l := s.lowest w
  let box := Box.ofBytes (bk.winRead (s.plainOff x w l) 64)
  let sh := if op == .bb then none else s.cp.shape? bk.ctx (s.val w l (.reg x.b))
  let targets := (box.targets op bk.blk).map fun t => bkey bk.task t
  let r := { s.blankReq w true lt (boxKind op box sh zf out) with
    parts := boxParts op box sh s.iss.blk targets,
    bar := if box.bar = 0xFFFFFFFF then none else some box.bar }
  let r := { r with plus := s.boxPlus op targets, state := if r.hasGlobal then .untranslated else .queued }
  { s with seq := s.seq + 1 }.addReq r x.d (s.boxBase op r targets) r.destBytes

/-- The warp of a converged issue, if a thread is left (R92). -/
def State.conv (s : State) (f : Nat → State) : State :=
  match s.warps with
  | [] => s
  | w :: _ => f w

/-! ### Byte barriers and line marks -/

/-- BBINI's step on the barrier at an offset (R236). -/
def Block.bbini (bk : Block) (x : MWord) (off n : Nat) : Block :=
  let rem := ofBytes (bk.winRead off 8)
  let gen := ofBytes (bk.winRead (off + 12) 4)
  if x.kind.getLsbD 0 then (bk.winWrite off (toBytes 8 ((rem + n) % 2 ^ 64))).winWrite (off + 8) (toBytes 4 n)
  else bk.winWrite off (toBytes 8 n ++ toBytes 4 n ++ toBytes 4 ((gen + 1) % 2 ^ 32))

/-- LNEMP's step on n lines from an offset (R237). -/
def Block.lnemp (bk : Block) (x : MWord) (off n : Nat) : Block :=
  (List.range n).foldl (fun k i =>
    if x.kind.getLsbD 0 then { k with lines := Tbl.erase k.lines (off / 128 + i) } else k.markLine (off / 128 + i) 0) bk

/-- A local access of warp w at an offset, with its number, takes its step at issue, or after the memory word of its bundle that
awaits translation (R19, R222). -/
def State.localStep (s : State) (i : Instr) (w off n : Nat) (f : Block → Block) : State :=
  if s.warpLags w then
    { s with seq := s.seq + 1 }.addOp s.seq i ((s.lanesOf w).map fun l => s.accessOf w l off (toBytes 4 n) 0)
  else s.modHere f

/-- BBINI for one warp (R236). -/
def State.bbini (s : State) (x : MWord) (w : Nat) : State :=
  let off := s.plainOff x w (s.lowest w)
  let n := (s.val w (s.lowest w) (.reg x.b)).toNat
  s.localStep (.bbini x) w off n fun bk => bk.bbini x off n

/-- BBWT for one warp: it passes with d := rem, or holds the warp's threads; it holds them as well while a memory word of its
bundle awaits translation (R19, R236). Neither it nor BBINI waits for the barrier's line to be full (log 164, DEDUCED). -/
def State.bbwt (s : State) (x : MWord) (w : Nat) : State :=
  let off := s.plainOff x w (s.lowest w)
  let rem := s.here.remOf off
  if rem ≤ 0 && !s.warpLags w then s.writeScalar w x.d 1 (BitVec.ofInt 64 rem) true
  else (s.lanesOf w).foldl (fun (s : State) l => s.holdThread w l (.bbwt off x.d s.iss.pos)) s

/-- LNEMP for one warp (R237). -/
def State.lnemp (s : State) (x : MWord) (w : Nat) : State :=
  let l := s.lowest w
  let off := s.plainOff x w l
  let n := if x.b == .z then 1 else (s.val w l (.reg x.b)).toNat
  s.localStep (.lnemp x) w off n fun bk => bk.lnemp x off n

/-! ### The words -/

/-- CPYL (R238). -/
def execCpyl (w : MWord) (s : State) : Out :=
  let s := s.checkIssue
  .next (s.conv fun v => s.cpyl w v)
/-- BCPY (R239). -/
def execBcpy (w : MWord) (s : State) : Out :=
  let s := s.checkIssue
  let op := if (w.kind &&& 3#4) = 0 then BoxOp.ld else if (w.kind &&& 3#4) = 1 then .st else .bb
  .next (s.conv fun v => s.boxCopy op w (w.kind.getLsbD 3) (w.kind.getLsbD 2) 0 v)
/-- BCPYM (R240). -/
def execBcpym (w : MWord) (s : State) : Out :=
  let s := s.checkIssue
  .next (s.conv fun v => s.boxCopy .mcast w (w.kind.getLsbD 3) (w.kind.getLsbD 2) 0 v)
/-- BCPYG (R241). -/
def execBcpyg (w : MWord) (s : State) : Out :=
  let s := s.checkIssue
  .next (s.conv fun v => s.boxCopy .gather w (w.kind.getLsbD 3) (w.kind.getLsbD 2) 0 v)
/-- BCPYA (R242). -/
def execBcpya (w : MWord) (s : State) : Out :=
  let s := s.checkIssue
  .next (s.conv fun v => s.boxCopy .accum w (w.kind.getLsbD 3) (w.kind.getLsbD 2) 0 v)
/-- BCPYQ (R243). -/
def execBcpyq (w : MWord) (s : State) : Out :=
  let s := s.checkIssue
  .next (s.conv fun v => s.boxCopy .quant w (w.kind.getLsbD 3) (w.kind.getLsbD 2) (if w.kind.getLsbD 0 then 3 else 9) v)
/-- BBINI (R236). -/
def execBbini (w : MWord) (s : State) : Out :=
  let s := s.checkIssue
  .next (s.conv fun v => s.bbini w v)
/-- BBWT (R236). -/
def execBbwt (w : MWord) (s : State) : Out :=
  let s := s.checkIssue
  .next (s.conv fun v => s.bbwt w v)
/-- LNEMP (R237). -/
def execLnemp (w : MWord) (s : State) : Out :=
  let s := s.checkIssue
  .next (s.conv fun v => s.lnemp w v)

end Sys2Proof.Machine
end

