-- ==== Sys2Proof/Machine/MatrixWords.lean ====
section
/-! DEFINITION. Sys2Proof/Machine/MatrixWords.lean: the matrix engine's words, and what a started request reads and
computes (R247–R267, R174–R176). -/

namespace Sys2Proof.Machine

open Sys2Proof

/-! ### Tiles -/

/-- An element of a tile (R247). -/
def elem (els : Tbl Word) (i j : Nat) : Word := Tbl.getD els (32 * i + j) 0
/-- The tile of 4,096 bytes, element (i, j) at 128·i + 4·j (R259). -/
def tileOfBytes (bs : List Byte) : Tbl Word :=
  (wordsOf bs).zipIdx.filterMap fun p => if p.1 = 0 then none else some (p.2, p.1)
/-- The bytes of a tile (R259, R260). -/
def tileBytes (els : Tbl Word) : List Byte := (List.range 1024).flatMap fun k => toBytes 4 (Tbl.getD els k 0).toNat
/-- The bytes of a tile as BF16 (R260). -/
def tileHalves (els : Tbl Word) : List Byte :=
  (List.range 1024).flatMap fun k => toBytes 2 (bf16.convert .rn false (f32.val (Tbl.getD els k 0).toNat))

/-! ### What a request is about (R249–R254, R266) -/

/-- Format, depth, offsets and byte select of MMA and MMAU. -/
def mmaKind (w : MWord) (ao bo : Nat) (u : Option (Unfold × Nat × Nat)) : MatKind :=
  .mma (w.kind >>> 1).toNat (!w.kind.getLsbD 0) ao bo (if w.imm.getLsbD 12 then 1 else 0) u

/-- Is a matrix format of 8 bits (R251)? -/
def is8 (fmt : Nat) : Bool := fmt < 4
/-- The K depth (R251). -/
def depthOf (fmt : Nat) (full : Bool) : Nat := if is8 fmt then (if full then 64 else 32) else if full then 32 else 16
/-- The group size (R251). -/
def groupOf (fmt : Nat) : Nat := if is8 fmt then 32 else 16
/-- Bytes of an element. -/
def elemBytes (fmt : Nat) : Nat := if is8 fmt then 1 else 2

/-- The quarters whose lanes a request names. -/
def MatReq.quarters (r : MatReq) : List Nat := (List.range 4).filter fun q => quarterLive r.lanes.getLsbD q

/-- Engine cycles a request holds (R254). -/
def MatReq.occupancy (r : MatReq) : Nat :=
  match r.kind with
  | .mma _ full _ _ _ _ =>
    let live := r.quarters
    let pass := if full then 2 else 1
    pass * (((if live.contains 0 || live.contains 2 then 1 else 0) : Nat) +
      (if live.contains 1 || live.contains 3 then 1 else 0))
  | .accz _ => 1
  | .accld _ _ => 4
  | .accst _ _ _ => 4

/-- Cycles from Start to completion (R255). -/
def MatReq.duration (r : MatReq) : Nat :=
  match r.kind with
  | .mma _ _ _ _ _ _ => 24
  | .accz _ => 4
  | .accld _ _ => 16
  | .accst dst _ _ => if dst = 2 then 20 else 16

/-- An element of the unfolded matrix: none outside it (K remainder), else its window offset or the pad value (R262). -/
inductive Cell where
  | outside
  | at (off x y c : Nat)
  | pad
deriving DecidableEq, Repr

/-- The element at pixel p and K index k (R262). -/
def Unfold.cell (u : Unfold) (p k : Nat) : Cell :=
  let ext := fun i => u.shape.extents.getD i 0
  let c := k % ext 0
  let m := k / ext 0
  if p ≥ u.ow * u.oh ∨ k ≥ ext 0 * u.kw * u.kh then .outside
  else
    let x : Int := ((p % u.ow * u.sw : Nat) : Int) - u.pw + ((m % u.kw * u.dw : Nat) : Int)
    let y : Int := ((p / u.ow * u.sh : Nat) : Int) - u.ph + ((m / u.kw * u.dh : Nat) : Int)
    if 0 ≤ x ∧ x < ext 1 ∧ 0 ≤ y ∧ y < ext 2 then
      let s := fun i => (u.shape.strides.getD i 0).toNat
      .at (u.aoff + fmtBytes u.shape.fmt * (c * s 0 + x.toNat * s 1 + y.toNat * s 2)) x.toNat y.toNat c
    else .pad

/-- The window offset of the scale byte of a cell, when the configuration names a scale shape (R262). -/
def Unfold.scaleOff (u : Unfold) (e : Cell) : Option Int :=
  match u.scaleShape, e with
  | some sh, .at _ x y c =>
    let s := fun i => sh.strides.getD i 0
    some (u.soff + (((c / 32 : Nat) : Int) * s 0 + (x : Int) * s 1 + (y : Int) * s 2))
  | some _, .outside => none
  | some _, .pad => none
  | none, _ => none

/-- The window bytes a request reads: offsets and lengths (R252, R259, R262, R266). The scales count for MMAU of any format where sh8 is
not 0 (log 170, DESIGN CHOICE). -/
def MatReq.winReads (r : MatReq) : List (Nat × Nat) :=
  match r.kind with
  | .mma fmt full ao bo _ u =>
    let rb := rowBytes full
    let bs := r.quarters.map fun q => (bo + rb * (16 * (q % 2)), 16 * rb)
    (match u with
     | none => r.quarters.map fun q => (ao + rb * (16 * (q / 2)), 16 * rb)
     | some (cfg, k0, p0) =>
       r.quarters.flatMap fun q => (List.range 16).flatMap fun i => (List.range (depthOf fmt full)).flatMap fun k =>
         let e := cfg.cell (p0 + 16 * (q / 2) + i) (k0 + k)
         (match e with
          | .at off _ _ _ => [(off, elemBytes fmt)]
          | .outside => [] | .pad => []) ++
         (match cfg.scaleOff e with
          | some o => if o < 0 then [] else [(o.toNat, 1)]
          | none => [])) ++ bs
  | .accz _ => []
  | .accld off _ => [(off, 4096)]
  | .accst _ _ _ => []

/-- The window bytes a request writes (R260, R266). -/
def MatReq.winWrites (r : MatReq) : List (Nat × Nat) :=
  match r.kind with
  | .accst dst off _ => if dst = 0 then [(off, 4096)] else if dst = 1 then [(off, 2048)] else []
  | .mma _ _ _ _ _ _ => [] | .accz _ => [] | .accld _ _ => []

/-- Does it write its tile? Does it read it (R266)? -/
def MatReq.writesTile (r : MatReq) : Bool :=
  match r.kind with
  | .accst _ _ _ => false
  | .mma _ _ _ _ _ _ => true | .accz _ => true | .accld _ _ => true
def MatReq.readsTile (r : MatReq) : Bool :=
  match r.kind with
  | .accst _ _ _ => true | .mma _ _ _ _ _ _ => true
  | .accz _ => false | .accld _ _ => false

/-- Two lists of runs share a byte. -/
def runsMeet (x y : List (Nat × Nat)) : Bool :=
  x.any fun a => y.any fun b => decide (a.1 < b.1 + b.2) && decide (b.1 < a.1 + a.2)

/-- Must a later request wait for an earlier one (R26, R266)? -/
def MatReq.blocks (earlier later : MatReq) : Bool :=
  let same := earlier.tile == later.tile
  let win := earlier.b == later.b
  (same && earlier.writesTile && (later.readsTile || later.writesTile)) ||
  (win && runsMeet earlier.winWrites (later.winReads ++ later.winWrites)) ||
  (earlier.start.isNone &&
    ((same && earlier.readsTile && later.writesTile) || (win && runsMeet earlier.winReads later.winWrites)))

/-! ### The quarter operations (R174–R176, R253) -/

/-- The scale byte of row or column i of a quarter for a block: of the A register (`second` false) or the B register
(R176, R253). Rows and columns of lanes that do not take part have scale 0x7F (log 166, DESIGN CHOICE). -/
def MatReq.scale (r : MatReq) (second : Bool) (q i blk : Nat) : Nat :=
  match Tbl.get? r.scales (8 * q + i / 2) with
  | none => 0x7F
  | some (a, b) => element (if second then b else a) 8 (2 * (i % 2) + blk)

/-- One element of a tile after a request (R174, R253, R262). -/
def MatReq.dot (r : MatReq) (bk : Block) (els : Tbl Word) (fmt : Nat) (full : Bool) (ao bo bs : Nat)
    (u : Option (Unfold × Nat × Nat)) (q i j : Nat) : Word :=
  let rb := rowBytes full
  let row := 16 * (q / 2) + i
  let col := 16 * (q % 2) + j
  let z := elemBytes fmt
  let g := groupOf fmt
  let f := matFmt fmt
  let val := fun (off : Nat) => matVal f (ofBytes (bk.winRead off z))
  (List.range (depthOf fmt full / g)).foldl (fun acc n =>
    let blk := if full then n else bs
    let prods := (List.range g).filterMap fun e =>
      let k := g * n + e
      let b := val (bo + rb * col + z * k)
      match u with
      | none => some (val (ao + rb * row + z * k), b)
      | some (cfg, k0, p0) => match cfg.cell (p0 + row) (k0 + k) with
        | .outside => none
        | .pad => some (matVal f (if z = 1 then cfg.pad % 256 else cfg.pad), b)
        | .at off _ _ _ => some (val off, b)
    let sa := match u with
      | none => r.scale false q i blk
      | some (cfg, k0, p0) =>
        if cfg.scale = 0 then r.scale false q i blk
        else match cfg.scaleOff (cfg.cell (p0 + row) (k0 + g * n)) with
          | some o => (if 0 ≤ o ∧ o < bk.lpb.window then bk.winByte o.toNat else Config.strayScale r.id o).toNat
          | none => 0x7F
    matGroup acc prods (if is8 fmt then some (sa, r.scale true q j blk) else none)) (elem els row col)

/-- The elements of the tile after MMA or MMAU: quadrants of live quarters change (R253). -/
def MatReq.product (r : MatReq) (bk : Block) (els : Tbl Word) : Tbl Word :=
  match r.kind with
  | .mma fmt full ao bo bs u =>
    r.quarters.foldl (fun t q => (List.range 16).foldl (fun t i => (List.range 16).foldl (fun t j =>
      Tbl.putD t (32 * (16 * (q / 2) + i) + (16 * (q % 2) + j)) 0 (r.dot bk els fmt full ao bo bs u q i j)) t) t) els
  | .accz _ => els | .accld _ _ => els | .accst _ _ _ => els

/-! ### Making a request (R248, R249, R265) -/

/-- A request joins the matrix queue; MMA, MMAU, ACCZ and ACCLD claim the tile; a token is taken (R248, R249, R265). -/
def State.addMat (s : State) (r : MatReq) (claims : Bool) : State :=
  let s := { s with mp := { s.mp with tokensUsed := s.mp.tokensUsed + (if r.token then 1 else 0) } }
  s.modCore s.iss.core fun k =>
    let k := { k with matQ := k.matQ ++ [r] }
    if claims then k.modTile r.tile fun t => match t.claim with
      | none => { t with claim := some r.b }
      | some _ => t
    else k

/-- A matrix request of the issuing warp. -/
def State.matReq (s : State) (w : Nat) (kind : MatKind) (x : MWord) (scales : Tbl (Word × Word)) (token : Bool) : MatReq :=
  { id := s.seq, b := s.iss.blk, w, lanes := maskOf (s.lanesOf w), issued := s.cyc, kind, tile := tileNum x,
    score := s.iss.regs.mmode != 0, token, scales, start := none, image := [] }

/-- The scale pair of every lane, none for `$z` (R176, R250). -/
def State.scalePair (s : State) (x : MWord) (w : Nat) : Tbl (Word × Word) :=
  match x.b.group 2 with
  | [a, b] => (s.lanesOf w).map fun l => (l, (s.val w l (.reg a), s.val w l (.reg b)))
  | _ => []

/-- MMA and MMAU (R252, R262). -/
def State.mmaReq (s : State) (x : MWord) (w ao bo : Nat) (u : Option (Unfold × Nat × Nat)) : State :=
  let r := s.matReq w (mmaKind x ao bo u) x (s.scalePair x w) s.snap.tokenMode
  { s with seq := s.seq + 1 }.addMat r true

/-- A version or store field of imm20. -/
def MWord.ver16 (w : MWord) : BitVec 16 := (w.imm >>> 4).setWidth 16

/-- ACCST (R260). -/
def State.accst (s : State) (x : MWord) (w : Nat) : State :=
  let dst := x.kind.toNat
  let off := (s.val w (s.lowest w) (.reg x.a)).toNat
  let rg := ((x.imm >>> 12) &&& 7#20).toNat
  let r := s.matReq w (.accst dst off rg) x [] false
  let s := { s with seq := s.seq + 1 }
  let s := if dst = 2 then
      let regs := x.d.group 4
      (s.lanesOf w).foldl (fun s l => s.postGroup r.id w l regs true) (s.openAll [w] regs)
    else s.modHere fun bk => r.winWrites.foldl (fun k p => (linesOf p.1 p.2).foldl (fun k n => k.markLine n r.id) k) bk
  s.addMat r false

/-! ### Queries, configuration, saving and restoring (R258, R261, R264) -/

/-- ACCVQ's description of a tile (R258). -/
def Core.describe (k : Core) (t b : Nat) : DWord :=
  let tile := k.tile t
  let clm := match tile.claim with
    | some c => decide (c ≠ b)
    | none => false
  let busy := k.matQ.any (·.tile == t)
  BitVec.ofNat 64 (tile.ver.toNat + (if busy then 65536 else 0) + (if clm then 131072 else 0))

/-- The byte at an offset of a block's tile save area: tile t from 4,096·t, the header's saved mask at 0x1_0000 and its
versions from 0x1_0010; a tile whose bit is clear keeps the bytes and the version saved last (R264). -/
def Block.saveArea (bk : Block) (off : Nat) : Byte :=
  let at_ := fun (t : Nat) => (Tbl.get? bk.saved t).getD (Tbl.getD bk.stale t .zero)
  let ver := fun (t : Nat) => ((at_ t).ver).toNat
  if off < 0x10000 then (tileBytes (at_ (off / 4096)).els).getD (off % 4096) 0
  else if off < 0x10002 then (toBytes 2 (sumBy (fun t => 2 ^ t) (Tbl.keys bk.saved))).getD (off - 0x10000) 0
  else if 0x10010 ≤ off ∧ off < 0x10030 then (toBytes 2 (ver ((off - 0x10010) / 2))).getD (off % 2) 0
  else 0

/-- What a read of some sectors of a block's Trunk meets (R352). -/
def Block.trunkFault (bk : Block) (ns : List Nat) : Option Code :=
  if ns.any fun n => Tbl.get? bk.bad n == some .uncorrectable then some .memue
  else if ns.any fun n => Tbl.get? bk.bad n == some .poisoned then some .integrity
  else none

/-- A sector of a Trunk that a management sequencer or a supervisor instruction cannot read, or writes in part while it is
poisoned, ends the context (R311, R351, R352). -/
def State.endTrunk (s : State) (x : Nat) (e : Option Code) : State :=
  match e with
  | none => s
  | some c => s.endCtx x { code := c, fpc := s.openFpc c, faddr := BitVec.ofNat 64 (s.openFaddr c 0), fmask := 0 }

/-- The sectors of a tile in the save area, and that of its header. -/
def tileSectors (t : Nat) : List Nat := (List.range 64).map fun i => 64 * t + i
def headSector : Nat := 1024

/-- Tile t of core c goes to the save area of the block that claims it, and its saved bit is set (R264). Its sectors are
written whole, the header's in part (R352). -/
def State.saveTile (s : State) (c t : Nat) : State :=
  let tile := (s.core c).tile t
  match tile.claim with
  | none => s
  | some b => match s.block? b with
    | none => s
    | some bk =>
      (s.modBlock b fun k => { k with saved := Tbl.put k.saved t { tile with claim := none },
                                      stale := Tbl.erase k.stale t,
                                      bad := k.bad.filter fun x => !(tileSectors t).contains x.1 }).endTrunk bk.ctx
        (if Tbl.get? bk.bad headSector == some .poisoned then some .integrity else none)

/-- The tiles of a mask. -/
def tilesOf (m : Nat) : List Nat := (List.range 16).filter fun t => m / 2 ^ t % 2 == 1

/-- The tiles ACCSV saves: those of the mask claimed by a block of the owner `own` (R264). -/
def State.toSave (s : State) (c : Nat) (own : Word) (m : Nat) : List Nat :=
  (tilesOf m).filter fun t => match ((s.core c).tile t).claim with
    | none => false
    | some b => match s.block? b with
      | some bk => own == BitVec.ofNat 32 bk.ctx
      | none => false

/-- ACCSV's writes for the owner `own`, and its hold in core cycles (R264). -/
def State.accsv (s : State) (c : Nat) (own : Word) (m : Nat) : State × Nat :=
  if own = 0 then (s, 64)
  else
    let ts := s.toSave c own m
    (ts.foldl (fun s t => s.saveTile c t) s, 64 + 256 * ts.length)

/-- A saved tile of block b is loaded into core c, if it is unclaimed there and no block that comes there claims its number
(R264, R267, R356). Where its sectors cannot be read, the context ends (R352). -/
def State.loadTile (s : State) (c b t : Nat) : State :=
  match s.block? b with
  | none => s
  | some bk => match Tbl.get? bk.saved t with
    | none => s
    | some x =>
      let f := bk.trunkFault (headSector :: tileSectors t)
      if ((s.core c).tile t).claim.isSome || s.claimComing c t b then s
      else if f.isSome then s.endTrunk bk.ctx f
      else
        (s.modCore c fun k => (k.modTile t fun _ => { x with claim := some b, stamp := s.coreNow c }).accuseFor bk.ctx t).modBlock b
          fun bk => { bk with saved := Tbl.erase bk.saved t, stale := Tbl.put bk.stale t x }

/-- ACCRS: for each resident block of the context, each tile of the mask (R264); the number of tiles loaded. -/
def State.accrs (s : State) (c x m : Nat) : State × Nat :=
  let bs := (sortBy (fun p => p.2.blk) ((s.blocksOn c).filter fun p => p.2.ctx == x)).map (·.1)
  let pairs := bs.flatMap fun b => (tilesOf m).map fun t => (b, t)
  let n := sumBy (fun (bk : Nat × Block) => bk.2.saved.length) (s.blocksOn c)
  let s' := pairs.foldl (fun (s : State) p => s.loadTile c p.1 p.2) s
  (s', n - sumBy (fun (bk : Nat × Block) => bk.2.saved.length) (s'.blocksOn c))

/-- ACCOWN (R264). -/
def State.accown (s : State) (c x : Nat) : State := (s.setOwner c x).modCore c fun k => { k with latch := none }

/-! ### The words -/

/-- Each issuing thread is held for a number of core cycles (R4, R264). -/
def State.holdCore (s : State) (n : Nat) : State := s.eachThread (·.addHold (.untilCore (s.now + n)))

/-- MMA (R252–R257). -/
def execMma (w : MWord) (s : State) : Out :=
  let s := s.checkIssue
  .next (s.conv fun v =>
    let a := (s.val64 v (s.lowest v) w.a).toNat
    s.mmaReq w v (a % 2 ^ 32) (a / 2 ^ 32) none)
/-- MMAU (R262). -/
def execMmau (w : MWord) (s : State) : Out :=
  let s := s.checkIssue
  .next (s.conv fun v =>
    let a := (s.val64 v (s.lowest v) w.a).toNat
    match s.snap.unfold with
    | none => s
    | some u => s.mmaReq w v 0 (a % 2 ^ 21) (some (u, 16 * (a / 2 ^ 24 % 2 ^ 16), a / 2 ^ 40)))
/-- ACCZ (R259). -/
def execAccz (w : MWord) (s : State) : Out :=
  let s := s.checkIssue
  .next (s.conv fun v => { s with seq := s.seq + 1 }.addMat (s.matReq v (.accz (MWord.ver16 w)) w [] false) true)
/-- ACCLD (R259). -/
def execAccld (w : MWord) (s : State) : Out :=
  let s := s.checkIssue
  .next (s.conv fun v =>
    let off := (s.val v (s.lowest v) (.reg w.a)).toNat
    { s with seq := s.seq + 1 }.addMat (s.matReq v (.accld off (MWord.ver16 w)) w [] false) true)
/-- ACCST (R260). -/
def execAccst (w : MWord) (s : State) : Out :=
  let s := s.checkIssue
  .next (s.conv fun v => s.accst w v)
/-- ACCVQ (R258). -/
def execAccvq (w : MWord) (s : State) : Out :=
  let s := s.checkIssue
  .next (s.conv fun v => s.writeScalar v w.d 1 ((s.core s.iss.core).describe (tileNum w) s.iss.blk) true)
/-- UNFCF (R261). -/
def execUnfcf (w : MWord) (s : State) : Out :=
  let s := s.checkIssue
  .next (s.conv fun v =>
    let l := s.lowest v
    match s.unfoldOf s.snap (s.plainOff w v l) (s.val v l (.reg w.b)) with
    | .ok u => s.modHere fun bk => { bk with unfold := some u }
    | .error _ => s)
/-- ACCSV: once the matrix queue is empty (R264). -/
def execAccsv (w : MWord) (s : State) : Out :=
  let s := s.checkIssue
  .next (s.conv fun v =>
    let c := s.iss.core
    let m := if w.b == .z then s.iss.regs.accused.toNat else (s.val v (s.lowest v) (.reg w.b)).toNat % 65536
    if (s.core c).matQ.isEmpty then
      let (s, n) := s.accsv c s.iss.regs.accown m
      s.holdCore n
    else s.eachThread (·.addHold (.accsv (BitVec.ofNat 32 m))))
/-- ACCRS (R264). -/
def execAccrs (w : MWord) (s : State) : Out :=
  let s := s.checkIssue
  .next (s.conv fun v =>
    let m := if w.b == .z then 65535 else (s.val v (s.lowest v) (.reg w.b)).toNat % 65536
    let (s, n) := s.accrs s.iss.core s.snap.ctx m
    s.holdCore (64 + 256 * n))
/-- ACCOWN (R264). -/
def execAccown (_w : MWord) (s : State) : Out :=
  let s := s.checkIssue
  .next (s.conv fun _ =>
    (s.accown s.iss.core s.snap.ctx).holdFor 16)

end Sys2Proof.Machine
end

