-- ==== Sys2Proof/Machine/Tasks.lean ====
section
/-! DEFINITION. Sys2Proof/Machine/Tasks.lean: the task engine's tables at the master: launch parameter blocks and their
checks, task creation, dependences, futures, waiters, and the hand-out of a range (R269–R289, R327, R328). -/

namespace Sys2Proof.Machine

open Sys2Proof

/-! ### Launch parameter blocks (R273, R274, R284, R289) -/

/-- The fields of an LPB (R273). -/
def Lpb.ofBytes (bs : List Byte) : Lpb :=
  { entry := field bs 0 8, lo := field bs 8 8, hi := field bs 0x10 8, grain := field bs 0x18 8, warps := field bs 0x20 2,
    quota := field bs 0x22 2, window := field bs 0x24 4, cls := field bs 0x28 1, flags := field bs 0x29 1,
    capacity := field bs 0x2C 4, energy := field bs 0x30 4, peak := field bs 0x34 4,
    seed := BitVec.ofNat 64 (field bs 0x38 8), stagger := field bs 0x40 4, k := field bs 0x44 4,
    schedset := field bs 0x48 8,
    deps := (List.range 4).map fun i => BitVec.ofNat 32 (field bs (0x50 + 4 * i) 4), bytes := bs }

/-- The flags of R82. -/
def Lpb.flag (p : Lpb) (i : Nat) : Bool := p.flags / 2 ^ i % 2 == 1
def Lpb.pop (p : Lpb) : Bool := p.flag 0
def Lpb.prompt (p : Lpb) : Bool := p.flag 1
def Lpb.rot (p : Lpb) : Bool := p.flag 2
def Lpb.staggered (p : Lpb) : Bool := p.flag 3
def Lpb.token (p : Lpb) : Bool := p.flag 4
def Lpb.sup (p : Lpb) : Bool := p.flag 5

/-- The block's rows of each bank (R114). -/
def Lpb.share (p : Lpb) : Nat := ceilDiv (p.warps * p.quota) 4

/-- Shape names in bank b: those of `$v0` to `$v(K−1)`. -/
def Lpb.namesIn (p : Lpb) (b : Nat) : Nat := ((List.range (min p.k 256)).filter (· % 4 == b)).length

/-- A condition of R274 with the offset it reports. -/
def offBad (ok : Bool) (off : Nat) : Option Nat := if ok then none else some off

/-- The first offset of a list of conditions. -/
def firstOff (l : List (Option Nat)) : Option Nat := l.findSome? id

/-- The mode fields of the footprints of a graph node (R289). -/
def Lpb.modes (p : Lpb) : List (Nat × Nat) := [(0xEC, field p.bytes 0xEC 4), (0xFC, field p.bytes 0xFC 4)]

/-- The checks of R274 in order, with R148 and R289: the offset reported. `supOk`: the creator may set sup; `live`: a
handle names a live future or task. -/
def Lpb.bad (p : Lpb) (supOk node : Bool) (live : Word → Bool) : Option Nat :=
  firstOff ([
    offBad (p.entry % 32 == 0) 0x00,
    offBad (p.lo ≤ p.hi) 0x08,
    offBad (p.pop || p.grain ≥ 1) 0x18,
    offBad (1 ≤ p.warps && p.warps ≤ 32) 0x20,
    offBad (1 ≤ p.quota && p.quota ≤ 256) 0x22,
    offBad (p.window % 128 == 0 && p.window ≤ 2097152) 0x24,
    offBad (p.warps * p.quota ≤ 4096) 0x22,
    offBad (p.cls ≤ 2) 0x28,
    offBad (p.flags < 64 && (supOk || !p.sup)) 0x29,
    offBad (field p.bytes 0x2A 2 == 0) 0x2A,
    offBad (p.token == (p.energy == 0 && p.peak == 0)) 0x29,
    offBad (!p.pop || (1 ≤ p.hi - p.lo && p.hi - p.lo ≤ p.capacity && p.capacity ≤ 524288)) 0x2C,
    offBad (!p.pop || (1 ≤ p.k && p.k ≤ 256 && (List.range 4).all fun b => p.warps * p.namesIn b ≤ p.share)) 0x44,
    offBad (p.schedset % 64 == 0) 0x48] ++
    (p.deps.zipIdx.map fun x => offBad (x.1 == 0 || live x.1) (0x50 + 4 * x.2)) ++
    (if node then p.modes.map fun m => offBad (m.2 < 4) m.1 else []))

/-- The extent that selects a schedule-set entry (R284). -/
def Lpb.extent (p : Lpb) : Nat := if p.pop then p.capacity else p.hi - p.lo

/-- The entries of a schedule-set image: LIMIT and kernel address (R71). -/
def schedEntries (bs : List Byte) : List (Nat × Nat) := (List.range 4).map fun i => (field bs (16 * i) 8, field bs (16 * i + 8) 8)

/-- The entry a schedule set gives: the kernel of the first whose LIMIT is at least the extent, else the last kernel that is
not 0; none if every entry is zero (R284). Where no LIMIT suffices and every kernel is 0, the address is 0. -/
def schedPick (bs : List Byte) (extent : Nat) : Option Nat :=
  let es := schedEntries bs
  if es.all fun e => e.1 == 0 && e.2 == 0 then none
  else match es.find? fun e => e.1 ≥ extent with
    | some e => some e.2
    | none => some (((es.reverse.find? fun e => e.2 != 0).map (·.2)).getD 0)

/-- The LPB with its entry chosen: the record's copy holds it at offset 0 (R275). -/
def Lpb.withEntry (p : Lpb) (e : Nat) : Lpb := { p with entry := e, bytes := toBytes 8 e ++ p.bytes.drop 8 }

/-- The footprints of a graph node: base, length, reads, writes (R289). -/
def Lpb.footprints (p : Lpb) : List (Nat × Nat × Bool × Bool) :=
  [0xE0, 0xF0].map fun o =>
    (field p.bytes o 8, field p.bytes (o + 8) 4, field p.bytes (o + 12) 4 % 2 == 1, field p.bytes (o + 12) 4 / 2 % 2 == 1)

/-- Is there a derived edge from an earlier node to a later one (R289)? -/
def derived (m n : Lpb) : Bool :=
  m.footprints.any fun (x : Nat × Nat × Bool × Bool) => n.footprints.any fun (y : Nat × Nat × Bool × Bool) =>
    decide (0 < x.2.1 ∧ 0 < y.2.1 ∧ x.1 < y.1 + y.2.1 ∧ y.1 < x.1 + x.2.1) &&
    ((x.2.2.2 && y.2.2.1) || (x.2.2.1 && y.2.2.2) || (x.2.2.2 && y.2.2.2))

/-! ### What a handle shows (R272, R285, R286) -/

/-- A future, or a task as a future: its state and value, the node whose provisional version it is (R272, R328), and the
handle of the node under prompt commit whose effect it is (R332). -/
structure View where
  st : FutSt
  value : DWord
  ver : Option Nat
  effect : Option Word := none
deriving DecidableEq, Repr

/-- A node that is FAULTED by what another may still roll back: its state is provisional (R328, R332). -/
def State.faultTag (s : State) (t : Nat) : Option Nat :=
  match Tbl.get? s.cp.tasks t with
  | some k => if k.node && k.st == .faulted && !k.inherits.isEmpty then some t else none
  | none => none

/-- The view of a future or task handle of context x; none if the handle is stale. -/
def State.look (s : State) (x : Nat) (h : Word) : Option View :=
  if handleKind h = 3 then
    (s.cp.task? x h).map fun t => match t.st with
      | .done => { st := .full, value := t.value, ver := s.nodeTag (handleSlot h), effect := s.effectOf (handleSlot h) }
      | .faulted => { st := .faulted, value := Config.taskValue h.toNat, ver := s.faultTag (handleSlot h) }
      | .waiting => { st := .empty, value := Config.taskValue h.toNat, ver := none }
      | .ready => { st := .empty, value := Config.taskValue h.toNat, ver := none }
      | .running => { st := .empty, value := Config.taskValue h.toNat, ver := none }
  else (s.cp.future? x h).map fun f =>
    { st := f.st, value := f.value, ver := s.ms.nodeOf (.future (handleSlot h)), effect := s.ms.markOf (.future (handleSlot h)) }

/-- Task t has read what a handle shows (R328, R332). -/
def State.tookView (s : State) (t : Nat) (v : View) : State := (s.inherit t v.ver).saw t v.effect.toList

/-- Is a handle a live future or task handle of context x (R274 check 10)? -/
def State.liveHandle (s : State) (x : Nat) (h : Word) : Bool := (s.look x h).isSome

/-- Does some task record name the handle as a dependence (R286, R288)? -/
def Control.named (c : Control) (h : Word) : Bool := c.tasks.any fun p => !p.2.dropped && p.2.lpb.deps.contains h

/-- Future `slot` changed by f. -/
def State.modFuture (s : State) (slot : Nat) (f : Future → Future) : State :=
  { s with cp := { s.cp with futures := Tbl.mod s.cp.futures slot f } }

/-- The waiters of a handle's entry (R285, R272). -/
def State.waitersOf (s : State) (h : Word) : List (Nat × Nat × Nat) :=
  if handleKind h = 3 then (match Tbl.get? s.cp.tasks (handleSlot h) with | some t => t.waiters | none => [])
  else match Tbl.get? s.cp.futures (handleSlot h) with | some f => f.waiters | none => []

/-- The waiters of a handle's entry replaced. -/
def State.setWaiters (s : State) (h : Word) (l : List (Nat × Nat × Nat)) : State :=
  if handleKind h = 3 then s.modTask (handleSlot h) fun t => { t with waiters := l }
  else s.modFuture (handleSlot h) fun f => { f with waiters := l }

/-! ### New entries (R269) -/

/-- The lowest free slot of a table of 65,536, from slot `lo` up. -/
def freeSlot {α : Type} (t : Tbl α) (lo : Nat := 0) : Option Nat :=
  leastBelow 65536 fun i => decide (lo ≤ i) && (Tbl.get? t i).isNone

/-- The generation of a slot's next entry. -/
def nextGen (g : Tbl Nat) (slot : Nat) : Nat := (Tbl.getD g slot 0 + 1) % 4096

/-- A new future; the null handle if the Larder is full (R285, R286, R295). -/
def State.newFuture (s : State) (x : Nat) (target : DWord) : State × Word :=
  match freeSlot s.cp.futures with
  | none => (s, 0)
  | some k =>
    let g := nextGen s.cp.futGen k
    ({ s with cp := { s.cp with
        futures := Tbl.put s.cp.futures k { value := 0, target, st := .empty, ctx := x, waiters := [] },
        futGen := Tbl.put s.cp.futGen k g } }, mkHandle 1 k g)

/-- A new shape record; none if the table is full (R270). -/
def State.newShape (s : State) (sh : Shape) : Option (State × Word) :=
  match freeSlot s.cp.shapes with
  | none => none
  | some k =>
    let g := nextGen s.cp.shapeGen k
    some ({ s with cp := { s.cp with shapes := Tbl.put s.cp.shapes k sh, shapeGen := Tbl.put s.cp.shapeGen k g } },
      mkHandle 2 k g)

/-- The nodes created before number `before` with a derived edge to a node of context x (R289). -/
def Control.edgesTo (c : Control) (x before : Nat) (p : Lpb) : List Nat :=
  (c.tasks.filter fun k => k.2.ctx == x && k.2.node && k.2.st != .done && k.2.st != .faulted && decide (k.2.order < before) &&
    derived k.2.lpb p).map (·.1)

/-- A new task record in WAITING; the null handle if the table is full (R271, R275). -/
def State.newTask (s : State) (x : Nat) (addr : DWord) (p : Lpb) (node : Bool) : State × Word :=
  match freeSlot s.cp.tasks with
  | none => (s, 0)
  | some k =>
    let g := nextGen s.cp.taskGen k
    let t : Task := { ctx := x, addr, lpb := p, st := .waiting, order := s.cp.order, node,
                      edges := if node then s.cp.edgesTo x s.cp.order p else [], intervals := [], unclaimed := [], chunks := [],
                      admitted := 0, completed := 0, nextBlk := 0, lastAdmit := none, gen := 0, committed := p.prompt,
                      inherits := [], cores := [], value := 0, waiters := [], dropped := false }
    ({ s with cp := { s.cp with tasks := Tbl.put s.cp.tasks k t, taskGen := Tbl.put s.cp.taskGen k g,
                                order := s.cp.order + 1 } }, mkHandle 3 k g)

/-! ### What a node that may be rolled back makes and frees (R331, R332; log 168, 169) -/

/-- The task, if a rollback may still concern it: a node that has not committed, or that inherits from one (R328, R331). -/
def State.mayRoll (s : State) (t : Nat) : Option Nat :=
  if (Tbl.get? s.cp.tasks t).any fun k => k.node && (!k.committed || !k.inherits.isEmpty) then some t else none

/-- FTNEW of a task: the entry that an earlier run of it made and that no step has taken up again, else a new one (R285, R295, R332). -/
def State.makeFuture (s : State) (x task : Nat) (target : DWord) : State × Word :=
  match s.cp.futures.find? fun p => p.2.kept && p.2.maker == some task && p.2.target == target && p.2.freedBy.isNone with
  | some (k, _) => (s.modFuture k fun f => { f with kept := false, maker := s.mayRoll task }, mkHandle 1 k (Tbl.getD s.cp.futGen k 0))
  | none =>
    let (s, h) := s.newFuture x target
    (if h = 0 then s else s.modFuture (handleSlot h) fun f => { f with maker := s.mayRoll task }, h)

/-- SPAWN of a task: the child that an earlier run of it launched alike and that no step has taken up again, else a new one (R275, R293,
R332). -/
def State.makeTask (s : State) (x task : Nat) (addr : DWord) (p : Lpb) (node : Bool) : State × Word :=
  match s.cp.tasks.find? fun q => q.2.kept && q.2.maker == some task && q.2.addr == addr && q.2.lpb == p && q.2.node == node && !q.2.dropped with
  | some (k, _) => (s.modTask k fun y => { y with kept := false, maker := s.mayRoll task }, s.handleOf k)
  | none =>
    let (s, h) := s.newTask x addr p node
    (if h = 0 then s else s.modTask (handleSlot h) fun y => { y with maker := s.mayRoll task }, h)

/-- The node that freed the entry a handle of context x names, where it may still be rolled back (R331). -/
def State.freedBy (s : State) (x : Nat) (h : Word) : Option Nat :=
  let k := handleSlot h
  if handleKind h = 3 ∧ Tbl.getD s.cp.taskGen k 0 = handleGen h then
    (Tbl.get? s.cp.tasks k).bind fun t => if t.ctx = x ∧ t.dropped then t.droppedBy else none
  else if handleKind h = 1 ∧ Tbl.getD s.cp.futGen k 0 = handleGen h then
    (Tbl.get? s.cp.futures k).bind fun f => if f.ctx = x then f.freedBy else none
  else none

/-! ### Waiters (R286, R295) -/

/-- The least time of an operation at the master distributor (R353). -/
def State.masterTime (s : State) (c : Nat) : Nat := if s.cp.master = some (dieOf c) then 200 else 280

/-- The words of a value for FTGET and FTWAIT: all 64 bits for a scalar register (R295). -/
def valueWords (v : DWord) : List Word := [v.setWidth 32, (v >>> 32).setWidth 32]

/-- A parked access of the thread at (w, l) that names a handle: its operation and itself. -/
def Block.parkedOn (bk : Block) (w l : Nat) (h : Word) : Option (MemOp × Access) :=
  bk.ops.findSome? fun (o : MemOp) => (o.parked.find? fun a => a.w == w && a.lane == l && a.addr == h.toNat).map fun a => (o, a)

/-- An access leaves the parked ones of an operation. -/
def Block.unpark (bk : Block) (id w l : Nat) (f : MemOp → Access → MemOp) : Block :=
  let upd := fun (o : MemOp) =>
    let mine := o.parked.filter fun a => a.w == w && a.lane == l
    let rest := o.parked.filter fun a => !(a.w == w && a.lane == l)
    if o.id == id then mine.foldl f { o with parked := rest } else o
  { bk with ops := bk.ops.map upd }

/-- One waiter of an entry that is FULL or FAULTED: it receives the value with PHASE.dev's refresh, or raises FUTFAULT; it
stays while R328 makes it wait, and while its block is on no core: its FTWAIT completes on the core where the block comes to stand
(R287, R312, R315). Answers whether it stays. -/
def State.wake1 (s : State) (h : Word) (v : View) (b w l : Nat) : State × Bool :=
  match s.block? b with
  | none => (s, false)
  | some bk => match bk.parkedOn w l h with
    | none => (s, false)
    | some (o, a) =>
      match v.st with
      | .empty => (s, true)
      | .full => match bk.core? with
        | none => (s, true)
        | some c =>
        if !s.mayStep bk.task v.ver then (s, true)
        else
          let s := s.tookView bk.task v
          let s := { s with ms := s.ms.refresh c 2 }
          let due := s.cyc + s.masterTime c
          (s.modBlock b fun bk =>
            (((bk.deliver o w l (valueWords v.value)).unpark o.id w l fun q _ =>
              { q with arrive := some (max (q.arrive.getD 0) due) }).modThread w l
                (·.release (· == .ftwait o.id) (s.nowOf b))).retire (s.nowOf b), false)
      | .faulted =>
        if bk.core?.isNone || !s.mayStep bk.task v.ver then (s, true)
        else
          let s := s.tookView bk.task v
          ((s.modBlock b (·.unpark o.id w l fun q x => { q with held := q.held ++ [x] })).recordFaults b o.id o.pc
            [(a, .futfault)], false)

/-- The waiters of one handle, in arrival order. -/
def State.wake (s : State) (x : Nat) (h : Word) : State :=
  match s.look x h with
  | none => s
  | some v =>
    let (s, keep) := (s.waitersOf h).foldl (fun (acc : State × List (Nat × Nat × Nat)) p =>
      let (s, stays) := acc.1.wake1 h v p.1 p.2.1 p.2.2
      (s, if stays then acc.2 ++ [p] else acc.2)) (s, [])
    s.setWaiters h keep

/-- Every handle on which threads wait: context and handle. -/
def Control.waited (c : Control) : List (Nat × Word) :=
  ((c.futures.filter fun p => !p.2.waiters.isEmpty).map fun p => (p.2.ctx, mkHandle 1 p.1 (Tbl.getD c.futGen p.1 0))) ++
  ((c.tasks.filter fun p => !p.2.waiters.isEmpty).map fun p => (p.2.ctx, mkHandle 3 p.1 (Tbl.getD c.taskGen p.1 0)))

/-! ### Dependences (R279, R288, R289, R328) -/

/-- Has the end of a context begun (R311)? -/
def State.ctxEnding (s : State) (x : Nat) : Bool :=
  match Tbl.get? s.ctxs x with
  | some k => k.ending.isSome
  | none => true

/-- A derived edge clears when the earlier node is DONE; the later one takes over what is provisional of it (R289, R328). -/
def State.clearEdges (s : State) : State :=
  s.cp.tasks.foldl (fun s p => p.2.edges.foldl (fun (s : State) m =>
    if (Tbl.get? s.cp.tasks m).any (·.st == .done) then
      (s.inherit p.1 (s.nodeTag m)).modTask p.1 fun y => { y with edges := y.edges.filter (· != m) }
    else s) s) s

/-- What becomes of a waiting task: its next state, with what it has read. -/
def State.depState (s : State) (t : Nat) (k : Task) : Option (TaskSt × List View) :=
  let views := (k.lpb.deps.filter (· != 0)).map fun h => s.look k.ctx h
  let bad := (views.filterMap id).filter (fun y => y.st == .faulted && s.mayStep t y.ver) ++
    (k.edges.filter fun e => (Tbl.get? s.cp.tasks e).any (·.st == .faulted)).map fun e =>
      { st := .faulted, value := 0, ver := s.faultTag e }
  let ok := (views.all fun v => match v with
    | some y => y.st == .full && s.mayStep t y.ver
    | none => false) && k.edges.isEmpty
  if !bad.isEmpty then some (.faulted, bad)
  else if ok then some (.ready, views.filterMap id)
  else none

/-- One task of a context that is not ending moves on by its dependences, or is DONE at once with an empty range; one whose maker has
been rolled back waits until it is launched again (R279, R311, R332). -/
def State.evalTask (s : State) (t : Nat) : State :=
  match Tbl.get? s.cp.tasks t with
  | none => s
  | some k =>
    if s.ctxEnding k.ctx || k.kept then s
    else match k.st with
      | .waiting => match s.depState t k with
        | none => s
        | some (st, vs) => (vs.foldl (fun (s : State) v => s.tookView t v) s).modTask t fun y => { y with st }
      | .ready => if k.lpb.lo = k.lpb.hi ∧ !k.lpb.pop then s.modTask t fun y => { y with st := .done, value := 0 } else s
      | .running => s | .done => s | .faulted => s

/-- Every task once, in creation order. -/
def State.evalOnce (s : State) : State :=
  ((sortBy (fun p => p.2.order) s.cp.tasks).map (·.1)).foldl (fun s t => s.evalTask t) s.clearEdges

/-- Tasks are evaluated again and waiters released, at the master, after a change of the task table or the Larder (R278, R279,
R286). -/
def State.evalTasks (s : State) : State :=
  if s.cp.master.isNone then s else
  let s := (List.range (2 * s.cp.tasks.length + 1)).foldl (fun s _ => s.evalOnce) s
  s.cp.waited.foldl (fun s p => s.wake p.1 p.2) s

/-! ### The range of a task (R282, R283) -/

/-- Chunks of an interval (R282). -/
def Task.chunkCount (t : Task) (i : Interval) : Nat := ceilDiv (i.e - i.b) (max 1 t.lpb.grain)

/-- The interval to split: the largest, ties to the lowest b (R282). -/
def Task.widest (t : Task) : Option Interval :=
  minBy (fun (i : Interval) => (2 ^ 64 - (i.e - i.b)) * 2 ^ 64 + i.b) (t.intervals.filter fun i => t.chunkCount i ≥ 2)

/-- The interval of a block replaced. -/
def Task.setInterval (t : Task) (blk b e : Nat) : Task :=
  { t with intervals := (t.intervals.filter fun i => i.blk != blk) ++ [{ b, e, blk }] }

/-- Splits the widest splittable interval for block blk, which owns the upper part (R282). -/
def Task.split (t : Task) (blk : Nat) : Option Task :=
  t.widest.map fun i =>
    let m := i.b + t.lpb.grain * ceilDiv (t.chunkCount i) 2
    (t.setInterval i.blk i.b m).setInterval blk m i.e

/-- Gives block blk the first unclaimed work (R278, R283). -/
def Task.claim (t : Task) (blk : Nat) : Option Task :=
  match t.unclaimed with
  | [] => none
  | (b, e) :: r => some ({ t with unclaimed := r }.setInterval blk b e)

/-- Hands out the first chunk of block blk's interval, if it is not empty: start and count (R283). -/
def Task.handOut (t : Task) (blk : Nat) : Option (Task × Nat × Nat) :=
  match t.intervals.find? fun i => i.blk == blk && decide (i.b < i.e) with
  | none => none
  | some i =>
    let m := min (i.b + t.lpb.grain) i.e
    let t := t.setInterval blk m i.e
    some ({ t with chunks := t.chunks ++ [{ b := i.b, e := m, blk }] }, i.b, m - i.b)

/-- TNEXT of block blk (R283, R294). -/
def Task.next (t : Task) (blk : Nat) : Task × Nat × Nat :=
  if t.lpb.pop then (t, 0, 0)
  else match t.handOut blk with
    | some r => r
    | none => match t.split blk with
      | some y => (y.handOut blk).getD (t, 0, 0)
      | none => match t.claim blk with
        | some y => (y.handOut blk).getD (t, 0, 0)
        | none => (t, 0, 0)

end Sys2Proof.Machine
end

