-- ==== Sys2Proof/Machine/TaskWords.lean ====
section
/-! DEFINITION. Sys2Proof/Machine/TaskWords.lean: the task engine's words (R290–R303). -/

namespace Sys2Proof.Machine

open Sys2Proof

/-! ### Block barriers (R292) -/

/-- Barrier number of BAR, BARA and BARW. -/
def barId (w : MWord) : Nat := (w.imm &&& 0xF#20).toNat

/-- One thread arrives at a barrier; the generation's first arrival fixes the expected count (R292). -/
def Block.arriveAt (bk : Block) (id : Nat) (n : Option Nat) : Block :=
  let b := bk.barrier id
  { bk with bars := Tbl.put bk.bars id { b with arrived := b.arrived + 1, expect := if b.arrived = 0 then n else b.expect } }

/-- The count that a thread's arrival gives; none for LIVE (R292). -/
def State.arrivalCount (s : State) (x : MWord) (w l : Nat) : Option Nat :=
  if x.b == .z then none else some (s.val w l (.reg x.b)).toNat

/-- One thread of block b arrives and is held until its generation's release if `hold` (R292). -/
def State.arriveOne (s : State) (b id w l : Nat) (n : Option Nat) (hold : Bool) : State :=
  s.modBlock b fun bk =>
    let bk := bk.arriveAt id n
    (if hold then bk.modThread w l (·.addHold (.bar id (bk.barrier id).gen)) else bk).barCheck id (s.nowOf b)

/-- The issuing threads of the warps that lag are to arrive once their earlier memory words have taken their steps (R292):
each with its count, held till then. -/
def State.arriveLater (s : State) (i : Instr) (x : MWord) (late : List Nat) : State :=
  if late.isEmpty then s
  else
    let id := s.seq
    let ps := s.iss.grp.filter fun p => late.contains p.1
    let s := { s with seq := id + 1 }
    let s := if scalarResult i then late.foldl (fun s w => s.postScalar id w x.d) s
      else ps.foldl (fun (s : State) (p : Nat × Nat) => s.holdThread p.1 p.2 (.scalar id)) s
    s.addOp id i (ps.map fun p => s.accessOf p.1 p.2 0 (toBytes 4 ((s.arrivalCount x p.1 p.2).getD 0)) 0)

/-- The arrivals of an operation that waited, in ascending lane order; a scalar result is the generation before that of the
warp's lowest lane (R292). -/
def State.performBar (s : State) (key id : Nat) : State :=
  match s.block? key with
  | none => s
  | some bk => match bk.core?, bk.ops.find? (·.id == id) with
    | some c, some o =>
      let (num, live, hold) : Nat × Bool × Bool := match o.i with
        | .bar x => (barId x, x.b == Reg.z, true)
        | .bara x => (barId x, x.b == Reg.z, false)
        | _ => (0, true, false)
      let s := s.modBlock key fun bk => { bk with ops := bk.ops.map fun (q : MemOp) => if q.id == id then { q with todo := [] } else q }
      let one := fun (s : State) (a : Access) =>
        let first := (o.todo.filter fun (y : Access) => y.w == a.w).all fun (y : Access) => decide (a.lane ≤ y.lane)
        let due := some (s.coreNow c + 1)
        let s := if hold || !first then s else s.modBlock key fun bk =>
          let gen : DWord := ((bk.barrier num).gen).setWidth 64
          { bk with pend := bk.pend.map fun (p : Pending) => if p.op == id && (p.forThread a.w a.lane || p.last.any (·.1 == a.w)) then { p with val := gen, due := due } else p }
        s.arriveOne key num a.w a.lane (if live then none else some (ofBytes a.data)) hold
      ((sortBy (fun (a : Access) => a.lane) o.todo).foldl one s).modBlock key fun bk => bk.retire (s.coreNow c)
    | _, _ => s

/-! ### Operations at the master distributor (R291, R293–R295) -/

/-- What one access of such an operation does. -/
inductive Did where
  /-- It completes with these result words. -/
  | done (vals : List Word)
  /-- It is parked on its entry (R286). -/
  | park
  /-- Its step must wait (R328, R331, R278). -/
  | wait
  /-- A memory-precise fault with its `%faddr`. -/
  | bad (c : Code) (faddr : Nat)
  /-- A fault of the walker at an address: it ends the context (R352). -/
  | ends (c : Code) (va : Nat)
deriving DecidableEq, Repr

/-- A read of n bytes at a virtual address through the issuer's path, within one page (R275, R284). -/
def State.readPath (s : State) (c x task : Nat) (lv : Level) (va n : Nat) : Except Did (State × List Byte) :=
  match s.walkBad c x va with
  | some e => .error (.ends e va)
  | none =>
  match s.translate c x lv .load va with
  | .error e => .error (.bad e va)
  | .ok pa =>
    let pas := (List.range n).map (pa + ·)
    match (if s.ms.homeLost s.dev pas then some .memue else s.ms.sectorFault s.dev (s.ms.fromTruth s.dev c 0 pas)) with
    | some e => .error (.bad e va)
    | none =>
      let vs := pas.flatMap fun a => s.versions c a
      if vs.any fun v => !s.mayStep task v then .error .wait
      else
        let (m, bs, _) := s.ms.load s.dev c 0 pas
        let s := ((s.cached c x va).inheritAll task vs).saw task (s.effectsAt c 0 pas)
        let s := ((pas.map lineOf).dedup).foldl (fun (t : State) ln =>
          let top := maxBy (fun a => s.ms.lowest s.dev c 0 a) (pas.filter fun a => lineOf a == ln)
          (t.chargeFills x 0 top).chargeSlice x top ln) s
        .ok ({ s with ms := m }, bs.map (·.val))

/-- SPAWN of one thread (R275, R284, R293). -/
def State.spawn1 (s : State) (c x task : Nat) (node : Bool) (a : Access) : State × Did :=
  if a.addr % 256 ≠ 0 then (s, .bad .access a.addr)
  else match s.readPath c x task a.lv a.addr 256 with
    | .error d => (s, d)
    | .ok (s1, bs) =>
      let p := Lpb.ofBytes bs
      let freed := p.deps.map (s1.freedBy x)
      if freed.any fun n => !s1.mayStep task n then (s, .wait)
      else
      let s1 := s1.inheritAll task freed
      match p.bad (a.lv == .supervisor) node (s1.liveHandle x) with
      | some off => (s1, .bad .bounds (0x10000 + off))
      | none =>
        let make := fun (t : State) (q : Lpb) =>
          let (t, h) := t.makeTask x task (BitVec.ofNat 64 a.addr) q node
          (t.evalTasks, Did.done [h])
        if p.schedset = 0 then make s1 p
        else match s1.readPath c x task a.lv p.schedset 64 with
          | .error .wait => (s, .wait)
          | .error d => (s1, d)
          | .ok (s2, es) => match schedPick es p.extent with
            | none => (s2, .bad .bounds 0x10048)
            | some e => make s2 (p.withEntry e)

/-- A step on a handle that names no entry: STALE. Where a node freed the entry that may still be rolled back, the step waits or inherits
from it (R269, R328; log 169). -/
def State.stale1 (s : State) (x task : Nat) (a : Access) : State × Did :=
  let n := s.freedBy x (BitVec.ofNat 32 a.addr)
  if s.mayStep task n then (s.inherit task n, .bad .stale a.addr) else (s, .wait)

/-- FTFUL of one thread (R286, R287, R295, R327). -/
def State.fulfil1 (s : State) (x task : Nat) (flt : Bool) (a : Access) : State × Did :=
  let h : Word := BitVec.ofNat 32 a.addr
  match s.look x h with
  | none => s.stale1 x task a
  | some v =>
    if !s.mayStep task v.ver then (s, .wait)
    else match Tbl.get? s.cp.futures (handleSlot h) with
      | none => (s.tookView task v, .bad .futfault a.addr)
      | some f =>
        if handleKind h = 3 ∨ f.st ≠ .empty then (s.tookView task v, .bad .futfault a.addr)
        else
          let node := s.nodeTag task
          let slot := handleSlot h
          let s := s.inherit task v.ver
          let s := { s with ms := (s.ms.overlay node (.future slot) (.fut f.value false)).setMark (.future slot) (s.effectOf task) }
          let d : DWord := BitVec.ofNat 64 (ofBytes a.data)
          let val := if f.target = 0 then d else f.value + d
          let f := if flt then { f with st := .faulted }
            else if f.target = 0 ∨ f.target ≤ val then { f with value := val, st := .full }
            else { f with value := val }
          ((s.modFuture slot fun _ => f).evalTasks, .done [])

/-- FTGET and FTWAIT of one thread: the value, or the state code (R286, R287, R295). -/
def State.read1 (s : State) (x task : Nat) (code wait : Bool) (a : Access) : State × Did :=
  match s.look x (BitVec.ofNat 32 a.addr) with
  | none => s.stale1 x task a
  | some v =>
    if !s.mayStep task v.ver then (s, .wait)
    else if wait then
      match v.st with
      | .empty => (s.inherit task v.ver, .park)
      | .full => (s.tookView task v, .done (valueWords v.value))
      | .faulted => (s.tookView task v, .bad .futfault a.addr)
    else
      (s.tookView task v, .done (if code then
          [match v.st with | .empty => 0 | .full => 1 | .faulted => 2, 0]
        else valueWords v.value))

/-- May a rollback still concern a node that has run: its versions are not committed, or it inherits from one whose are not
(R328, R331)? Its record stays until then. -/
def Task.unsettled (k : Task) : Bool := k.node && k.st == .done && (!k.committed || !k.inherits.isEmpty)

/-- A Larder entry is freed, with what is provisional of it (R286, R327). -/
def State.freeFuture (s : State) (slot : Nat) : State :=
  { s with cp := { s.cp with futures := Tbl.erase s.cp.futures slot },
           ms := { s.ms.setMark (.future slot) none with staged := s.ms.staged.filter fun p => p.loc != .future slot } }

/-- Node n can be rolled back no more, or its record is gone: what it freed is free, what its last run did not make again goes as far as
nothing waits for it, and the rest of what it made is there for good (R329, R331, R332; log 168, 169). -/
def State.settleMade (s : State) (n : Nat) : State :=
  let mine := fun (m : Option Nat) => m == some n
  let idle := fun (h : Word) => (s.waitersOf h).isEmpty && !s.cp.named h
  let gone := s.cp.futures.filter fun p =>
    mine p.2.freedBy || (p.2.kept && mine p.2.maker && idle (mkHandle 1 p.1 (Tbl.getD s.cp.futGen p.1 0)))
  let waste := fun (p : Nat × Task) => p.2.kept && mine p.2.maker && (p.2.st == .waiting || p.2.st == .ready) && idle (s.handleOf p.1)
  let s1 := gone.foldl (fun (s : State) p => s.freeFuture p.1) s
  let fut := fun (f : Future) => if mine f.maker then { f with maker := none, kept := false } else f
  let tsk := fun (t : Task) =>
    let t := if mine t.maker then { t with maker := none, kept := false } else t
    if mine t.droppedBy then { t with droppedBy := none } else t
  { s1 with cp := { s1.cp with futures := Tbl.mapVal s1.cp.futures fut, tasks := Tbl.mapVal (s1.cp.tasks.filter fun p => !waste p) tsk } }

/-- A task record is freed; its handle may still go into a report (R326, R332). -/
def State.freeTask (s : State) (t : Nat) : State :=
  match Tbl.get? s.cp.tasks t with
  | none => s
  | some k =>
    let g : Gone := { handle := s.handleOf t, task := k }
    let s := { s with cp := { s.cp with tasks := Tbl.erase s.cp.tasks t, gone := s.cp.gone ++ [g] } }
    s.settleMade t

/-- FTDROP of one thread; what a node frees that may still be rolled back stays until it can be no more, without a handle (R271, R286,
R295, R331; log 63, 169). -/
def State.drop1 (s : State) (x task : Nat) (a : Access) : State × Did :=
  let h : Word := BitVec.ofNat 32 a.addr
  match s.look x h with
  | none => s.stale1 x task a
  | some v =>
    if !s.mayStep task v.ver then (s, .wait)
    else if !(s.waitersOf h).isEmpty || s.cp.named h || (handleKind h == 3 && v.st == .empty) then
      (s.tookView task v, .bad .futfault a.addr)
    else
      let s := s.inherit task v.ver
      let slot := handleSlot h
      let node := s.mayRoll task
      if handleKind h = 3 then
        if node.isSome || (Tbl.get? s.cp.tasks slot).any Task.unsettled then
          (s.modTask slot fun t => { t with dropped := true, droppedBy := node }, .done [])
        else (s.freeTask slot, .done [])
      else
        (match node with
         | some n => s.modFuture slot fun f => { f with freedBy := some n }
         | none => s.freeFuture slot, .done [])

/-- One access of an operation at the master (R293–R295). -/
def State.task1 (s : State) (c x task blk : Nat) (i : Instr) (a : Access) : State × Did :=
  match i with
  | .spawn w => s.spawn1 c x task (w.kind.getLsbD 0) a
  | .ftnew _ =>
    let (s, h) := s.makeFuture x task (BitVec.ofNat 64 (ofBytes a.data))
    (s, .done [h, 0])
  | .ftful w => s.fulfil1 x task (w.kind.getLsbD 0) a
  | .ftget w => s.read1 x task (w.kind.getLsbD 0) false a
  | .ftwait _ => s.read1 x task false true a
  | .ftdrop _ => s.drop1 x task a
  | .tnext _ =>
    match Tbl.get? s.cp.tasks task with
    | none => (s, .done [0, 0, 0, 0])
    | some t =>
      let (t, b, n) := t.next blk
      (s.modTask task fun _ => t, .done (valueWords (BitVec.ofNat 64 b) ++ valueWords (BitVec.ofNat 64 n)))
  | _ => (s, .done [])

/-- Does the operation publish first, and does it refresh after a value was returned (R287, R293)? -/
def publishes (i : Instr) : Bool :=
  match i with
  | .spawn _ => true | .ftful _ => true
  | _ => false
def refreshes (i : Instr) : Bool :=
  match i with
  | .ftget w => !w.kind.getLsbD 0
  | .ftwait _ => true
  | _ => false

/-- TNEXT's two scalar results (R294); any other result as `deliver` has it. -/
def Block.deliverTask (bk : Block) (o : MemOp) (w l : Nat) (vals : List Word) : Block :=
  match o.i with
  | .tnext x =>
    let full := fun (k : Nat) => (vals.getD k 0).setWidth 64 ||| ((vals.getD (k + 1) 0).setWidth 64 <<< 32)
    let first := match x.d with
      | .s n => n.toNat
      | .v _ => 0 | .o _ => 0 | .last _ => 0 | .z => 0
    let upd := fun (p : Pending) =>
      if p.op != o.id then p
      else match p.tgt with
        | .scalar v n => if v != w then p else { p with val := full (if n = first then 0 else 2) }
        | .row _ _ => p | .oreg _ _ _ => p | .pred _ _ _ => p
        | .none => if p.last.any fun q => q.1 == w then { p with val := (vals.headD 0).setWidth 64 } else p
    { bk with pend := bk.pend.map upd }
  | _ => bk.deliver o w l vals

/-- What an operation's accesses have done so far. -/
structure TaskRun where
  s : State
  did : List (Access × Did)

/-- Was a value of a FULL entry returned? FTGET of an entry that is not FULL returns its running value (R286, R287). -/
def State.returnedFull (s : State) (x : Nat) (did : List (Access × Did)) : Bool :=
  did.any fun p => match p.2 with
    | .done _ => (match s.look x (BitVec.ofNat 32 p.1.addr) with
      | some v => v.st == .full
      | none => false)
    | .park => false | .wait => false | .bad _ _ => false | .ends _ _ => false

/-- An operation at the master acts, as one step in ascending lane order; it stays while some access must wait (R291). -/
def State.performTask (s : State) (key id : Nat) : State :=
  match s.block? key with
  | none => s
  | some bk => match bk.core?, bk.ops.find? (·.id == id), s.cp.master with
    | some c, some o, some _ =>
      let x := bk.ctx
      let now := s.cyc
      let s0 := if publishes o.i then { s with ms := s.ms.publish s.dev c 2 } else s
      let run := (sortBy (fun (a : Access) => a.lane) o.todo).foldl (fun (r : TaskRun) a =>
        let (t, d) := r.s.task1 c x bk.task bk.blk o.i a
        { s := t, did := r.did ++ [(a, d)] }) { s := s0, did := [] }
      let walk := run.did.findSome? fun p => match p.2 with
        | .ends e va => some (e, va)
        | .done _ => none | .park => none | .wait => none | .bad _ _ => none
      match walk with
      | some (e, va) => s.endCtx x { code := e, fpc := o.pc, faddr := BitVec.ofNat 64 va, fmask := maskOf (o.todo.map (·.lane)) }
      | none =>
      if run.did.any fun p => p.2 == .wait then s.modBlock key fun bk => bk.setWaits id true
      else
        let t := run.s
        let parked := (run.did.filter fun p => p.2 == .park).map (·.1)
        let bad := run.did.filterMap fun p => match p.2 with
          | .bad e f => some ({ p.1 with addr := f }, e)
          | .done _ => none | .park => none | .wait => none | .ends _ _ => none
        let held := (run.did.filter fun p => match p.2 with
          | .bad _ _ => true
          | .done _ => false | .park => false | .wait => false | .ends _ _ => false).map (·.1)
        let t := if refreshes o.i && s.returnedFull x run.did then { t with ms := t.ms.refresh c 2 } else t
        let upd := fun (q : MemOp) =>
          if q.id == id then
            { q with todo := [], held := q.held ++ held, parked := q.parked ++ parked, waits := false,
                     arrive := some (max (q.arrive.getD 0) (max (q.issued + s.masterTime c) (now + 1))) }
          else q
        let t := t.modBlock key fun bk => { bk with ops := bk.ops.map upd }
        let t := run.did.foldl (fun (t : State) p => match p.2 with
          | .done vals => t.modBlock key fun bk =>
              let bk := bk.deliverTask o p.1.w p.1.lane vals
              bk.modThread p.1.w p.1.lane (·.release (· == .ftwait id) (t.coreNow c))
          | .park => t.setWaiters (BitVec.ofNat 32 p.1.addr)
              (t.waitersOf (BitVec.ofNat 32 p.1.addr) ++ [(key, p.1.w, p.1.lane)])
          | .wait => t | .bad _ _ => t | .ends _ _ => t) t
        (t.recordFaults key id o.pc bad).modBlock key fun bk => bk.retire (s.coreNow c)
    | _, _, _ => s

/-- A local access that waited for the memory word of its bundle takes its one step for the warp (R19, R236, R237). -/
def State.performLocal (s : State) (key id : Nat) (f : Block → Nat → Nat → Block) : State :=
  s.modBlock key fun bk => match (bk.ops.find? (·.id == id)).bind fun (o : MemOp) => o.todo.head? with
    | none => bk
    | some a => Block.retire { f bk a.addr (ofBytes a.data) with ops := bk.ops.map fun (q : MemOp) => if q.id == id then { q with todo := [] } else q }
        (s.nowOf key)

/-- An operation of the memory engine or of the master acts (R106, R291). -/
def State.perform (s : State) (key id : Nat) : State :=
  match s.block? key with
  | none => s
  | some bk => match bk.ops.find? (·.id == id) with
    | none => s
    | some o => match o.i with
      | .spawn _ => s.performTask key id
      | .tnext _ => s.performTask key id
      | .ftnew _ => s.performTask key id
      | .ftful _ => s.performTask key id
      | .ftget _ => s.performTask key id
      | .ftwait _ => s.performTask key id
      | .ftdrop _ => s.performTask key id
      | .bar _ => s.performBar key id
      | .bara _ => s.performBar key id
      | .bbini w => s.performLocal key id fun bk off n => bk.bbini w off n
      | .lnemp w => s.performLocal key id fun bk off n => bk.lnemp w off n
      | .ldl _ => s.performWindow key id
      | .stl _ => s.performWindow key id
      | .amol _ => s.performWindow key id
      | .phase w => s.performStep key id fun s c _ _ => s.phaseStep c (MWord.scope w)
      | .tlbi w => s.performStep key id fun s _ x vs => ({ s with ms := s.ms.tlbi (MWord.scope w) x vs }, 64)
      | .cflsh w => if w.kind.getLsbD 2 then s.performStep key id fun s c x _ => s.flushStep c x (MWord.scope w)
        else s.performMem key id
      | _ => s.performMem key id

/-- An operation of the task engine issues (R291). -/
def State.taskOp (s : State) (i : Instr) (d : Reg) (as : List Access) : State :=
  s.engineOp State.performTask i (if d.isScalar then [d] else d.group 1) (!(d == .z) || (match i with
    | .spawn _ => true | .ftwait _ => true
    | _ => false)) as

/-- One access of each issuing thread, or of each warp for a scalar destination (R291). -/
def State.taskAccesses (s : State) (d : Reg) (f : Nat → Nat → Access) : List Access :=
  if d.isScalar then s.warps.map fun w => f w (s.lowest w) else s.iss.grp.map fun p => f p.1 p.2

/-- An access that names the handle in a. -/
def State.handleAccess (s : State) (x : MWord) (data : Nat → Nat → List Byte) (w l : Nat) : Access :=
  s.accessOf w l (s.val w l (.reg x.a)).toNat (data w l) 0

/-! ### The words -/

/-- BAR (R292). -/
def execBar (w : MWord) (s : State) : Out :=
  let s := s.checkIssue
  let late := s.warps.filter s.warpLags
  let now := s.iss.grp.filter fun p => !late.contains p.1
  let t := now.foldl (fun (s : State) p => s.arriveOne s.iss.blk (barId w) p.1 p.2 (s.arrivalCount w p.1 p.2) true) s
  .next (t.arriveLater (.bar w) w late)

/-- BARA: the generation before the arrival of the warp's lowest lane (R291, R292). -/
def execBara (w : MWord) (s : State) : Out :=
  let s := s.checkIssue
  let late := s.warps.filter s.warpLags
  let now := s.iss.grp.filter fun p => !late.contains p.1
  let one := fun (s : State) (p : Nat × Nat) =>
    let s := if p.2 = s.lowest p.1 then s.writeScalar p.1 w.d 1 (((s.here.barrier (barId w)).gen).setWidth 64) true else s
    s.arriveOne s.iss.blk (barId w) p.1 p.2 (s.arrivalCount w p.1 p.2) false
  .next ((now.foldl one s).arriveLater (.bara w) w late)

/-- BARW (R292). -/
def execBarw (w : MWord) (s : State) : Out :=
  let s := s.checkIssue
  let id := barId w
  let gen := (s.here.barrier id).gen
  .next (s.iss.grp.foldl (fun (s : State) (p : Nat × Nat) =>
    if s.val p.1 p.2 (.reg w.a) = gen then s.holdThread p.1 p.2 (.bar id gen) else s) s)

/-- SPAWN (R293). -/
def execSpawn (w : MWord) (s : State) : Out :=
  let s := s.checkIssue
  .next (s.taskOp (.spawn w) w.d (s.iss.grp.map fun p =>
    s.accessOf p.1 p.2 (globalAddr (s.addr p.1 p.2 w.a) 0 w.imm) [] 0))

/-- TNEXT (R294). -/
def execTnext (w : MWord) (s : State) : Out :=
  let s := s.checkIssue
  .next (s.taskOp (.tnext w) w.d (s.taskAccesses w.d fun v l => s.accessOf v l 0 [] 0))

/-- FTNEW (R295). -/
def execFtnew (w : MWord) (s : State) : Out :=
  let s := s.checkIssue
  .next (s.taskOp (.ftnew w) w.d (s.taskAccesses w.d fun v l => s.accessOf v l 0 (toBytes 8 (s.val v l (.reg w.b)).toNat) 0))

/-- FTFUL (R295). -/
def execFtful (w : MWord) (s : State) : Out :=
  let s := s.checkIssue
  .next (s.taskOp (.ftful w) w.d (s.iss.grp.map fun p =>
    s.handleAccess w (fun v l => if w.b.isScalar then toBytes 8 (s.val64 v l w.b).toNat
      else toBytes 8 (s.val v l (.reg w.b)).toNat) p.1 p.2))

/-- FTGET (R295). -/
def execFtget (w : MWord) (s : State) : Out :=
  let s := s.checkIssue
  .next (s.taskOp (.ftget w) w.d (s.taskAccesses w.d (s.handleAccess w fun _ _ => [])))

/-- FTWAIT (R295). -/
def execFtwait (w : MWord) (s : State) : Out :=
  let s := s.checkIssue
  .next (s.taskOp (.ftwait w) w.d (s.taskAccesses w.d (s.handleAccess w fun _ _ => [])))

/-- FTDROP (R295). -/
def execFtdrop (w : MWord) (s : State) : Out :=
  let s := s.checkIssue
  .next (s.taskOp (.ftdrop w) w.d (s.iss.grp.map fun p => s.handleAccess w (fun _ _ => []) p.1 p.2))

/-- RESAMP: each issuing thread arrives with its weight and u, and is held (R299, R300). -/
def execResamp (w : MWord) (s : State) : Out :=
  let s := s.checkIssue
  .next (if s.iss.grp.isEmpty then s
    else
      let id := s.seq
      let as := s.iss.grp.map fun p =>
        s.accessOf p.1 p.2 0 (toBytes 4 (s.val p.1 p.2 (.reg w.a)).toNat) (s.val p.1 p.2 (.reg w.b))
      let s := { s.open w.d with seq := id + 1 }
      let s := s.iss.grp.foldl (fun (s : State) (p : Nat × Nat) =>
        (s.postGroup id p.1 p.2 (w.d.group 1) true).holdThread p.1 p.2 (.resamp id)) s
      let o : MemOp := { id, i := .resamp w, pc := s.iss.addr, issued := s.cyc, coreAt := s.now, todo := [], held := [], parked := as, arrive := none }
      s.modHere fun bk => { bk with ops := bk.ops ++ [o] })

/-- RAND (R296). -/
def execRand (w : MWord) (s : State) : Out :=
  let s := s.checkIssue
  let x := fun (v l : Nat) =>
    let uid := (s.snap.thread v l).uid
    rand s.snap.lpb.seed ((uid.setWidth 64 <<< 32) + (s.val v l (.reg w.a) + w.imm.signExtend 32).setWidth 64)
  .next (if w.d.isScalar then (s.perWarp w.d 4 fun v => x v (s.lowest v)).holdFor 4
    else s.perLane w.d 4 fun v l => if w.kind.getLsbD 0 then (x v l >>> 32).setWidth 32 else (x v l).setWidth 32)

end Sys2Proof.Machine
end

