-- ==== Sys2Proof/Machine/MemEvents.lean ====
section
/-! DEFINITION. Sys2Proof/Machine/MemEvents.lean: the events of threads, results, translation and the views. An event that is not enabled leaves the
machine as it is. -/

namespace Sys2Proof.Machine

open Sys2Proof

/-! ### Handler entry (R144, R145, R234) -/

/-- The live lanes of a warp whose threads satisfy p. -/
def Block.lanesWith (bk : Block) (w : Nat) (p : Thread → Bool) : Word := maskOf ((bk.liveLanes w).filter fun l => p (bk.thread w l))

/-- A thread takes its pending trap, once no earlier operation of it awaits translation or ERET (R144). -/
def State.enterTrap (s : State) (b w l : Nat) (bk : Block) (c : Nat) (e : Entry) : State :=
  let t := bk.thread w l
  if t.memFault.isNone && t.recorded.isNone && !bk.untranslated w l && !s.reqUntranslated c b w l then
    (s.modThread b w l fun t => { t with trap := none }).takeFault b w l e
  else s

/-- A thread at user level takes LATE, with the promise (R234). -/
def State.enterLate (s : State) (b w l : Nat) (bk : Block) (p : DWord) : State :=
  let t := bk.thread w l
  if t.level == .user then
    let e : Entry := { code := .late, fpc := t.pc, faddr := p,
                       fmask := bk.lanesWith w fun x => x.level == .user && x.lates.head? == some p }
    (s.modThread b w l fun t => { t with lates := t.lates.tail }).takeFault b w l e
  else s

/-- Does a block drain for a relocation, or stand between two cores (R244, R314)? -/
def Block.pausing (bk : Block) : Bool :=
  (match bk.drain with
   | some (.toCore _ _) => true | some (.toTrunk _ _) => true
   | some (.ending _) => false
   | none => false) ||
  (match bk.place with
   | .core _ => false
   | .moving _ _ _ => true | .trunk _ _ _ _ _ => true)

/-- The next entry a thread makes: its pending trap, else a LATE, which a block that drains for a relocation takes where it
arrives (R144, R145, R234, R315). -/
def State.enter1 (s : State) (b w l : Nat) : State :=
  match s.block? b with
  | none => s
  | some bk => match bk.core? with
    | none => s
    | some c =>
      let t := bk.thread w l
      if !t.live then s
      else match t.trap, t.lates with
        | some e, _ => s.enterTrap b w l bk c e
        | none, p :: _ => if t.memFault.isNone && !bk.pausing then s.enterLate b w l bk p else s
        | none, [] => s

/-! ### Translation (R204, R223, R231) -/

/-- The addresses of n bytes: translated, or the first that fails with its code. -/
def State.xlatBytes (s : State) (c x : Nat) (lv : Level) (n : Need) (va k : Nat) : Except (Code × Nat) (List Nat) :=
  (List.range k).foldr (fun i acc =>
    match s.translate c x lv n ((va + i) % 2 ^ 64), acc with
    | .ok p, .ok r => .ok (p :: r)
    | .error e, _ => .error (e, (va + i) % 2 ^ 64)
    | .ok _, .error e => .error e) (.ok [])

/-- Translation of one part; CPYL's global address must be a multiple of its length, and its part keeps its addresses where another
lane's faulted (R231, R238). -/
def State.xlatPart (s : State) (c x : Nat) (r : CopyReq) (p : Part) : Except (Code × Nat) Part :=
  if p.dropped || (!r.box && !(p.spa.isEmpty && p.dpa.isEmpty)) then .ok p
  else
    let side := fun (d : Side) (n : Need) (k : Nat) => match d with
      | .win _ _ => Except.ok []
      | .glob va => if !r.box && va % p.n != 0 then .error (.access, va) else s.xlatBytes c x r.level n va k
    let sn := match p.src with
      | none => Except.ok []
      | some d => side d .load (r.kind.srcLen p.n)
    let dn := match r.kind with
      | .accum _ _ _ => Need.atomic
      | .plain => .store | .gather _ _ _ _ _ => .store | .quant _ _ => .store
    match sn, side p.dst dn p.n with
    | .ok a, .ok b => .ok { p with spa := a, dpa := b }
    | .error e, _ => .error e
    | .ok _, .error e => .error e

/-- The leaves a part uses are cached (R203). -/
def State.cachePart (s : State) (c x : Nat) (p : Part) : State :=
  let one := fun (s : State) (d : Side) => match d with
    | .glob va => s.cached c x va
    | .win _ _ => s
  one (match p.src with | some d => one s d | none => s) p.dst

/-- Faults of a request: each named lane records one, and the request waits for their return (R231). -/
def State.reqFault (s : State) (c : Nat) (r : CopyReq) (bad : List (Nat × Code × Nat)) : State :=
  let lanes := bad.map (·.1)
  let s := bad.foldl (fun (s : State) x =>
    let same := maskOf ((bad.filter fun y => y.2.1 == x.2.1).map (·.1))
    s.foundFault r.b r.w x.1 r.id r.level { code := x.2.1, fpc := r.pc, faddr := BitVec.ofNat 64 x.2.2, fmask := same }) s
  let upd := fun (q : CopyReq) => if q.id == r.id then { q with state := .faulted (maskOf lanes), again := false, redone := true, back := [] } else q
  let s := s.modCore c fun k => { k with copyQ := k.copyQ.map upd }
  let gone := match s.block? r.b with
    | some bk => lanes.filter fun l => !(bk.thread r.w l).live
    | none => lanes
  gone.foldl (fun (s : State) l => s.answerReqs c r.b r.w l 0 false true) s

/-- The live lanes of a request's warp that it names. -/
def State.reqLanes (s : State) (r : CopyReq) : List Nat :=
  (List.range 32).filter fun l => r.lanes.getLsbD l && (match s.block? r.b with
    | some bk => (bk.thread r.w l).live
    | none => false)

/-- A box request faults for every live lane; with no thread left it is discarded (R231). -/
def State.boxFault (s : State) (c : Nat) (r : CopyReq) (e : Code × Nat) : State :=
  let ls := s.reqLanes r
  if ls.isEmpty then s.modReq c r.id fun q => { q with state := .queued, parts := q.parts.map Part.discard }
  else s.reqFault c r (ls.map fun l => (l, e.1, e.2))

/-- Is a request a BCPYG's, whose rows are read, and translated, at Start (R241)? -/
def CopyReq.isGather (r : CopyReq) : Bool :=
  match r.kind with
  | .gather _ _ _ _ _ => true
  | .plain => false | .accum _ _ _ => false | .quant _ _ => false

/-- An operation of a block performs, if it stands in line (R19, R106). -/
def State.tryOp (s : State) (b q : Nat) : State :=
  match s.block? b with
  | some bk => if bk.inLine q then s.perform b q else s
  | none => s

/-- The earlier operations of a request's threads that await translation (R19, R32). -/
def Block.opsBefore (bk : Block) (r : CopyReq) : List Nat :=
  (bk.ops.filter fun o => decide (o.id < r.id) && o.todo.any fun a => a.w == r.w && r.lanes.getLsbD a.lane).map (·.id)

/-- Every fresh promise that is due to be taken is taken (R231). -/
def State.payAll (s : State) : State :=
  s.cores.foldl (fun (s : State) p => s.payCore p.1) s

/-- A request's global bytes are translated, once no earlier operation of its threads awaits translation (R19, R223, R231). -/
def State.xlatReq (s : State) (c q : Nat) : State :=
  let s := s.payPromise c q
  match (s.core c).copyQ.find? fun r => r.id == q && r.state == .untranslated with
  | none => s
  | some r => match s.block? r.b with
    | none => s
    | some bk =>
      let x := bk.ctx
      if r.isGather || !(bk.opsBefore r).isEmpty then s else
      let tr := r.parts.map fun p => (p, s.xlatPart c x r p)
      let s := r.parts.foldl (fun s p => s.cachePart c x p) s
      let bad := tr.filterMap fun p => match p.2 with
        | .error e => some (p.1.lane, e.1, e.2)
        | .ok _ => none
      match bad with
      | [] =>
        let parts := tr.map fun p => match p.2 with
          | .ok y => y
          | .error _ => p.1
        s.modReq c q fun r => { r with state := .queued, again := false, parts }
      | e :: _ => match bad.find? fun y => y.2.1 == .memue || y.2.1 == .integrity with
        | some y => s.endCtx x { code := y.2.1, fpc := r.pc, faddr := BitVec.ofNat 64 y.2.2, fmask := r.lanes }
        | none => if r.box then s.boxFault c r (e.2.1, e.2.2)
          else
            let parts := tr.map fun p => match p.2 with
              | .ok y => y
              | .error _ => p.1
            (s.modReq c q fun r => { r with parts }).reqFault c r bad

/-! ### Memory faults (R106, R309) -/

/-- A thread takes a memory fault found for it: the operation is recorded, with the resume address (R106). -/
def State.detect (s : State) (b w l : Nat) : State :=
  match s.block? b with
  | none => s
  | some bk =>
    let t := bk.thread w l
    match t.memFault, bk.core? with
    | some (id, e), some _ =>
      if !t.live || bk.drain.isSome then s
      else (s.modThread b w l fun t => { t with memFault := none, recorded := some id, resume := t.pc }).raise b w l e
    | some _, none => s
    | none, _ => s

/-! ### Arrival of results (R95, R353) -/

/-- The results of an operation that have their values arrive: they land at the start of the first core cycle that begins in the
next chip cycle or later, in the order of R95 with what else lands there (R353). -/
def State.arriveOp (s : State) (b q : Nat) : State :=
  match s.block? b with
  | none => s
  | some bk => match bk.ops.find? (·.id == q) with
    | none => s
    | some o => match o.arrive with
      | none => s
      | some a =>
        if s.cyc + 1 < a then s
        else
          let left := o.todo ++ o.held ++ o.parked
          let due := match bk.core? with
            | some c => s.coreCycleAt c (s.cyc + 1)
            | none => 0
          let upd := fun (p : Pending) =>
            if p.op == q && p.due.isNone && !left.any fun x => p.needs o x then { p with due := some due } else p
          let upo := fun (y : MemOp) => if y.id == q then { y with arrive := none } else y
          s.modBlock b fun bk => Block.retire { bk with pend := bk.pend.map upd, ops := bk.ops.map upo } (s.nowOf b)

/-! ### Register repair (R324) -/

/-- A register word's value is restored and its parity error cleared. -/
def Block.mend (bk : Block) (w l : Nat) (r : Reg) (v : Word) : Block :=
  match r with
  | .v _ => match bk.rowOf w r with
    | some k => bk.modRow k fun x => { x with vals := Tbl.putD x.vals l 0 v, err := setBit x.err l false }
    | none => bk
  | .o n => bk.modThread w l fun t => { t with o := Tbl.putD t.o n.toNat 0 v, oErr := t.oErr &&& ~~~(1#8 <<< n.toNat) }
  | .last p => bk.modThread w l fun t => t.setLast (match p with | .la => 1 | .lb => 2 | .lc => 3) v
  | .z => bk | .s _ => bk

/-- Where the threads of warp w stand that read a word of lane l which the replay queue can repair (R192, R324). -/
def State.reader (s : State) (c : Nat) (bk : Block) (w l : Nat) (r : Reg) : Option DWord :=
  (bk.addressesOf w).find? fun a =>
    let ws := (s.fetch c bk w (bk.fragment w a) a).words
    (bk.fragment w a).any fun k => (repairs bk ws w k).contains (l, r)

/-- The word that a fragment reads is rebuilt from the replay queue, and counted; the fragment is held for 24 cycles (R324). -/
def State.repair (s : State) (b w l : Nat) (r : Reg) : State :=
  match s.block? b with
  | none => s
  | some bk => match bk.core? with
    | none => s
    | some c => match s.reader c bk w l r, bk.replayOf w l r with
      | some a, some v =>
        let till := s.coreNow c + 24
        (s.modBlock b fun bk => (bk.mend w l r v).modThreads ((bk.fragment w a).map fun k => (w, k)) fun t =>
          { t with ready := max t.ready till }).modCtx bk.ctx fun x => { x with corrected := x.corrected + 1 }
      | none, _ => s
      | some _, none => s

/-- The repairs that alone keep the fragment of warp w at an address from its issue are made (R324). -/
def State.repairAt (s : State) (c b w : Nat) (a : DWord) : State :=
  match s.block? b with
  | none => s
  | some bk =>
    let lanes := bk.fragment w a
    let ws := (s.fetch c bk w lanes a).words
    if (s.fragWaits c b bk w a lanes).all (· == .repair) then
      (lanes.flatMap (repairs bk ws w)).foldl (fun (s : State) x => s.repair b w x.1 x.2) s
    else s

/-- A core cycle of core c begins: the fragments that wait for nothing but a repair have it made (R324). -/
def State.repairCore (s : State) (c : Nat) : State :=
  (s.blocksOn c).foldl (fun (s : State) p =>
    if s.coreOpen c p.2 then (Tbl.keys p.2.warps).foldl (fun s w => (p.2.addressesOf w).foldl (fun s a => s.repairAt c p.1 w a) s) s
    else s) s

/-! ### Holds that end by time or by the engines (R210, R211, R217, R218, R236, R264, R355) -/

/-- The threads of a warp held like one of them. -/
def Block.heldLike (bk : Block) (w : Nat) (h : Hold) : List (Nat × Nat) :=
  ((bk.liveLanes w).filter fun l => (bk.thread w l).holds.contains h).map fun l => (w, l)

/-- BBWT passes: d := rem lands in 1 cycle, and the threads may issue 2 cycles after the count (R236). It comes after its
threads' earlier memory words (R19). -/
def State.passBbwt (s : State) (b w : Nat) (bk : Block) (c off : Nat) (d : Reg) (pos : Nat) : State :=
  let rem := bk.remOf off
  let ps := bk.heldLike w (.bbwt off d pos)
  if rem > 0 || ps.any fun p => bk.untranslated p.1 p.2 then s
  else
    let v := BitVec.ofInt 64 rem
    let due := some (s.coreNow c + 1)
    let s := match d with
      | .s n => s.post b 0 due (.scalar w n.toNat) v none
      | .v _ => s | .o _ => s | .last _ => s | .z => s
    let s := ps.foldl (fun (s : State) p => s.post b 0 due .none v (some (w, p.2, pos))) s
    s.modBlock b fun bk => bk.modThreads ps fun t =>
      { t with holds := t.holds.filter (· != .bbwt off d pos), ready := max t.ready (s.coreNow c + 2) }

/-- Have the requests FENCEL waits for advanced (R211)? -/
def State.fenceOver (s : State) (c : Nat) (done : Bool) (reqs : List Nat) : Bool :=
  ((s.core c).copyQ.all fun r => !reqs.contains r.id || (!done && r.state == .started)) &&
  ((s.core c).matQ.all fun r => !reqs.contains r.id || (!done && r.start.isSome))

/-- A hold of a thread gives way to others. -/
def Thread.swapHold (t : Thread) (h : Hold) (l : List Hold) : Thread :=
  { t with holds := (t.holds.filter (· != h)) ++ l }

/-- A hold of one thread, on core c, ends if its condition is met. -/
def State.endHold (s : State) (b w l c : Nat) (h : Hold) : State :=
  match s.block? b with
  | none => s
  | some bk =>
    let free := s.modThread b w l (·.swapHold h [])
    match h with
    | .until n => if n ≤ s.cyc then free else s
    | .untilCore n => if n ≤ s.coreNow c then free else s
    | .bbwt off d pos => s.passBbwt b w bk c off d pos
    | .fencel done reqs => if s.fenceOver c done reqs && bk.carried.all fun r => !reqs.contains r.id then free else s
    | .accsv m =>
      if (s.core c).matQ.isEmpty then
        let (s, n) := s.accsv c (s.core c).accown m.toNat
        s.modBlock b fun bk => bk.modThreads (bk.heldLike w h) (·.swapHold h [.untilCore (s.coreNow c + n)])
      else s
    | .scalar op => if bk.ops.any fun o => o.id == op then s else free
    | .cross _ _ => if bk.holdOver w h then free else s
    | .jwait _ => s | .pantry _ => s | .ftwait _ => s | .bar _ _ => s | .resamp _ => s

/-- Each hold of one thread ends if its condition is met. -/
def State.releaseHold (s : State) (b w l : Nat) : State :=
  match s.block? b with
  | none => s
  | some bk => match bk.core? with
    | none => s
    | some c => (bk.thread w l).holds.foldl (fun s h => s.endHold b w l c h) s

/-! ### Steps of the views (R20, R21, R25) -/

/-- The number of a level, and a core whose path holds the unit of that level. -/
def viewNum (lv : ViewLevel) : Nat := match lv with | .v => 0 | .g => 1 | .d => 2
def viewCore (lv : ViewLevel) (u : Nat) : Nat := match lv with | .v => u | .g => 8 * u | .d => 0

/-- The bytes of a line. -/
def inLineOf (line a : Nat) : Bool := lineOf a == lineOf line

/-! ### The events -/

/-- EMPTY_BUNDLE: a bundle of no words issues (R31). -/
def execEmptyBundle (s : State) : Out := .next s.checkIssue

/-- HANDLER_ENTRY (R144, R145, R234). -/
def execHandlerEntry (b w l : Nat) (s : State) : Out := .next (s.enter1 b w l)

/-- TRANSLATION of an operation of a block, or of a request of a core's copy queue (R106, R223). -/
def execTranslation (t : Xlat) (s : State) : Out :=
  .next (match t with
    | .mem b q => s.tryOp b q
    | .req c q => s.xlatReq c q)

/-- MEMORY_FAULT_DETECTION (R106, R309). -/
def execMemoryFaultDetection (b w l : Nat) (s : State) : Out := .next (s.detect b w l)

/-- LOAD_ARRIVAL (R353). -/
def execLoadArrival (b q : Nat) (s : State) : Out := .next (s.arriveOp b q)

/-- REGISTER_REPAIR (R324). -/
def execRegisterRepair (b w l : Nat) (r : Reg) (s : State) : Out := .next (s.repair b w l r)

/-- MEMORY_HOLD_RELEASE (R210, R211, R217, R218, R236, R264, R355). -/
def execMemoryHoldRelease (b w l : Nat) (s : State) : Out := .next (s.releaseHold b w l)

/-- MOVE: the unpublished bytes of one line go from a view to the next level, a writeback of the context that evicts it (R20, R21, R25,
R220; log 21). -/
def execMove (lv : ViewLevel) (u line : Nat) (s : State) : Out :=
  let dirty := unpublished (s.ms.view (viewCore lv u) (viewNum lv)) (inLineOf line)
  let t : State := { s with ms := s.ms.moveAll s.dev (viewCore lv u) (viewNum lv) (inLineOf line) }
  .next (if dirty.isEmpty then t else t.charge (Config.evictor (lineOf line) s.cyc) 3 128)

/-- FILL: the absent bytes of one line come from the next level (R20, R21). -/
def execFill (lv : ViewLevel) (u line : Nat) (s : State) : Out :=
  .next (if (viewNum lv) ≥ truthLevel s.dev line then s else { s with ms := s.ms.fillLine s.dev (viewCore lv u) (viewNum lv) line })

/-- DROP: the clean bytes of one line leave a view (R20, R21). -/
def execDrop (lv : ViewLevel) (u line : Nat) (s : State) : Out :=
  .next { s with ms := s.ms.dropAt (viewCore lv u) (viewNum lv) (inLineOf line) }

/-- The context whose fragment on core c misses a bundle in the instruction cache, and the fragment's address (R220). -/
def State.misser (s : State) (c pa : Nat) : Option (Nat × DWord) :=
  (s.blocksOn c).findSome? fun p => (p.2.live.findSome? fun q =>
    let a := (p.2.thread q.1 q.2).pc
    match s.fetch c p.2 q.1 (p.2.fragment q.1 a) a with
    | .miss y => if y == pa then some a else none
    | .none => none | .bad _ => none | .got _ => none).map fun a => (p.2.ctx, a)

/-- ICACHE_FILL: a bundle is read from the truth (R354), unless its sector cannot be read (R352); the fill of its home slice and
those of its address's walk are charged to the context that missed it (R220). -/
def execIcacheFill (c pa : Nat) (s : State) : Out :=
  if (s.ms.sectorFault s.dev ((List.range 32).map (pa + ·))).isSome then .next s else
  let b : BundleBits := BitVec.ofNat 256 (ofBytes (Memory.reads s.ms.truth pa 32))
  let s := match s.misser c pa with
    | some (x, a) => (s.cached c x a.toNat).chargeSlice x (truthLevel s.dev pa) pa
    | none => s
  .next { s with ms := { s.ms with icache := Tbl.modD s.ms.icache c [] fun t => Tbl.put t pa b } }

/-- ICACHE_DROP: the device drops a line of the instruction cache (R354). -/
def execIcacheDrop (c pa : Nat) (s : State) : Out :=
  .next { s with ms := { s.ms with icache := Tbl.mod s.ms.icache c fun t => t.filter fun e => lineOf e.1 != lineOf pa } }

end Sys2Proof.Machine
end

