-- ==== Sys2Proof/Machine/EngineEvents.lean ====
section
/-! DEFINITION. Sys2Proof/Machine/EngineEvents.lean: the steps of copy and matrix requests after their issue, and the engine's own moves of tiles
(R26, R231–R267, R356). -/

namespace Sys2Proof.Machine

open Sys2Proof

/-! ### Start of a copy request (R26, R231, R241) -/

/-- The request q of core c's queue, with those before it. -/
def State.findReq (s : State) (c q : Nat) : Option (CopyReq × List CopyReq) :=
  ((s.core c).copyQ.find? (·.id == q)).map fun r => (r, (s.core c).copyQ.takeWhile fun x => x.id != q)

/-- BCPYG reads its indices: each part with its source row, or the fault of the first element that fails (R241). -/
def State.resolve1 (s : State) (c x : Nat) (bk : Block) (r : CopyReq) (p : Part) : Except (Code × Nat) Part :=
  match r.kind, p.src with
  | .gather idx stride ext zf _, some (.glob a) =>
    if p.dropped then .ok p
    else
      let v := indexAt bk idx p.row
      if v = 0xFFFFFFFF then .ok { p with src := none }
      else if v ≥ ext then (if zf then .ok { p with src := none } else .error (.bounds, p.row))
      else
        let va := rowAddr a p.n v stride
        match s.xlatBytes c x r.level .load va p.n with
        | .ok pas => .ok { p with src := some (.glob va), spa := pas }
        | .error e => .error e
  | _, _ => .ok p

/-- The parts of a request ready to be read, or the fault of the first that fails. -/
def State.resolve (s : State) (c x : Nat) (bk : Block) (r : CopyReq) : Except (Code × Nat) (List Part) :=
  r.parts.foldr (fun p acc => match s.resolve1 c x bk r p, acc with
    | .ok y, .ok l => .ok (y :: l)
    | .error e, _ => .error e
    | .ok _, .error e => .error e) (.ok [])

/-- The bytes a part reads, once its global bytes are filled into V(c) (R26). -/
def State.sourceBytes (s : State) (c : Nat) (bk : Block) (r : CopyReq) (p : Part) : List Byte :=
  match p.src with
  | none => []
  | some (.win _ off) => bk.winRead off (r.kind.srcLen p.n)
  | some (.glob _) => p.spa.map fun a => (s.ms.peek s.dev c 0 a).val

/-- A block of 32 elements for BCPYQ: the scale byte and the codes (R243). -/
def quantBlock (out : Nat) (xs : List Fp) : Nat × List Nat :=
  let wide := fun (x : Fp) => match x with
    | .nan => true | .inf _ => true | .fin _ _ _ => false
  let mags := xs.map fun x => match x with
    | .nan => none | .inf _ => none
    | .fin _ m e => if m = 0 then none else some ((Nat.log2 m : Int) + e)
  if xs.any wide then (0xFF, xs.map fun _ => if out = 3 then 0x7F else 0x80)
  else
    let top := mags.foldl (fun (acc : Option Int) y => match acc, y with
      | none, y => y
      | some a, none => some a
      | some a, some b => some (if a < b then b else a)) none
    match top with
    | none => (0x7F, xs.map fun _ => 0)
    | some lead =>
      let e := lead - (if out = 3 then 8 else 0)
      let scale : Nat := min (e + 127).toNat 254
      (scale, xs.map fun x => convertCode out .rn false (x.scale (127 - (scale : Int))))

/-- The data of a BCPYQ request's parts: element parts, then scale parts (R243). -/
def quantData (fmt out : Nat) (srcs : List (List Byte)) : List (List Byte) :=
  let n := srcs.length * 32 / 33
  let xs := (srcs.take n).map fun bs => if bs.isEmpty then Fp.fin false 0 0 else widenCode fmt (ofBytes bs)
  let blocks := (List.range (n / 32)).map fun k => quantBlock out ((xs.drop (32 * k)).take 32)
  ((blocks.flatMap (·.2)).map fun q => toBytes 1 q) ++ blocks.map fun b => toBytes 1 b.1

/-- The data of every part after Start (R238–R243): zeros where nothing is read. -/
def startData (r : CopyReq) (srcs : List (List Byte)) : List (List Byte) :=
  let pad := fun (p : Part) (bs : List Byte) (n : Nat) => if bs.isEmpty || p.dropped then List.replicate n 0 else bs
  match r.kind with
  | .quant fmt out => if r.parts.all fun p => p.dropped then r.parts.map fun p => List.replicate p.n 0 else quantData fmt out srcs
  | .plain => (r.parts.zip srcs).map fun x => pad x.1 x.2 x.1.n
  | .gather _ _ _ _ _ => (r.parts.zip srcs).map fun x => pad x.1 x.2 x.1.n
  | .accum _ _ _ => (r.parts.zip srcs).map fun x => pad x.1 x.2 4

/-! ### Delivery (R26, R229, R231, R235, R242, R244) -/

/-- The newest version of each byte of a part's global destination. -/
def State.dstVersions (s : State) (c : Nat) (p : Part) : List (Option Nat) := p.dpa.flatMap fun a => s.versions c a

/-- Has part y delivered the byte that is byte i of part p? -/
def Part.gave (y p : Part) (i : Nat) : Bool :=
  match p.dst, y.dst with
  | .win b o, .win d q => b == d && decide (q ≤ o + i) && decide (o + i < q + y.n) && (y.done || y.got.testBit (o + i - q))
  | .glob _, .glob _ => (match p.dpa[i]? with
    | some a => (List.range y.n).any fun k => y.dpa[k]? == some a && (y.done || y.got.testBit k)
    | none => false)
  | .win _ _, .glob _ => false
  | .glob _, .win _ _ => false

/-- The bytes of a part that a Deliver step with a mask of bytes delivers: those of the mask not delivered yet; an element of
BCPYA whole, and what is left of a discarded part at once (R26, R231, R242). -/
def freshBytes (r : CopyReq) (p : Part) (mask : Nat) : List Bool :=
  let whole := p.dropped || (match r.kind with
    | .accum _ _ _ => true
    | .plain | .gather _ _ _ _ _ | .quant _ _ => false)
  (List.range p.n).map fun i => !p.got.testBit i && (whole || mask.testBit i)

/-- Of those bytes the ones that no later part has already delivered: on shared bytes the later part's value remains (R229,
R238), a scale byte over an element's (log 165, DESIGN CHOICE). -/
def keepMask (r : CopyReq) (n : Nat) (p : Part) (mask : Nat) : List Bool :=
  (freshBytes r p mask).zipIdx.map fun y =>
    y.1 && !(r.parts.zipIdx.any fun x => decide (x.2 > n) && !x.1.dropped && x.1.gave p y.2)

/-- How many of those bytes no other part has delivered: a byte of the request counts once, an element of BCPYA for
itself (R235, R242). DEDUCED (log 104). -/
def newBytes (r : CopyReq) (n : Nat) (p : Part) (mask : Nat) : Nat :=
  match r.kind with
  | .accum _ _ _ => p.n
  | .plain | .gather _ _ _ _ _ | .quant _ _ =>
    ((freshBytes r p mask).zipIdx.filter fun y => y.1 && !(r.parts.zipIdx.any fun x => x.2 != n && x.1.gave p y.2)).length

/-- BCPYA's new value of one element (R242). -/
def accumNew (fmt seed ctr : Nat) (x old : Word) : Word :=
  let r := (rand (BitVec.ofNat 64 seed) (BitVec.ofNat 64 ctr)).toNat % 2 ^ 32
  BitVec.ofNat 32 (convertCode fmt (.rs r) false
    (Fp.add false (widenCode fmt (old.toNat % 2 ^ (8 * fmtBytes fmt))) (f32.val x.toNat)))

/-- The global bytes that a request has delivered once a step delivers some more of part n (R26). -/
def delivered (r : CopyReq) (n : Nat) (fresh : List Bool) : List Nat :=
  r.parts.zipIdx.flatMap fun x => (x.1.dpa.zipIdx.filter fun y =>
    x.1.done || x.1.got.testBit y.2 || (x.2 == n && fresh.getD y.2 false)).map (·.1)

/-- The global bytes of a part are written into the truth, and clean copies of them on the path are dropped; a sector that the request has
now written whole is replaced (R26, R242, R327, R352). The lines of BCPYA's destination are asked of their home slices (R220). -/
def State.deliverGlob (s : State) (c : Nat) (r : CopyReq) (n : Nat) (p : Part) (mask : Nat) : State :=
  let task := ((s.block? r.b).map (·.task)).getD 0
  let effect := s.effectOf task
  match r.kind with
  | .accum seed ctr fmt =>
    let y : Word := BitVec.ofNat 32 (ofBytes p.data)
    let s := s.saw task (s.effectsAt c 3 p.dpa)
    let other := delivered r n []
    let x := ((s.block? r.b).map (·.ctx)).getD 0
    let s := (((p.dpa.map lineOf).dedup).filter fun ln => !other.any fun a => lineOf a == ln).foldl (fun (s : State) ln =>
      s.chargeSlice x (truthLevel s.dev ln) ln) s
    { s with ms := (s.ms.rmw s.dev c 3 p.dpa (accumNew fmt seed (ctr + p.j) y) r.node).1.markEffects c p.dpa effect }
  | _ =>
    let keep := keepMask r n p mask
    let m := ((p.dpa.zip p.data).zip keep).foldl (fun (m : MemSys) y =>
      if y.2 then m.writeTruth y.1.1 y.1.2 r.node effect else m) s.ms
    let fresh := freshBytes r p mask
    let gone := ((p.dpa.zip fresh).filter (·.2)).map (·.1)
    { s with ms := (m.dropBelow c 3 gone.contains).heal (delivered r n fresh) }

/-- The window bytes of a part are written, and its lines become full when the request has no byte left there (R224). -/
def State.deliverWin (s : State) (r : CopyReq) (n b off : Nat) (p : Part) (mask : Nat) : State :=
  let keep := keepMask r n p mask
  let fresh := freshBytes r p mask
  let left := fun (line : Nat) => r.parts.zipIdx.any fun x => !x.1.done && (match x.1.dst with
    | .win d q => d == b && (List.range x.1.n).any fun i =>
        (q + i) / 128 == line && !x.1.got.testBit i && !(x.2 == n && fresh.getD i false)
    | .glob _ => false)
  s.modBlock b fun bk =>
    let bk := ((p.data.zip keep).zipIdx).foldl (fun (k : Block) y =>
      if y.1.2 then k.winWrite (off + y.2) [y.1.1] else k) bk
    (linesOf off p.n).foldl (fun k ln => if left ln then k else k.unmarkLine ln r.id) bk

/-- The barrier a part counts on: in the receiving block's window, for global bytes in the issuing block's (R235). -/
def State.countPart (s : State) (r : CopyReq) (n : Nat) (p : Part) (mask : Nat) : State :=
  match r.bar with
  | none => s
  | some off => match p.dst with
    | .win b _ => s.modBlock b fun bk => bk.countDown off (newBytes r n p mask)
    | .glob _ => if p.dropped then s else s.modBlock r.b fun bk => bk.countDown off (newBytes r n p mask)

/-- A part after some bytes are delivered. -/
def Part.after (p : Part) (fresh : List Bool) : Part :=
  let got := fresh.zipIdx.foldl (fun (m : Nat) y => if y.1 then m ||| 2 ^ y.2 else m) p.got
  { p with got, done := decide (got = 2 ^ p.n - 1) }

/-- One Deliver step: the bytes of a mask of part n of a started request; the request is complete with its last byte (R26). -/
def State.deliverPart (s : State) (c q n mask : Nat) : State :=
  match s.findReq c q with
  | none => s
  | some (r, _) => match r.parts[n]? with
    | none => s
    | some p =>
      if p.done then s
      else
        let s := match p.dst with
          | .win b off => s.deliverWin r n b off p mask
          | .glob _ => if p.dropped then s else s.deliverGlob c r n p mask
        let s := s.countPart r n p mask
        let parts := r.parts.zipIdx.map fun x => if x.2 = n then x.1.after (freshBytes r p mask) else x.1
        if parts.all (·.done) then s.modCore c fun k => { k with copyQ := k.copyQ.filter fun x => x.id != q }
        else s.modReq c q fun x => { x with parts }

/-- May the destination of a part be written now: its window is not on the move, and R328, R331 and R352 let the global
bytes be written (R244)? A window that drains takes the bytes of a request whose own block drains too, since both must
complete (R107; log 75, DEDUCED). -/
def State.mayDeliver (s : State) (c : Nat) (r : CopyReq) (p : Part) : Bool :=
  match p.dst with
  | .win b _ => (match s.block? b with
    | none => true
    | some bk => (match bk.place with
      | .core _ => !bk.pausing || b == r.b || (match s.block? r.b with
        | some y => y.drain.isSome
        | none => true)
      | .moving _ _ _ => false
      | .trunk _ _ _ _ _ => true))
  | .glob _ => p.dropped || (match s.block? r.b with
    | none => true
    | some bk => (s.dstVersions c p).all fun v => s.mayStep bk.task v)

/-- COPY_DELIVER's step, when it is allowed (R26, R327, R331, R352). -/
def State.copyStep (s : State) (c q n mask : Nat) : State :=
  match s.findReq c q with
  | none => s
  | some (r, _) => match r.parts[n]?, s.block? r.b with
    | some p, some bk =>
      if r.state != .started || p.done || !s.mayDeliver c r p then s
      else
        let whole := r.parts.flatMap (·.dpa)
        let va := match p.dst with | .glob a => a | .win _ _ => 0
        let met := if s.ms.homeLost s.dev p.dpa then some .memue
          else match r.kind with
            | .accum _ _ _ => s.ms.sectorFault s.dev p.dpa
            | .plain => none | .gather _ _ _ _ _ => none | .quant _ _ => none
        match met with
        | some e => if r.box then s.boxFault c r (e, va) else s.reqFault c r [(p.lane, e, va)]
        | none =>
        let torn := p.dpa.any fun a => Tbl.get? s.ms.sectors (a / 64) == some .poisoned &&
          !(List.range 64).all fun i => whole.contains (a / 64 * 64 + i)
        if torn then
          s.endCtx bk.ctx { code := .integrity, fpc := r.pc, faddr := BitVec.ofNat 64 va, fmask := r.lanes }
        else if (match r.node with
            | some n => !p.dpa.isEmpty && !s.stageRoom bk.ctx (s.newVersions c n p.dpa)
            | none => false) then
          if s.scanOnly bk.ctx then s else { s with mp := { s.mp with rollDue := (bk.task, true) :: s.mp.rollDue } }
        else (s.inheritAll bk.task (if p.dropped then [] else s.dstVersions c p)).deliverPart c q n mask
    | _, _ => s

/-! ### The Start step -/

/-- What home slices and sectors say of the global bytes a request reads: the bad parts' lanes, codes and addresses (R309, R335,
R352). -/
def State.reqSector (s : State) (c : Nat) (parts : List Part) (k : CopyKind) : List (Nat × Code × Nat) :=
  let dst := match k with
    | .accum _ _ _ => true
    | .plain => false | .gather _ _ _ _ _ => false | .quant _ _ => false
  parts.filterMap fun p =>
    let pas := p.spa ++ (if dst then p.dpa else [])
    (if s.ms.homeLost s.dev pas then some .memue else s.ms.sectorFault s.dev (s.ms.fromTruth s.dev c 0 pas)).map fun e =>
      let va := match p.src, p.dst with
        | some (.glob a), _ => a
        | _, .glob a => a
        | _, .win _ _ => 0
      (p.lane, e, va)

/-- The lines a request reads are filled into V(c), and charged (R26, R220). -/
def State.fillFor (s : State) (c x : Nat) (pas : List Nat) : State :=
  ((pas.map lineOf).dedup).foldl (fun (s : State) ln =>
    let mine := pas.filter fun a => lineOf a == ln
    let top := maxBy (fun a => s.ms.lowest s.dev c 0 a) mine
    let m := mine.foldl (fun (m : MemSys) a => if m.lowest s.dev c 0 a > 0 then m.fillTo s.dev c 0 a else m) s.ms
    ({ s with ms := m }.chargeFills x 0 top).chargeSlice x top ln) s

/-- The Start of a request whose parts are resolved: its whole source is read, and unpublished bytes of its global
destination move up to the truth (R26). What is left of a discarded request is delivered at once (R231). -/
def State.begins (s : State) (c x : Nat) (bk : Block) (r : CopyReq) (parts : List Part) : State :=
  let r := { r with parts }
  let vs := parts.flatMap fun p => p.spa.flatMap fun a => s.versions c a
  if vs.any fun v => !s.mayStep bk.task v then s
  else match s.reqSector c parts r.kind with
    | y :: more => if r.box then s.boxFault c r y.2 else s.reqFault c r (y :: more)
    | [] =>
      let s := (s.inheritAll bk.task vs).saw bk.task (s.effectsAt c 0 (parts.flatMap (·.spa)))
      let s := s.fillFor c x (parts.flatMap (·.spa)).dedup
      let srcs := parts.map fun p => s.sourceBytes c bk r p
      let datas := startData r srcs
      let parts := (parts.zip datas).map fun y => { y.1 with data := y.2 }
      let dst := parts.flatMap (·.dpa)
      let s := { s with ms := s.ms.moveUp s.dev c 0 3 dst.contains }
      let s := s.modReq c r.id fun q => { q with state := .started, again := false, parts }
      if parts.isEmpty then s.modCore c fun k => { k with copyQ := k.copyQ.filter fun y => y.id != r.id }
      else if parts.all (·.dropped) then (List.range parts.length).foldl (fun s n => s.deliverPart c r.id n 0) s
      else s

/-- COPY_START, when R26 allows it. Behind a gather that has not started a write to any row it may read waits (log 156, DESIGN
CHOICE). -/
def State.copyBegin (s : State) (c q : Nat) : State :=
  match s.findReq c q with
  | none => s
  | some (r, before) => match s.block? r.b with
    | none => s
    | some bk =>
      let stops := before.any fun e => s.stops c e r
      if !(r.state == .queued || (r.state == .untranslated && r.isGather)) || s.ctxEnding bk.ctx || !(bk.opsBefore r).isEmpty || stops
      then s
      else
        let s := s.payPromise c q
        match s.resolve c bk.ctx bk r with
          | .error e =>
            if e.1 = .memue ∨ e.1 = .integrity then
              s.endCtx bk.ctx { code := e.1, fpc := r.pc, faddr := BitVec.ofNat 64 e.2, fmask := r.lanes }
            else s.boxFault c r e
          | .ok parts => (parts.foldl (fun s p => s.cachePart c bk.ctx p) s).begins c bk.ctx bk r parts

/-- LATE is raised in the live threads of the issuing warp; while the issuing block or a target is on the move its deadline
is not settled, since the pause extends it (R234, R244, R314). -/
def State.lateReq (s : State) (b q : Nat) : State :=
  match s.block? b with
  | none => s
  | some bk => match bk.core? with
    | none => s
    | some c => match (s.reqsOf c b).find? (·.id == q) with
      | none => s
      | some r => match r.deadline, r.promise with
        | some d, some p =>
          let held := bk.pausing || r.parts.any fun y => match y.dst with
            | .win t _ => (match s.block? t with
              | some y => y.pausing
              | none => false)
            | .glob _ => false
          if !r.lt || r.late || s.cyc < d || r.b != b || held then s
          else (s.mapReqs c b fun x => if x.id == q then { x with late := true } else x).modBlock b fun bk =>
            bk.modThreads ((bk.liveLanes r.w).map fun l => (r.w, l)) fun t => { t with lates := t.lates ++ [BitVec.ofNat 64 p] }
        | _, _ => s

/-! ### Matrix requests (R254–R266) -/

/-- The matrix request q of a core, with those before it. -/
def State.findMat (s : State) (c q : Nat) : Option (MatReq × List MatReq) :=
  ((s.core c).matQ.find? (·.id == q)).map fun r => (r, (s.core c).matQ.takeWhile fun x => x.id != q)

/-- The tile a started request leaves or reads (R253, R259, R260). -/
def MatReq.imageOf (r : MatReq) (bk : Block) (els : Tbl Word) : Tbl Word :=
  match r.kind with
  | .mma _ _ _ _ _ _ => r.product bk els
  | .accz _ => []
  | .accld off _ => tileOfBytes (bk.winRead off 4096)
  | .accst _ _ _ => els

/-- A matrix request replaced by f's answer. -/
def State.modMat (s : State) (c q : Nat) (f : MatReq → MatReq) : State :=
  s.modCore c fun k => { k with matQ := k.matQ.map fun r => if r.id == q then f r else r }

/-- MATRIX_START, when R26 and R255 allow it. -/
def State.matBegin (s : State) (c q : Nat) : State :=
  match s.findMat c q with
  | none => s
  | some (r, before) => match s.block? r.b with
    | none => s
    | some bk =>
      let full := r.winReads.all fun p => (linesOf p.1 p.2).all fun n => (Tbl.get? bk.lines n).isNone
      let free := before.all fun e => !e.blocks r && (r.score || e.start.isSome)
      if r.start.isSome || s.coreNow c < (s.core c).matBusy || !full || !free then s
      else
        let image := r.imageOf bk ((s.core c).tile r.tile).els
        (s.modMat c q fun x => { x with start := some (s.coreNow c), image }).modCore c fun k =>
          { k with matBusy := s.coreNow c + r.occupancy }

/-- The words of a group arrive in one thread's registers. -/
def Block.fillGroup (bk : Block) (id w l now : Nat) (vals : List Word) : Block :=
  let step := fun (acc : List Pending × List Word) (p : Pending) =>
    if p.op == id && p.due.isNone && p.forThread w l then
      (acc.1 ++ [{ p with val := (acc.2.headD 0).setWidth 64, due := some now }], acc.2.tail)
    else (acc.1 ++ [p], acc.2)
  { bk with pend := (bk.pend.foldl step ([], vals)).1 }

/-- ACCST's destination is written (R260). -/
def State.storeTile (s : State) (r : MatReq) (now : Nat) : State :=
  match r.kind with
  | .accst dst off rg =>
    s.modBlock r.b fun bk =>
      if dst = 2 then
        ((List.range 32).filter r.lanes.getLsbD).foldl (fun (k : Block) l =>
          k.fillGroup r.id r.w l now ((List.range 4).map fun m => elem r.image (4 * rg + m) l)) bk
      else
        let bs := if dst = 0 then tileBytes r.image else tileHalves r.image
        (linesOf off bs.length).foldl (fun k n => k.unmarkLine n r.id) (bk.winWrite off bs)
  | .mma _ _ _ _ _ _ => s | .accz _ => s | .accld _ _ => s

/-- A request's tile after its completion (R253, R257, R259). -/
def MatReq.leaves (r : MatReq) (t : Tile) (now : Nat) : Tile :=
  match r.kind with
  | .mma _ _ _ _ _ _ => { t with els := r.image, ver := t.ver + 1, stamp := now }
  | .accz v => { t with els := [], ver := v, stamp := now }
  | .accld _ v => { t with els := r.image, ver := v, stamp := now }
  | .accst _ _ _ => t

/-- MATRIX_COMPLETE, at its time (R255). -/
def State.matEnd (s : State) (c q : Nat) : State :=
  match s.findMat c q with
  | none => s
  | some (r, _) => match r.start with
    | none => s
    | some st =>
      if s.coreNow c < st + r.duration then s
      else
        let now := s.coreNow c
        let s := s.storeTile r now
        let s := { s with mp := { s.mp with tokensUsed := s.mp.tokensUsed - (if r.token then 1 else 0) } }
        let owner := match s.block? r.b with
          | some bk => bk.ctx
          | none => 0
        s.modCore c fun k =>
          let k := { k with matQ := k.matQ.filter fun x => x.id != q }
          if r.writesTile then (k.modTile r.tile fun t => r.leaves t now).accuseFor owner r.tile else k

/-- Would block b issue a request on tile t of core c now, were the tile's claim its own (R248)? -/
def State.wantsTile (s : State) (c b : Nat) (bk : Block) (t : Nat) : Bool :=
  let own := s.modCore c fun k => k.modTile t fun x => { x with claim := some b }
  s.mayIssue c bk && bk.live.any fun p =>
    let a := (bk.thread p.1 p.2).pc
    (((s.fetch c bk p.1 (bk.fragment p.1 a) a).words).any fun x => isMatReq x.i && tileOf x.i == some t) && own.fragReady c b bk p.1 a

/-- TILE_CLAIM_TRANSFER: the tile of a block that is switched out or parked, or is not back yet, is saved, and its claim passes
to a block whose fragment issues a request on it as soon as the claim is its own (R248, R268). -/
def State.passClaim (s : State) (b t : Nat) : State :=
  match s.block? b with
  | none => s
  | some bk => match bk.core? with
    | none => s
    | some c => match ((s.core c).tile t).claim with
      | none => s
      | some d =>
        let out := match s.block? d with
          | some x => (match x.place with
            | .trunk _ _ _ _ _ => true
            | .moving _ _ _ => x.restoring
            | .core _ => false)
          | none => true
        if d != b && out && (s.core c).accown == BitVec.ofNat 32 bk.ctx && s.wantsTile c b bk t then
          (s.saveTile c t).modCore c fun k => k.modTile t fun x => { x with claim := some b }
        else s

/-- TILE_AUTOLOAD: an unclaimed tile is loaded for the resident block of `%accown` with the lowest number that has it
saved (R356). -/
def State.autoload (s : State) (c t : Nat) : State :=
  let own := (s.core c).accown
  match minBy (fun (p : Nat × Block) => p.2.blk) ((s.blocksOn c).filter fun p =>
      BitVec.ofNat 32 p.2.ctx == own && (Tbl.get? p.2.saved t).isSome) with
  | some (b, _) => if own = 0 then s else s.loadTile c b t
  | none => s

/-! ### What falls due by time (R102, R103, R233–R236, R255; log 1) -/

/-- The operations of block b up to number n perform, in order. -/
def State.pressOps (s : State) (b n : Nat) : State :=
  match s.block? b with
  | none => s
  | some bk => (bk.ops.filter fun o => decide (o.id ≤ n)).foldl (fun s o => s.tryOp b o.id) s

/-- A request takes every step that it can: its threads' earlier operations and its own bytes are translated, it starts, and
it delivers (R19, R26). -/
def State.press1 (s : State) (c q : Nat) : State :=
  match s.findReq c q with
  | none => s
  | some (r, _) =>
    let s := match s.block? r.b with
      | none => s
      | some bk => (bk.opsBefore r).foldl (fun s n => s.pressOps r.b n) s
    let s := (s.xlatReq c q).copyBegin c q
    match s.findReq c q with
    | none => s
    | some (r, _) => r.parts.zipIdx.foldl (fun s p => s.copyStep c q p.2 (2 ^ p.1.n - 1)) s

/-- The earlier requests of a queue, `before`, that keep a request from its Start, and those that keep these, with the request, in
queue order (R26). -/
def State.chain (s : State) (c : Nat) (r : CopyReq) (before : List CopyReq) : List Nat :=
  (before.reverse.foldl (fun (acc : List CopyReq) e => if acc.any (s.stops c e) then e :: acc else acc) [r]).map (·.id)

/-- A request takes every step that it can, after the earlier ones that keep it from its Start (R26). -/
def State.pressReq (s : State) (c q : Nat) : State :=
  match s.findReq c q with
  | none => s
  | some (r, before) => (s.chain c r before).foldl (fun s n => s.press1 c n) s

/-- Has a request's promise come, which it was to keep, or the time of R103: it needed no replay, and no relocation has moved its
deadline (R103, R233)? -/
def CopyReq.isDue (r : CopyReq) (now : Nat) : Bool :=
  match r.promise with
  | some p => (decide (p ≤ now) || r.quick.any fun q => decide (q ≤ now)) && r.deadline == some p && !r.redone
  | none => false

/-- The requests whose promises have come complete, unless a fault, a hold or an earlier request keeps them from it
(R103, R233). -/
def State.keepPromises (s : State) : State :=
  s.cores.foldl (fun s p => (p.2.copyQ.filter fun r => r.isDue s.cyc).foldl (fun s r => s.pressReq p.1 r.id) s) s

/-- LATE is raised for every request that has missed its deadline (R234). -/
def State.raiseLates (s : State) : State :=
  s.blocks.foldl (fun s p => match p.2.core? with
    | none => s
    | some c => ((s.reqsOf c p.1).filter fun r => r.lt).foldl (fun s r => s.lateReq p.1 r.id) s) s

/-- Every matrix request of core c that may Start does so in this core cycle, in queue order (R255). -/
def State.startMats (s : State) (c : Nat) : State :=
  (s.core c).matQ.foldl (fun s r => s.matBegin c r.id) s

/-- Every matrix request of core c whose completion has come completes (R255). -/
def State.endMats (s : State) (c : Nat) : State :=
  (s.core c).matQ.foldl (fun s r => s.matEnd c r.id) s

/-- An operation, with the earlier ones that have to perform before it, in order (R19). -/
def Block.opsUpTo (bk : Block) (o : MemOp) : List Nat :=
  ((bk.ops.reverse.filter fun y => decide (y.id ≤ o.id)).foldl (fun (acc : List Nat × List (Nat × Nat)) y =>
    let ts := y.todo.map fun a => (a.w, a.lane)
    if y.id == o.id || ts.any acc.2.contains then (y.id :: acc.1, acc.2 ++ ts) else acc) ([], [])).1

/-- Every STG of core c performs within 4 core cycles of its issue, after the earlier operations of its threads, so that an LDG
issued from then on returns its bytes (R19, R102). -/
def State.pressStores (s : State) (c : Nat) : State :=
  (s.blocksOn c).foldl (fun s p =>
    (p.2.ops.filter fun o => match o.i with
      | .stg _ => decide (o.coreAt + 4 ≤ s.coreNow c + 1) && !o.todo.isEmpty
      | _ => false).foldl (fun s o => (p.2.opsUpTo o).foldl (fun s n => s.tryOp p.1 n) s) s) s

/-- Words that act at issue, or after a word of their bundle (R19; log 22). -/
def actsLater (i : Instr) : Bool :=
  match i with
  | .cflsh w => w.kind.getLsbD 2
  | .phase _ => true | .tlbi _ => true | .bar _ => true | .bara _ => true
  | _ => isLocal i

/-- Every word of core c that waited for a word of its bundle takes its step within the core cycle in which it can (R19; log 22). -/
def State.pressLocals (s : State) (c : Nat) : State :=
  (s.blocksOn c).foldl (fun s p => (p.2.ops.filter fun o => actsLater o.i && !o.todo.isEmpty).foldl (fun s o => s.tryOp p.1 o.id) s) s

/-- Every BBWT of core c whose barrier has come to 0 or below passes in the core cycle of that step (R236). -/
def State.passBars (s : State) (c : Nat) : State :=
  (s.blocksOn c).foldl (fun s p => p.2.live.foldl (fun s t => (p.2.thread t.1 t.2).holds.foldl (fun s h => match h with
    | .bbwt _ _ _ => s.endHold p.1 t.1 t.2 c h
    | _ => s) s) s) s

/-- The contexts whose bytes came to a part of a poisoned sector end (R352). -/
def State.settleBlame (s : State) : State :=
  s.ms.blamed.foldl (fun s x => s.endCtx x { code := .integrity, fpc := s.openFpc .integrity, faddr := BitVec.ofNat 64 (s.openFaddr .integrity 0), fmask := 0 })
    { s with ms := { s.ms with blamed := [] } }

/-! ### The events -/

/-- COPY_START (R26, R231, R238–R243). -/
def execCopyStart (c q : Nat) (s : State) : Out := .next (s.copyBegin c q)
/-- COPY_DELIVER (R26, R235, R244). -/
def execCopyDeliver (c q : Nat) (n : PartBytes) (s : State) : Out := .next (s.copyStep c q n.part n.mask)
/-- LATE (R234). -/
def execLate (b q : Nat) (s : State) : Out := .next (s.lateReq b q)
/-- MATRIX_START (R254, R255, R266). -/
def execMatrixStart (c q : Nat) (s : State) : Out := .next (s.matBegin c q)
/-- MATRIX_COMPLETE (R253–R260, R265). -/
def execMatrixComplete (c q : Nat) (s : State) : Out := .next (s.matEnd c q)
/-- TILE_CLAIM_TRANSFER (R248). -/
def execTileClaimTransfer (b t : Nat) (s : State) : Out := .next (s.passClaim b t)
/-- TILE_AUTOLOAD (R356). -/
def execTileAutoload (c t : Nat) (s : State) : Out := .next (s.autoload c t)

end Sys2Proof.Machine
end

