-- ==== Sys2Proof/Machine/Placing.lean ====
section
/-! DEFINITION. Sys2Proof/Machine/Placing.lean: where a block may be placed, and the block that is placed (R276, R277, R280, R281, R297, R298,
R340). -/

namespace Sys2Proof.Machine

open Sys2Proof

/-! ### Eligible clusters (R276, R336, R340) -/

/-- The class as which a context's tasks of a class are placed: class 2 needs a lease (R340). -/
def State.placedClass (s : State) (x cls : Nat) : Nat :=
  let leased := match Tbl.get? s.ctxs x with
    | some k => (match k.lease with
      | .active => true | .suspended => true
      | .none => false | .expired => false)
    | none => false
  if cls = 2 && !leased then 1 else cls

/-- The valid records of the active bank that name a context, a class and a cluster (R276). -/
def State.bindsOf (s : State) (x cls k : Nat) : List BindRec :=
  (s.mp.active.binds.map (·.2)).filter fun r => r.valid && r.ctx == x && r.cls == cls && r.mask.getLsbD k

/-- Is a cluster eligible for a context's blocks of a class (R276)? -/
def State.eligible (s : State) (x cls k : Nat) : Bool :=
  let c := s.placedClass x cls
  !(s.bindsOf x c k).isEmpty && (s.cluster k).present && (s.cluster k).cls == c

/-- Blocks of the context allowed on each core of a cluster: the largest bmax (R276). -/
def State.bmaxOf (s : State) (x cls k : Nat) : Nat := maxBy (fun (r : BindRec) => r.bmax) (s.bindsOf x (s.placedClass x cls) k)

/-! ### Room on a core (R280) -/

/-- Does a block take room on core c: it stands there, moves there, or is to move or to be restored there? -/
def Block.takes (bk : Block) (c : Nat) : Bool :=
  (match bk.place with
   | .core d => d == c
   | .moving d _ _ => d == c
   | .trunk _ _ _ _ d => d == some c) ||
  (match bk.drain with
   | some (.toCore _ d) => d == c
   | some (.toTrunk _ _) => false | some (.ending _) => false
   | none => false)

/-- The blocks that take room on core c, but for some that leave it and with some that come (R321). -/
def State.roomUsers (s : State) (c : Nat) (gone : List Nat) (come : List Block) : List Block :=
  ((s.blocks.filter fun p => p.2.takes c && !gone.contains p.1).map (·.2)) ++ come

/-- Rows of bank k of core c that a pool may have: those removed, and those that are to be, are lost (R7, R333). -/
def State.bankRows (s : State) (c k : Nat) : Nat :=
  1024 - (((s.cap c).dead ++ (s.cap c).spareless).filter (· % 4 == k)).length

/-- Conditions 1 to 3 of R280, but for the choice of R277. -/
def State.fits (s : State) (c x bmax : Nat) (p : Lpb) (gone : List Nat) (come : List Block) : Bool :=
  let us := s.roomUsers c gone come
  decide ((us.filter (·.ctx == x)).length < bmax) && decide (us.length < 16) &&
  decide (sumBy (fun (b : Block) => b.lpb.warps) us + p.warps ≤ 64) &&
  ((List.range 4).all fun k => sumBy (fun (b : Block) => b.lpb.share) us + p.share ≤ s.bankRows c k) &&
  decide (sumBy (fun (b : Block) => b.lpb.window) us + p.window ≤ 2097152)

/-- May core c take a block at all (R7, R326)? One of a cluster that has failed may not (log 115). -/
def State.coreOk (s : State) (c : Nat) : Bool :=
  (s.cap c).present && !(s.cap c).broken && !(s.core c).failed && !(s.cluster (clusterOf c)).broken

/-- Resident warps of core c, and of cluster k (R277). -/
def State.warpsOn (s : State) (c : Nat) : Nat := sumBy (fun (p : Nat × Block) => p.2.lpb.warps) (s.blocksOn c)
def State.clusterWarps (s : State) (k : Nat) : Nat := sumBy (fun i => s.warpsOn (8 * k + i)) (List.range 8)

/-- The declared peaks of a cluster's resident blocks (R281). -/
def State.peaksOn (s : State) (k : Nat) : Nat :=
  sumBy (fun (p : Nat × Block) => match p.2.core? with
    | some c => if clusterOf c = k ∧ !p.2.lpb.token then p.2.lpb.peak else 0
    | none => 0) s.blocks

/-- Condition 4 of R280: the cluster's budget admits the block (R281). -/
def State.budgetOk (s : State) (k : Nat) (p : Lpb) : Bool :=
  p.token || (decide (p.energy ≤ (s.cluster k).remaining) && decide (p.peak + s.peaksOn k ≤ (s.cluster k).peak))

/-- The cores of cluster k on which the block has room. -/
def State.roomIn (s : State) (x k : Nat) (p : Lpb) (ok : Nat → Bool) : List Nat :=
  ((List.range 8).map (8 * k + ·)).filter fun c => s.coreOk c && ok c && s.fits c x (s.bmaxOf x p.cls k) p [] []

/-- The clusters that can take the block now; a gated one, or one being emptied, cannot (R322, R338). -/
def State.roomClusters (s : State) (x : Nat) (p : Lpb) (ok : Nat → Bool) : List Nat :=
  (List.range 32).filter fun k =>
    s.eligible x p.cls k && !(s.cluster k).gated && !(s.cluster k).emptying && s.budgetOk k p && !(s.roomIn x k p ok).isEmpty

/-- THE PLACEMENT of block blk of the task in slot t (R277, R240): its core. -/
def State.placeFor (s : State) (x t blk : Nat) (p : Lpb) (ok : Nat → Bool) : Option Nat :=
  let ks := s.roomClusters x p ok
  let pick := fun k => minBy s.warpsOn (s.roomIn x k p ok)
  let lead := if blk % 8 = 0 then none
    else match s.block? (bkey t (blk - blk % 8)) with
      | some b => b.core?.map clusterOf
      | none => none
  match lead with
  | some k => if ks.contains k then pick k else (minBy s.clusterWarps ks).bind pick
  | none => (minBy s.clusterWarps ks).bind pick

/-! ### The block that is admitted (R110, R148, R273, R280, R297, R298) -/

/-- The thread at position i of a block whose threads start at uid `first`, live below `count` (R297, R298). -/
def Lpb.thread (p : Lpb) (first count i : Nat) : Thread :=
  { Thread.fresh with
    live := decide (first + i < count), pc := BitVec.ofNat 64 p.entry, level := if p.sup then .supervisor else .user,
    uid := BitVec.ofNat 32 (first + i), par := BitVec.ofNat 32 (first + i) }

/-- A warp of a new block; a lane that no thread starts in stays vacant. -/
def Lpb.warp (p : Lpb) (first count w : Nat) : Warp :=
  { Warp.fresh with threads := ((List.range 32).map fun l => (l, p.thread first count (32 * w + l))).filter fun q => q.2.live }

/-- Block blk of the task in slot t, on core c (R273, R280). -/
def State.newBlock (s : State) (t : Nat) (k : Task) (blk c : Nat) : Block :=
  let p := k.lpb
  let first := blk * (32 * p.warps)
  let count := if p.pop then p.hi - p.lo else first + 32 * p.warps
  { Block.zero with
    task := t, blk, ctx := k.ctx, handle := mkHandle 3 t (Tbl.getD s.cp.taskGen t 0), lpbAddr := k.addr, lpb := p,
    place := .core c, warps := (List.range p.warps).map fun w => (w, p.warp first count w) }

/-- Every warp of a population's block maps the shape names to fresh zeroed rows (R298). -/
def State.mapShape (s : State) (c b : Nat) (p : Lpb) : State :=
  (List.range p.warps).foldl (fun s w => (List.range p.k).foldl (fun s n =>
    match s.alloc c b (n % 4) true with
    | some (s, r) => s.modBlock b fun bk => bk.setMap w (BitVec.ofNat 8 n) (some (.row r))
    | none => s) s) s

/-- ADMISSION of a block on core c: the refresh of PHASE.dev, an empty instruction cache, and the budget's energy (R280,
R281, R354). -/
def State.admitOn (s : State) (t : Nat) (k : Task) (blk c : Nat) : State :=
  let b := bkey t blk
  let p := k.lpb
  let ms := s.ms.refresh c 2
  let s := { s with ms := { ms with icache := Tbl.erase ms.icache c }, blocks := Tbl.put s.blocks b (s.newBlock t k blk c) }
  let s := if p.token then s else
    { s with mp := { s.mp with clusters := Tbl.modD s.mp.clusters (clusterOf c) .fresh fun q =>
        { q with remaining := q.remaining - p.energy } } }
  let s := if p.pop then s.mapShape c b p else s
  let s := { s with mp := { s.mp with clusters := Tbl.modD s.mp.clusters (clusterOf c) .fresh fun q => { q with admitted := true } } }
  s.modTask t fun y => { y with st := .running, admitted := y.admitted + 1, nextBlk := y.nextBlk + 1, lastAdmit := some s.cyc }

/-- A lease is active while some block of the context lies in a pool of class 2, else suspended (R340). -/
def State.leaseCheck (s : State) (x : Nat) : State :=
  let inC2 := s.blocks.any fun p => p.2.ctx == x && (match p.2.core? with
    | some c => (s.cluster (clusterOf c)).cls == 2
    | none => false)
  s.modCtx x fun k => match k.lease with
    | .active => { k with lease := if inC2 then .active else .suspended }
    | .suspended => { k with lease := if inC2 then .active else .suspended }
    | .none => k | .expired => k

end Sys2Proof.Machine
end

