-- ==== Sys2Proof/Machine/TaskEvents.lean ====
section
/-! DEFINITION. Sys2Proof/Machine/TaskEvents.lean: wake times, the completion and the admission of blocks, and the collective of RESAMP
(R141, R142, R279–R283, R298–R303). -/

namespace Sys2Proof.Machine

open Sys2Proof

/-! ### Wake times (R142) -/

/-- A sleep whose wake time has come is over (R142); while the block is on the move a NAPTO's is not settled, since the pause
shifts it (R314). -/
def State.wakeUp (s : State) (b w l : Nat) : State :=
  s.modBlock b fun bk => bk.modThread w l fun t =>
    if t.wake ≤ s.cyc && !(t.nap && bk.pausing) then { t with wake := 0, nap := false } else t

/-! ### Completion (R141, R279) -/

/-- Has the population of a task no live thread left (R298)? -/
def State.popOver (s : State) (t : Nat) : Bool := s.blocks.all fun p => p.2.task != t || p.2.live.isEmpty

/-- Is a block complete: no live thread, no request, no operation, no result in flight (R141, R298)? -/
def State.isComplete (s : State) (b : Nat) (bk : Block) (c : Nat) : Bool :=
  bk.live.isEmpty && bk.ops.isEmpty && bk.pend.isEmpty && bk.carried.isEmpty && bk.drain.isNone &&
  ((s.core c).copyQ.all fun r => r.b != b) && ((s.core c).matQ.all fun r => r.b != b) &&
  (!bk.isPop || s.popOver bk.task)

/-- A block leaves the machine: its rows, its window and its claims go (R118, R141, R248). -/
def State.removeBlock (s : State) (b : Nat) : State :=
  { s with blocks := Tbl.erase s.blocks b,
           cores := Tbl.mapVal s.cores fun k =>
             { k with tiles := Tbl.mapVal k.tiles fun t => if t.claim = some b then { t with claim := none } else t,
                      latch := match k.latch with
                        | some (d, w, l) => if d = b then none else some (d, w, l)
                        | none => none } }

/-- A task is DONE when its last admitted block has completed and no work is left (R279). -/
def Task.finish (t : Task) : Task :=
  if t.st == .running && t.completed == t.admitted && t.unclaimed.isEmpty && t.intervals.isEmpty then
    { t with st := .done, value := BitVec.ofNat 64 t.admitted }
  else t

/-- A task one of whose blocks has completed: DONE with its last block (R279, R283). -/
def Task.finishBlock (t : Task) (blk : Nat) : Task :=
  let t := { t with completed := t.completed + 1, intervals := t.intervals.filter fun i => i.blk != blk }
  t.finish

/-- BLOCK_COMPLETION: the publish of PHASE.dev, the release of what the block held, its count (R141). -/
def State.complete (s : State) (b : Nat) : State :=
  match s.block? b with
  | none => s
  | some bk => match bk.core? with
    | none => s
    | some c =>
      if !s.isComplete b bk c || s.cp.master.isNone then s
      else
        let s := { s with ms := s.ms.publish s.dev c 2 }
        (((s.removeBlock b).modTask bk.task fun t => t.finishBlock bk.blk).leaseCheck bk.ctx).evalTasks

/-! ### Admission (R279–R283, R298) -/

/-- Has the stagger of a task elapsed (R280)? -/
def State.staggerOk (s : State) (k : Task) : Bool :=
  !k.lpb.staggered || (match k.lastAdmit with
    | some c => decide (c + k.lpb.stagger ≤ s.cyc)
    | none => true)

/-- The interval the next block of a range task would own: the whole range for the first, else the upper part of a split,
else unclaimed work (R279, R283). -/
def Task.nextInterval (t : Task) : Option Task :=
  if t.st == .ready then
    if t.lpb.lo < t.lpb.hi then some (t.setInterval t.nextBlk t.lpb.lo t.lpb.hi) else none
  else if t.st == .running && decide (t.nextBlk < 65536) then
    match t.split t.nextBlk with
    | some y => some y
    | none => t.claim t.nextBlk
  else none

/-- Admission of the next block of a range task. -/
def State.admitRange (s : State) (t : Nat) (k : Task) : State :=
  if !s.staggerOk k then s
  else match k.nextInterval with
    | none => s
    | some y => match s.placeFor k.ctx t k.nextBlk k.lpb fun _ => true with
      | none => s
      | some c => ((s.modTask t fun _ => y).admitOn t k k.nextBlk c).leaseCheck k.ctx

/-- Blocks of a population (R298). -/
def Lpb.popBlocks (p : Lpb) : Nat := ceilDiv p.capacity (32 * max 1 p.warps)

/-- All the blocks of a population are admitted in one step, or none (R298). -/
def State.admitPop (s : State) (t : Nat) (k : Task) : State :=
  let r := (List.range k.lpb.popBlocks).foldl (fun (acc : Option State) blk =>
    acc.bind fun y => (y.placeFor k.ctx t blk k.lpb fun _ => true).map fun c => y.admitOn t k blk c) (some s)
  match r with
  | some y => y.leaseCheck k.ctx
  | none => s

/-- BLOCK_ADMISSION for the task in slot t (R279); not while its maker's rollback stands (log 168). -/
def State.admitBlock (s : State) (t : Nat) : State :=
  match Tbl.get? s.cp.tasks t with
  | none => s
  | some k =>
    if s.ctxEnding k.ctx || s.cp.master.isNone || k.kept then s
    else if k.lpb.pop then (if k.st == .ready then s.admitPop t k else s)
    else s.admitRange t k

/-! ### RESAMP (R299–R303) -/

/-- A live thread of a population that has arrived: where it is, its weight, u, operation. -/
structure Arrival where
  b : Nat
  w : Nat
  l : Nat
  uid : Nat
  weight : Word
  u : Word
  lv : Level
  op : MemOp
deriving DecidableEq, Repr

/-- RESAMP's operand word. -/
def resampWord (i : Instr) : Option MWord :=
  match i with
  | .resamp w => some w
  | _ => none

/-- The arrival of one live thread, if it has arrived (R299). -/
def Block.arrival (bk : Block) (b w l : Nat) : Option Arrival :=
  bk.ops.findSome? fun (o : MemOp) =>
    if (resampWord o.i).isNone then none
    else (o.parked.find? fun a => a.w == w && a.lane == l).map fun a =>
      { b, w, l, uid := (bk.thread w l).uid.toNat, weight := BitVec.ofNat 32 (ofBytes a.data), u := a.cmp, lv := a.lv, op := o }

/-- The blocks of a task. -/
def State.blocksOf (s : State) (t : Nat) : List (Nat × Block) := s.blocks.filter fun p => p.2.task == t

/-- Has a block of a population a write on its way to a shape name of a warp with live threads, RESAMP's own apart (R302)? -/
def Block.shapePending (bk : Block) (k : Nat) : Bool :=
  let own := (bk.ops.filter fun (o : MemOp) => (resampWord o.i).isSome).map (·.id)
  let rows := ((bk.live.map (·.1)).dedup).flatMap fun w => (List.range k).filterMap fun n => bk.rowOf w (.v (BitVec.ofNat 8 n))
  bk.pend.any fun p => !own.contains p.op && (match p.tgt with
    | .row r _ => rows.contains r
    | .oreg _ _ _ => false | .scalar _ _ => false | .pred _ _ _ => false | .none => false)

/-- The arrivals of a whole population by ascending `%uid`; none while some live thread has not arrived, or a write to a shape name has
not landed (R299, R302). -/
def State.arrivals (s : State) (t : Nat) : Option (List Arrival) :=
  let bs := s.blocksOf t
  let all := bs.flatMap fun p => p.2.live.map fun q => p.2.arrival p.1 q.1 q.2
  if all.isEmpty || all.any Option.isNone || bs.any fun p => p.2.shapePending p.2.lpb.k then none
  else some (sortBy (fun (a : Arrival) => a.uid) (all.filterMap id))

/-- FP64 rounding to nearest even (R300). -/
def round64 (v : Fp) : Fp := f64.widen (f64.convert .rn false v)

/-- A weight as RESAMP takes it (R300). -/
def resampWeight (x : Word) : Fp :=
  match f32.val x.toNat with
  | .nan => .fin false 0 0
  | .inf neg => if neg then .fin false 0 0 else f32.val 0x7F7FFFFF
  | .fin neg m e => if neg ∨ m = 0 then .fin false 0 0 else .fin false m e

/-- The quotient of two finite values, for rounding. -/
def Fp.div (x : Fp) (n : Nat) : Fp :=
  match x with
  | .fin s m e => Fp.quot s m e n 0
  | .nan => .nan | .inf s => .inf s

/-- p(j), with u = u32 ÷ 2^32 (R300). -/
def resampPoint (total : Fp) (u32 n j : Nat) : Fp :=
  round64 ((round64 (Fp.mul (.fin false (j * 2 ^ 32 + u32) (-32)) total)).div n)

/-- x < y and x ≤ y on finite values. -/
def fpLt (x y : Fp) : Bool := decide (Fp.cmp x y < 0)

/-- The running sums: each thread's Lo and Hi, and the total (R300). -/
def resampSums (ws : List Fp) : List (Fp × Fp) × Fp :=
  ws.foldl (fun (acc : List (Fp × Fp) × Fp) w =>
    let c := round64 (Fp.add false acc.2 w)
    (acc.1 ++ [(acc.2, c)], c)) ([], .fin false 0 0)

/-- The number of copies of each thread (R300). -/
def resampCounts (ws : List Fp) (u32 n : Nat) : List Nat :=
  let (sums, total) := resampSums ws
  let ps := (List.range n).map (resampPoint total u32 n)
  let base := sums.map fun x => (ps.filter fun p => !fpLt p x.1 && fpLt p x.2).length
  let extra := (ps.filter fun p => !fpLt p total).length
  let isPos := fun (v : Fp) => match v with
    | .fin _ m _ => decide (m > 0)
    | .nan => false | .inf _ => false
  let last := (ws.zipIdx.filter fun x => isPos x.1).getLast?.map (·.2)
  base.zipIdx.map fun x => if last = some x.2 then x.1 + extra else x.1

/-- A lane of a population. -/
abbrev Lane := Nat × Nat × Nat

/-- The vacant lanes a clone may take, nearest to the parent first (R298, R301). -/
def State.vacant (s : State) (t : Nat) (k : Task) (pb pw : Nat) (taken : List Lane) : List Lane :=
  let bs := s.blocksOf t
  let coreOf := fun (b : Block) => b.core?.getD 0
  let home := match s.block? pb with
    | some b => coreOf b
    | none => 0
  let lanes := fun (p : Nat × Block) => (List.range k.lpb.warps).flatMap fun w =>
    if !p.2.shapeOk w k.lpb.k then [] else (List.range 32).filterMap fun l =>
      if (p.2.thread w l).live || taken.contains (p.1, w, l) ||
          p.2.blk * (32 * k.lpb.warps) + 32 * w + l ≥ k.lpb.capacity then none
      else some (p.1, w, l)
  let own := (bs.filter fun p => p.1 == pb).flatMap lanes
  let near := (sortBy (fun p => p.2.blk) (bs.filter fun p => p.1 != pb && coreOf p.2 == home)).flatMap lanes
  let far := (sortBy (fun p => coreOf p.2 * 65536 + p.2.blk) (bs.filter fun p => coreOf p.2 != home)).flatMap lanes
  (own.filter fun x => x.2.1 == pw) ++ (own.filter fun x => x.2.1 != pw) ++ near ++ far

/-- The places of all clones: each parent with the lanes of its placed clones, in order (R301). -/
def State.placeClones (s : State) (t : Nat) (k : Task) (cs : List (Arrival × Nat)) : List (Arrival × List Lane) :=
  (cs.foldl (fun (acc : List (Arrival × List Lane) × List Lane) x =>
    let got := (s.vacant t k x.1.b x.1.w acc.2).take (x.2 - 1)
    (acc.1 ++ [(x.1, got)], acc.2 ++ got)) ([], [])).1

/-- A clone's thread (R302): what it receives from its parent, with the errors that stand in it, with a new life, at the bundle after the
RESAMP at `at_`, at the level at which the parent issued that, and ready in core cycle `ready`. -/
def Thread.clone (p : Thread) (at_ : DWord) (lv : Level) (uid par ready : Nat) : Thread :=
  { Thread.fresh with
    live := true, pc := at_ + 32, level := lv, o := p.o, oErr := p.oErr, la := p.la, lb := p.lb, lc := p.lc, lastErr := p.lastErr,
    p := p.p, stack := p.stack, uid := BitVec.ofNat 32 uid, par := BitVec.ofNat 32 par, ready, from? := some at_ }

/-- The register words that a clone receives (R302). -/
def cloneWords (k : Nat) : List Reg :=
  ((List.range k).map fun n => .v (BitVec.ofNat 8 n)) ++ ((List.range 8).map fun n => .o (BitVec.ofNat 3 n)) ++
  [.last .la, .last .lb, .last .lc]

/-- Words of a parent that its clones receive and that hold a parity error are rebuilt from the replay queue, as far as that holds them;
how many (R324). -/
def Block.mendFor (bk : Block) (w l k : Nat) : Block × Nat :=
  let bad := (cloneWords k).filterMap fun r => if bk.errAt w l r then (bk.replayOf w l r).map fun v => (r, v) else none
  (bad.foldl (fun (b : Block) x => b.mend w l x.1 x.2) bk, bad.length)

/-- The predicates of a clone's lane have their parent's errors, and no others (R302, R323). -/
def Block.clonePreds (bk : Block) (w l : Nat) (ks : List Nat) : Block :=
  { bk with ecc := (bk.ecc.filter fun e => match e with
      | .pred v m _ => !(v == w && m == l)
      | .scalar _ _ => true | .rejoin _ _ => true | .map _ _ => true | .count _ => true) ++ ks.map fun k => .pred w l k }

/-- The shape rows of a clone's lane receive the parent's values, with the errors that stand in them (R132, R302, R323). -/
def State.copyShape (s : State) (par : Block) (pw pl b w l kk : Nat) : State :=
  (List.range kk).foldl (fun s n =>
    let v := (par.read pw pl (.v (BitVec.ofNat 8 n))).setWidth 32
    let bad := par.errAt pw pl (.v (BitVec.ofNat 8 n))
    s.modBlock b fun bk => match bk.rowOf w (.v (BitVec.ofNat 8 n)) with
      | some r => bk.modRow r fun x =>
          { x with vals := Tbl.putD x.vals l 0 v, empty := setBit x.empty l false, err := setBit x.err l bad }
      | none => bk) s

/-- d is written in the lane a clone occupies, where it can be (R301 step 4). -/
def State.writeClone (s : State) (d : Reg) (b w l v : Nat) : State :=
  let x : Word := BitVec.ofNat 32 v
  match d, s.block? b with
  | .o n, _ => s.modBlock b fun bk => bk.landTgt (.oreg w n.toNat l) (x.setWidth 64)
  | .v n, some bk =>
    let s := if (bk.mapOf w n).isNone && decide (bk.heldIn (n.toNat % 4) < bk.share) then
        (match s.alloc (bk.core?.getD 0) b (n.toNat % 4) true with
         | some (s, r) => s.modBlock b fun bk => bk.setMap w n (some (.row r))
         | none => s)
      else s
    s.modBlock b fun bk => match bk.rowOf w d with
      | some r => if bk.mappers r == [w] then bk.landTgt (.row r l) (x.setWidth 64) else bk
      | none => bk
  | .v _, none => s
  | .s _, _ => s | .last _, _ => s | .z, _ => s

/-- The results of RESAMP that were marked at its issue land as 0, but not in a row of d that another warp maps as well
(R301); its operation is over and its threads go on. -/
def Block.endResamp (bk : Block) (now : Nat) : Block :=
  let ids := (bk.ops.filter fun (o : MemOp) => (resampWord o.i).isSome).map (·.id)
  let tgt := fun (p : Pending) => match p.tgt with
    | .row r _ => if (bk.mappers r).length > 1 then Tgt.none else p.tgt
    | .oreg _ _ _ => p.tgt | .scalar _ _ => p.tgt | .pred _ _ _ => p.tgt | .none => p.tgt
  let upd := fun (p : Pending) => if ids.contains p.op then { p with val := 0, due := some now, tgt := tgt p } else p
  let rel := fun (h : Hold) => match h with
    | .resamp op => ids.contains op
    | .jwait _ => false | .pantry _ => false | .ftwait _ => false | .bar _ _ => false | .fencel _ _ => false
    | .bbwt _ _ _ => false | .until _ => false | .untilCore _ => false | .accsv _ => false | .scalar _ => false | .cross _ _ => false
  (Block.land { bk with pend := bk.pend.map upd, ops := bk.ops.filter fun o => !ids.contains o.id } now).allThreads
    (·.release rel now)

/-- Every block of the task ends its RESAMP. -/
def State.endResamp (s : State) (t : Nat) : State :=
  { s with blocks := Tbl.mapKV s.blocks fun b bk => if bk.task = t then bk.endResamp (s.nowOf b) else bk }

/-- One parent and its clones after the rebuild, with its rank (R301 steps 2 to 4, R302). Where words had to be rebuilt for the clones,
parent and clones are held for 24 cycles (R324; log 172). -/
def State.rebuild1 (s : State) (k : Task) (old : State) (x : Arrival × List Lane) (rank : Nat) : State :=
  let a := x.1
  match old.block? a.b with
  | none => s
  | some pb0 =>
    let kk := k.lpb.k
    let (pb, n) := if x.2.isEmpty then (pb0, 0) else pb0.mendFor a.w a.l kk
    let pause := if n = 0 then 1 else 24
    let pt := pb.thread a.w a.l
    let errs := (List.range 7).filter fun i => pb.ecc.contains (.pred a.w a.l i)
    let d := match resampWord a.op.i with
      | some m => m.d
      | none => .z
    let pos := pb.pend.findSome? fun p => if p.op == a.op.id then p.last.map (·.2.2) else none
    let s := if n = 0 then s else (s.modBlock a.b fun bk => (bk.mendFor a.w a.l kk).1).modCtx pb.ctx fun c => { c with corrected := c.corrected + n }
    let s := s.modThread a.b a.w a.l fun t =>
      { t with uid := BitVec.ofNat 32 rank, par := BitVec.ofNat 32 a.uid, ready := max t.ready (s.nowOf a.b + pause) }
    x.2.zipIdx.foldl (fun (s : State) (y : Lane × Nat) =>
      let (b, w, l) := y.1
      let s := s.modThread b w l fun _ => pt.clone a.op.pc a.lv (rank + y.2 + 1) a.uid (s.nowOf b + pause)
      let s := s.modBlock b fun bk => bk.clonePreds w l errs
      let s := s.copyShape pb a.w a.l b w l kk
      let s := s.writeClone d b w l (y.2 + 1)
      match pos with
      | some q => s.modThread b w l fun t => t.setLast q (BitVec.ofNat 32 (y.2 + 1))
      | none => s) s

/-- RESAMP_COLLECTIVE of the task in slot t: no sooner than 64 cycles after the last arrival, with every block resident
(R299–R302, R316, R353). -/
def State.resample (s : State) (t : Nat) : State :=
  match Tbl.get? s.cp.tasks t, s.arrivals t with
  | some k, some as =>
    let ready := (s.blocksOf t).all fun p => p.2.core?.isSome && p.2.drain.isNone
    let late := maxBy (fun (a : Arrival) => a.op.issued) as
    if !k.lpb.pop || !ready || s.cyc < late + 64 || s.cp.master.isNone then s
    else match as with
      | [] => s
      | first :: _ =>
        let n := match resampWord first.op.i with
          | some w => w.imm.toNat
          | none => 0
        let byRand : Bool := match resampWord first.op.i with
          | some w => w.b == .z
          | none => false
        let u := if byRand then (rand k.lpb.seed (k.gen.setWidth 64)).toNat % 2 ^ 32 else first.u.toNat
        let ws := as.map fun a => resampWeight a.weight
        let next := fun (s : State) => s.modTask t fun y => { y with gen := y.gen + 1 }
        match (resampSums ws).2 with
        | .fin _ 0 _ => next (s.endResamp t)
        | _ =>
          let cs := as.zip (resampCounts ws u n)
          let dead := (cs.filter fun x => x.2 == 0).map (·.1)
          let s1 := s.endResamp t
          let s2 := dead.foldl (fun (s : State) a => s.exitOne (((s.block? a.b).bind Block.core?).getD 0) a.b a.w a.l) s1
          let placed := s2.placeClones t k (cs.filter fun x => x.2 != 0)
          let s3 := (placed.foldl (fun (acc : State × Nat) x =>
            (acc.1.rebuild1 k s x acc.2, acc.2 + 1 + x.2.length)) (s2, 0)).1
          next s3
  | _, _ => s

/-! ### The events -/

/-- WAKE_TIME (R142). -/
def execWakeTime (b w l : Nat) (s : State) : Out := .next (s.wakeUp b w l)
/-- BLOCK_COMPLETION (R141, R279). -/
def execBlockCompletion (b : Nat) (s : State) : Out := .next (s.complete b)
/-- BLOCK_ADMISSION (R279–R283, R298). -/
def execBlockAdmission (t : Nat) (s : State) : Out := .next (s.admitBlock t)
/-- RESAMP_COLLECTIVE (R299–R303). -/
def execResampCollective (t : Nat) (s : State) : Out := .next (s.resample t)

end Sys2Proof.Machine
end

