-- ==== Sys2Proof/Machine/Relocate.lean ====
section
/-! DEFINITION. Sys2Proof/Machine/Relocate.lean: drains and relocation, the Trunk and the Cellar (R28, R107, R131, R244, R267, R312–R320). -/

namespace Sys2Proof.Machine

open Sys2Proof

/-! ### The drain (R107) -/

/-- A block begins to drain: its requests that have not started are suspended, or discarded at the end of its context
(R107, R311). -/
def State.startDrain (s : State) (b : Nat) (d : Drain) : State :=
  match s.block? b with
  | none => s
  | some bk => match bk.core? with
    | none => s
    | some c =>
      if bk.drain.isSome then s
      else
        let mine := fun (r : CopyReq) => r.b == b && r.state != .started
        let kept := match d with
          | .ending _ => []
          | .toCore _ _ => (s.core c).copyQ.filter mine
          | .toTrunk _ _ => (s.core c).copyQ.filter mine
        (s.modCore c fun k => { k with copyQ := k.copyQ.filter fun r => !mine r }).modBlock b fun bk =>
          { bk with drain := some d, carried := kept ++ bk.carried }

/-- Is the drain of a block done: fixed results landed, loads and operations at the master performed and arrived or
recorded, matrix requests and started copies complete (R107, R267)? -/
def State.drained (s : State) (b : Nat) (bk : Block) (c : Nat) : Bool :=
  (bk.pend.all fun p => p.due.isNone) && (bk.ops.all fun o => o.todo.isEmpty && o.arrive.isNone) &&
  ((s.core c).matQ.all fun r => r.b != b) && ((s.core c).copyQ.all fun r => r.b != b || r.state != .started)

/-- The publication of a core's view by R28: its lines go through the cluster view to level 2. What another core wrote in
lines of which V(c) holds no unpublished byte stays in the cluster view (log 121, DEDUCED). -/
def MemSys.leave (m : MemSys) (dev c : Nat) : MemSys :=
  let lines := ((unpublished (m.view c 0) fun _ => true).map lineOf).dedup
  (m.moveAll dev c 0 fun _ => true).moveAll dev c 1 fun a => lines.contains (lineOf a)

/-! ### Tiles of a block that leaves (R267) -/

/-- The tiles of core c that block b claims. -/
def State.tilesOn (s : State) (c b : Nat) : List Nat := (List.range 16).filter fun t => ((s.core c).tile t).claim == some b

/-- A claim leaves a tile, which keeps its values. -/
def State.unclaim (s : State) (c t : Nat) : State := s.modCore c fun k => k.modTile t fun x => { x with claim := none }

/-- The claimed tiles of a block go to core d with it, or to its save area (R267). A tile that a block which is not there any
more left on core d goes to that block's save area first. -/
def State.moveTiles (s : State) (b x c d : Nat) : State :=
  (s.tilesOn c b).foldl (fun (s : State) t =>
    let tile := (s.core c).tile t
    if (s.core d).accown == BitVec.ofNat 32 x then
      ((s.saveTile d t).unclaim c t).modCore d fun k => (k.modTile t fun _ => { tile with claim := some b, stamp := 0 }).accuse t
    else (s.saveTile c t).unclaim c t) s

/-- Every tile of every core that block b claims, elsewhere than on core d, goes to its save area (R267). -/
def State.saveElsewhere (s : State) (b d : Nat) : State :=
  (Tbl.keys s.cores).foldl (fun (s : State) c =>
    if c = d then s else (s.tilesOn c b).foldl (fun (s : State) t => (s.saveTile c t).unclaim c t) s) s

/-- Does another block on core d, or on its way there, claim a tile number of block b (R267, R316)? -/
def State.tileClash (s : State) (b d : Nat) : Bool :=
  let mine := (Tbl.keys s.cores).flatMap fun c => s.tilesOn c b
  mine.any fun t => match ((s.core d).tile t).claim with
    | none => false
    | some e => e != b && (s.block? e).any fun x => match x.place with
      | .core c => c == d
      | .moving c _ _ => c == d
      | .trunk _ _ _ _ _ => false

/-! ### New row numbers (R131) -/

/-- The new number of each row the block holds: lowest free, ascending old number, bank by bank. -/
def State.renumber (s : State) (c : Nat) (bk : Block) : List (Nat × Nat) :=
  let olds := ([0, 1, 2, 3] : List Nat).flatMap fun k => (sortBy id bk.held).filter (· % 4 == k)
  olds.foldl (fun (m : List (Nat × Nat)) r =>
    let used := m.map (·.2)
    match s.freeRowBut c (r % 4) used with
    | some i => m ++ [(r, i)]
    | none => m ++ [(r, r)]) []

/-- The new number of a row. -/
def newRow (m : List (Nat × Nat)) (r : Nat) : Nat := ((m.find? (·.1 == r)).map (·.2)).getD r

/-- A target with its row renumbered. -/
def Tgt.renumber (m : List (Nat × Nat)) (t : Tgt) : Tgt :=
  match t with
  | .row r l => .row (newRow m r) l
  | .oreg w n l => .oreg w n l | .scalar w n => .scalar w n | .pred w l k => .pred w l k | .none => .none

/-- A warp with its rows renumbered. -/
def Warp.renumber (m : List (Nat × Nat)) (wp : Warp) : Warp :=
  { wp with map := Tbl.mapVal wp.map fun e => match e with
              | .row r => .row (newRow m r)
              | .pending => .pending,
            replay := wp.replay.map fun e => { e with tgt := e.tgt.renumber m } }

/-- A block with its rows renumbered; rows it does not hold stay behind. -/
def Block.renumber (bk : Block) (m : List (Nat × Nat)) : Block :=
  { bk with rows := sortBy (fun p => p.1) (m.map fun x => (x.2, bk.row x.1)),
            warps := Tbl.mapVal bk.warps (Warp.renumber m),
            boxes := Tbl.mapVal bk.boxes fun x =>
              { x with box := x.box.map (newRow m), givers := x.givers.map fun g => (newRow m g.1, g.2) },
            pend := bk.pend.map fun p => { p with tgt := p.tgt.renumber m },
            ecc := bk.ecc.map fun e => match e with
              | .count r => .count (newRow m r)
              | .scalar _ _ => e | .pred _ _ _ => e | .rejoin _ _ => e | .map _ _ => e }

/-! ### What may be relocated (R311, R316, R318) -/

/-- Has a block something outstanding (R141, R316)? -/
def State.busy (s : State) (b : Nat) (bk : Block) (c : Nat) : Bool :=
  !bk.ops.isEmpty || !bk.pend.isEmpty || !(s.reqsOf c b).isEmpty || (s.core c).matQ.any (·.b == b)

/-- May a block be relocated at all: resident, with live threads, or of a population and with nothing outstanding, not
draining, its context not ending (R311, R316)? -/
def State.movable (s : State) (b : Nat) (bk : Block) : Bool :=
  (match bk.core? with
   | none => false
   | some c => !bk.live.isEmpty || (bk.isPop && !s.busy b bk c)) && bk.drain.isNone && !s.ctxEnding bk.ctx

/-- A block with its whole population (R316). -/
def State.wholeOf (s : State) (b : Nat) (bk : Block) : List Nat :=
  if bk.isPop then (s.blocksOf bk.task).map (·.1) else [b]

/-- All of some blocks begin their way to the Trunk, or none: where the Cellar cannot supply an image the refusal is recorded
(R316, R318). -/
def State.outAll (s : State) (bs : List Nat) (parked : Bool) : State :=
  if bs.any fun b => !(s.block? b).any fun bk => s.movable b bk then s
  else
    let t := bs.foldl (fun (s : State) b => s.startDrain b (.toTrunk s.cyc parked)) s
    if t.cellarUsed ≤ s.mp.cellarGiB * 16384 then t else bs.foldl (fun (s : State) b => s.note (.switchRefused b)) s

/-! ### Leaving, and arriving (R28, R244, R312–R315) -/

/-- The core a drained block of core c goes to: the one chosen for it, if that may still take it, else one by R277 (R267,
R326). -/
def State.landing (s : State) (b : Nat) (bk : Block) (c e : Nat) : Option Nat :=
  if s.coreOk e && !s.tileClash b e then some e
  else s.placeFor bk.ctx bk.task bk.blk bk.lpb fun d => d != c && !s.tileClash b d

/-- A drained block leaves core c for the Trunk, where its image is written whole (R318, R352). -/
def State.toTrunk (s : State) (b c q : Nat) (parked : Bool) : State :=
  s.modBlock b fun bk => { bk with drain := none, origin := c, leftAt := s.coreNow c, bad := bk.bad.filter fun x => decide (x.1 ≤ headSector),
                                   place := .trunk parked c q (s.cyc + bk.transfer false) none }

/-- Deadlines from request cycle q on, and wake times of the NAPTO that sleep across the pause, move by it (R244, R314, R315). -/
def State.shiftBy (s : State) (b q pause : Nat) : State :=
  let late := fun (r : CopyReq) => { r with deadline := r.deadline.map fun d => if q ≤ d then d + pause else d }
  let toMe := fun (r : CopyReq) => r.b == b || r.parts.any fun p => match p.dst with
    | .win d _ => d == b
    | .glob _ => false
  let upd := fun (r : CopyReq) => if toMe r then late r else r
  let bs := Tbl.mapKV s.blocks fun k bk =>
    let bk := { bk with carried := bk.carried.map upd }
    if k = b then bk.allThreads fun t => if t.nap && decide (q < t.wake) then { t with wake := t.wake + pause } else t else bk
  { s with cores := Tbl.mapVal s.cores fun k => { k with copyQ := k.copyQ.map upd }, blocks := bs }

/-- The move of a block that no core can take any more is off: it goes on where it stands, its deadlines moved by the time its drain
took; from a core that has become absent it goes to the Trunk, with its whole population, as far as the Cellar has room (R7, R314, R316,
R318; log 129). -/
def State.stay (s : State) (b c q : Nat) : State :=
  let s := (s.modBlock b fun bk => { bk with drain := none }).shiftBy b q (s.cyc - q)
  if (s.cap c).present then s
  else match s.block? b with
    | none => s
    | some bk => s.outAll (s.wholeOf b bk) false

/-- DRAIN_END: the drained block leaves its core for another, or for the Trunk, but for one of a context that ends (R28, R311–R313). -/
def State.leaveCore (s : State) (b : Nat) : State :=
  match s.block? b with
  | none => s
  | some bk => match bk.core?, bk.drain with
    | some c, some d =>
      if !s.drained b bk c then s
      else
        let out := { s with ms := s.ms.leave s.dev c }
        if s.ctxEnding bk.ctx then s
        else match d with
        | .toCore q e => (match s.landing b bk c e with
          | some e =>
            let t := bk.transfer (decide (dieOf c = dieOf e))
            ((out.moveTiles b bk.ctx c e).modBlock b fun bk =>
              { bk with drain := none, origin := c, leftAt := s.coreNow c, place := .moving e (s.cyc + t) q }).leaseCheck bk.ctx
          | none => s.stay b c q)
        | .toTrunk q parked => (out.toTrunk b c q parked).leaseCheck bk.ctx
        | .ending _ => s
    | some _, none => s
    | none, _ => s

/-- The sectors of a block's image in its Trunk that are not good. -/
def Block.badImage (bk : Block) : List Nat := (Tbl.keys bk.bad).filter fun n => decide (headSector < n)

/-- Holds that count core cycles go on as core cycle `now` of another core begins (R4, R264, R315). -/
def Block.moveClock (bk : Block) (now : Nat) : Block :=
  let hold := fun (h : Hold) => match h with
    | .untilCore n => .untilCore (n - bk.leftAt + now)
    | .jwait _ => h | .pantry _ => h | .ftwait _ => h | .bar _ _ => h | .resamp _ => h | .fencel _ _ => h
    | .bbwt _ _ _ => h | .until _ => h | .accsv _ => h | .scalar _ => h | .cross _ _ => h
  bk.allThreads fun t => { t with holds := t.holds.map hold, kept := t.kept.map hold }

/-- A block in transfer whose core has become absent goes on to another, by R277, as soon as one can take it (R7; log 139). -/
def State.reroute (s : State) (b : Nat) (bk : Block) (c q : Nat) : State :=
  match s.placeFor bk.ctx bk.task bk.blk bk.lpb fun d => !s.tileClash b d with
  | none => s
  | some d => (s.moveTiles b bk.ctx c d).modBlock b fun bk =>
      { bk with place := .moving d (s.cyc + bk.transfer (!bk.restoring && decide (dieOf c = dieOf d))) q }

/-- RELOCATION_RESUME: the block stands on its core with new row numbers, its requests in that core's queue as far as there is room; clean bytes
of the core's view, and of the cluster's where that is another cluster, and the core's instruction cache are dropped; what is
late is late before the first issue (R28, R131, R244, R313–R315, R354). Once the end of its context has begun it goes no further (R311), and its core may have become absent
meanwhile (R7). An image that cannot be read ends the context (R352). Waits of its threads that are over end (R287, R315). -/
def State.arriveCore (s : State) (b : Nat) : State :=
  match s.block? b with
  | none => s
  | some bk => match bk.place with
    | .core _ => s
    | .trunk _ _ _ _ _ => s
    | .moving c resume q =>
      if s.cyc < resume || s.ctxEnding bk.ctx then s
      else if !(s.cap c).present then s.reroute b bk c q
      else
        let s := if bk.restoring then s.endTrunk bk.ctx (bk.trunkFault bk.badImage) else s
        let m := s.renumber c bk
        let ms := s.ms.refresh c (if clusterOf bk.origin = clusterOf c then 1 else 2)
        let s := { s with ms := { ms with icache := Tbl.erase ms.icache c } }
        let s := s.shiftBy b q (s.cyc - q)
        let s := s.modBlock b fun bk =>
          ({ (bk.renumber m) with place := .core c, restoring := false }.moveClock (s.coreNow c)).allThreads fun t =>
            { t with ready := 0, since := none, stood := none }
        let s := s.modCore c fun k => { k with holders := (m.map (·.2)).foldl (fun h r => Tbl.put h r b) k.holders }
        ((s.feed c).leaseCheck bk.ctx).raiseLates.evalTasks

/-! ### Parking and restore (R316, R319, R320) -/

/-- Is the thread held at an FTWAIT on an entry that is not FULL (R320)? -/
def Block.atFtwait (bk : Block) (w l : Nat) : Bool :=
  let on := fun (op : Nat) => bk.ops.any fun (o : MemOp) => o.id == op && (o.parked.any fun a => a.w == w) && (match o.i with
    | .ftwait _ => true
    | _ => false)
  (bk.thread w l).holds.any fun h => match h with
    | .ftwait op => on op
    | .scalar op => on op
    | .jwait _ => false | .pantry _ => false | .bar _ _ => false | .resamp _ => false
    | .fencel _ _ => false | .bbwt _ _ _ => false | .until _ => false | .untilCore _ => false | .accsv _ => false | .cross _ _ => false

/-- The parking condition: every live thread waits at FTWAIT, or sleeps past a cycle (R320). -/
def Block.idleUntil (bk : Block) (cyc : Nat) : Bool :=
  bk.live.all fun p =>
    let t := bk.thread p.1 p.2
    t.memFault.isNone && t.trap.isNone && (bk.atFtwait p.1 p.2 || decide (t.wake > cyc))

/-- Is an entry for which the thread waits at FTWAIT no longer EMPTY, so that its wait ends on a core (R287, R315, R320)? -/
def State.ftOver (s : State) (bk : Block) (w l : Nat) : Bool :=
  bk.ops.any fun (o : MemOp) => (resampWord o.i).isNone && o.parked.any fun a => a.w == w && a.lane == l &&
    (s.look bk.ctx (BitVec.ofNat 32 a.addr)).any fun v => v.st != .empty && s.mayStep bk.task v.ver

/-- Can a thread of a parked block proceed (R320)? -/
def State.canGo (s : State) (bk : Block) : Bool := !bk.idleUntil s.cyc || bk.live.any fun p => s.ftOver bk p.1 p.2

/-- A block as it will stand once it has left its core: none on its way to the Trunk. -/
def Block.departed (bk : Block) : Option Block :=
  match bk.drain with
  | some (.toTrunk _ _) => none
  | some (.toCore q d) => some { bk with place := .moving d 0 q, drain := none }
  | some (.ending _) => some bk
  | none => some bk

/-- A core for a block that is restored: the one it left if that is eligible and has room, else by R277 (R320). Blocks that
are leaving a core for the Trunk, or for another core, no longer count there (R319). -/
def State.restoreCore (s : State) (b : Nat) (bk : Block) (left : Nat) : Option Nat :=
  let view := { s with blocks := s.blocks.filterMap fun (p : Nat × Block) => p.2.departed.map fun y => (p.1, y) }
  let k := clusterOf left
  let ok := fun c => !view.tileClash b c
  if view.eligible bk.ctx bk.lpb.cls k && !(s.cluster k).gated && !(s.cluster k).emptying && view.budgetOk k bk.lpb &&
      (view.roomIn bk.ctx k bk.lpb ok).contains left then some left
  else view.placeFor bk.ctx bk.task bk.blk bk.lpb ok

/-- Has core c still an outgoing image: of a block that drains there to leave, or on its way to the Trunk (R319, R320)? -/
def State.outgoing (s : State) (c : Nat) : Bool :=
  s.blocks.any fun p => (match p.2.drain with
    | some (.toTrunk _ _) => p.2.core? == some c
    | some (.toCore _ _) => p.2.core? == some c
    | some (.ending _) => false
    | none => false) || (match p.2.place with
    | .trunk _ left _ saved _ => left == c && decide (s.cyc ≤ saved)
    | .core _ => false | .moving _ _ _ => false)

/-- The choice of cores for the blocks of one task that are to be restored: all of a population or none (R316). -/
def State.chooseAll (s : State) (bs : List (Nat × Block)) : Option State :=
  bs.foldl (fun (acc : Option State) p => acc.bind fun y => match p.2.place with
    | .trunk parked left q saved none => (y.restoreCore p.1 p.2 left).map fun c =>
        y.modBlock p.1 fun bk => { bk with place := .trunk parked left q saved (some c) }
    | .trunk _ _ _ _ (some _) => some y
    | .core _ => none
    | .moving _ _ _ => none) (some s)

/-- Is a block in the Trunk to be restored: switched out, or parked with a thread that can proceed (R320)? -/
def State.wantsRestore (s : State) (bk : Block) : Bool :=
  match bk.place with
  | .trunk parked _ _ _ _ => !parked || s.canGo bk
  | .core _ => false
  | .moving _ _ _ => false

/-- Cores are chosen for block b, with its whole population, if it is to be restored (R316, R320). -/
def State.chooseRestore (s : State) (b : Nat) : State :=
  match s.block? b with
  | none => s
  | some bk =>
    if s.ctxEnding bk.ctx then s
    else
      let bs := if bk.isPop then s.blocksOf bk.task else [(b, bk)]
      if bs.any fun p => s.wantsRestore p.2 then (s.chooseAll bs).getD s else s

/-- May the transfer of a block to the core chosen for it begin: that core has no outgoing image left, and its own image is
written (R320)? -/
def State.mayRestore (s : State) (bk : Block) : Bool :=
  match bk.place with
  | .trunk _ _ _ saved (some c) => !s.outgoing c && decide (saved < s.cyc)
  | .trunk _ _ _ _ none => false
  | .core _ => false
  | .moving _ _ _ => false

/-- The choice of a core that may take no block any more is undone (R326). -/
def State.unchoose (s : State) (b : Nat) : State :=
  s.modBlock b fun bk => match bk.place with
    | .trunk parked left q saved (some c) => if s.coreOk c then bk else { bk with place := .trunk parked left q saved none }
    | .trunk _ _ _ _ none => bk
    | .core _ => bk
    | .moving _ _ _ => bk

/-- The transfer of one block begins. Tiles that it left on another core go to its save area first (R267). -/
def State.restore1 (s : State) (b : Nat) : State :=
  match s.block? b with
  | none => s
  | some bk => match bk.place with
    | .trunk _ _ q _ (some c) =>
      (s.saveElsewhere b c).modBlock b fun bk => { bk with restoring := true, place := .moving c (s.cyc + bk.transfer false) q }
    | .trunk _ _ _ _ none => s
    | .core _ => s
    | .moving _ _ _ => s

/-- RESTORE: the transfer begins, of a whole population at once, once the chosen core has no outgoing image left; a parked
block is decided and begun in the cycle its wait ends (R313, R316, R320). -/
def State.restore (s : State) (b : Nat) : State :=
  let parkedNow := match s.block? b with
    | some bk => (match bk.place with
      | .trunk true _ _ _ none => s.canGo bk
      | .trunk _ _ _ _ _ => false
      | .core _ => false | .moving _ _ _ => false)
    | none => false
  let s := if parkedNow then s.chooseRestore b else s
  match s.block? b with
  | none => s
  | some bk =>
    let bs := s.wholeOf b bk
    let s := bs.foldl (fun s b => s.unchoose b) s
    if s.ctxEnding bk.ctx || bs.any fun b => !(s.block? b).any s.mayRestore then s
    else bs.foldl (fun s b => s.restore1 b) s

/-- What falls due of the relocations under way: drains that are done end, restores that may begin do, and blocks arrive
(R313, R320). -/
def State.relocations (s : State) : State :=
  s.blocks.foldl (fun s p => ((s.leaveCore p.1).restore p.1).arriveCore p.1) s

/-! ### The events -/

/-- DRAIN_END (R28, R107, R312). -/
def execDrainEnd (b : Nat) (s : State) : Out := .next (s.leaveCore b)
/-- RELOCATION_RESUME (R28, R313–R315). -/
def execRelocationResume (b : Nat) (s : State) : Out := .next (s.arriveCore b)
/-- RESTORE (R320). -/
def execRestore (b : Nat) (s : State) : Out := .next (s.restore b)

end Sys2Proof.Machine
end

