-- ==== Sys2Proof/Machine/Recovery.lean ====
section
/-! DEFINITION. Sys2Proof/Machine/Recovery.lean: the silent-error scan, commit and rollback of graph nodes, the end of a context, the fence of a
die (R278, R311, R325–R335). -/

namespace Sys2Proof.Machine

open Sys2Proof

/-! ### Commit (R329) -/

/-- A tag of a node leaves every byte of a view. -/
def untag (n : Nat) (v : Tbl VByte) : Tbl VByte :=
  Tbl.mapVal v fun b => if b.node = some n then { b with node := none } else b

/-- Committed versions with nothing provisional below need no record of what they overlie: those kept, and those that are not. -/
def trimStaged (l : List Staged) : List Staged × List Staged :=
  l.foldr (fun v k => if v.node.isNone && !k.1.any fun x => x.loc == v.loc then (k.1, v :: k.2) else (v :: k.1, k.2)) ([], [])

/-- The versions staged are these from now on. Those that need no record any more stand at home: they replace a sector that they cover
whole, and damage one with what is wrong with them (R327, R329, R352). -/
def MemSys.restage (m : MemSys) (l : List Staged) : MemSys :=
  let k := trimStaged l
  let home : List (Nat × Option Sector) := k.2.filterMap fun v => match v.loc with
    | .byte a => some (a, v.bad)
    | .counter _ _ => none | .future _ => none
  home.foldl (fun (m : MemSys) p => match p.2 with
      | some .uncorrectable => { m with sectors := Tbl.put m.sectors (p.1 / 64) (Sector.hit (Tbl.get? m.sectors (p.1 / 64)) .uncorrectable) }
      | some .poisoned => { m with sectors := Tbl.put m.sectors (p.1 / 64) (Sector.hit (Tbl.get? m.sectors (p.1 / 64)) .badTag) }
      | some .corrected => m
      | none => m)
    (MemSys.heal { m with staged := k.1 } (home.map (·.1)))

/-- The versions of a node become committed versions (R329). -/
def MemSys.commit (m : MemSys) (n : Nat) : MemSys :=
  MemSys.restage { m with v := Tbl.mapVal m.v (untag n), g := Tbl.mapVal m.g (untag n), d := untag n m.d }
    (m.staged.map fun (x : Staged) => if x.node = some n then { x with node := none } else x)

/-- The newest committed value of a location, from its newest value and its records, newest first (R328). -/
def committedValue (v : Nat) (l : List Staged) : Nat :=
  match l with
  | [] => v
  | x :: r => match x.node, x.prior with
    | none, _ => v
    | some _, .num n => committedValue n r
    | some _, .fut _ _ => committedValue v r

/-- The newest committed value of a byte of the truth (R328). -/
def MemSys.committed (m : MemSys) (pa : Nat) : Byte :=
  BitVec.ofNat 8 (committedValue (Memory.read m.truth pa).toNat (m.staged.filter fun v => v.loc == .byte pa))

/-- A read at T of n bytes within a page, through a context's page table at user level (R345); a failure's code. -/
def State.hostRead (s : State) (x va n : Nat) : Except Code (List Byte) :=
  match Tbl.get? s.ctxs x with
  | none => .error .access
  | some k =>
    if va / 2 ^ 56 ≠ 0 then .error .access
    else match s.walk va 4 k.root with
      | .error e => .error e
      | .ok f =>
        let pa := f.pa + va % 2 ^ f.bits
        if !permits f.perm .user .load || !s.physOk pa then .error .access
        else match s.ms.committedFault s.dev ((List.range n).map (pa + ·)) with
          | some e => .error e
          | none => .ok ((List.range n).map fun i => s.ms.committed (pa + i))

/-- May a node commit (R329)? One whose rollback is due does not. -/
def State.mayCommit (s : State) (t : Nat) (k : Task) : Bool :=
  k.node && !k.committed && k.st == .done && k.inherits.isEmpty && s.cp.master.isSome && (s.mp.rollDue.all fun p => p.1 != t) &&
  k.cores.all fun p => match (s.core p.1).passed with
    | some q => decide (p.2 < q)
    | none => false

/-- Tasks that FTDROP freed are gone as soon as no rollback can concern them (R331). -/
def State.freeSettled (s : State) : State :=
  s.cp.tasks.foldl (fun (s : State) p => if p.2.dropped && p.2.droppedBy.isNone && !p.2.unsettled then s.freeTask p.1 else s) s

/-- NODE_COMMIT: the versions are committed, no node inherits from it any more, what it and its heirs made and freed is settled where no
rollback can concern them any more, and what waited for them goes on (R329, R331). -/
def State.commitNode (s : State) (t : Nat) : State :=
  match Tbl.get? s.cp.tasks t with
  | none => s
  | some k =>
    if !s.mayCommit t k then s
    else
      let s := { s with ms := s.ms.commit t }
      let s := s.modTask t fun y => { y with committed := true }
      let heirs := (s.cp.tasks.filter fun p => p.2.inherits.contains t).map (·.1)
      let s := { s with cp := { s.cp with tasks := Tbl.mapVal s.cp.tasks fun y => { y with inherits := y.inherits.filter (· != t) } } }
      let s := (t :: heirs).foldl (fun (s : State) n => if (s.mayRoll n).isNone then s.settleMade n else s) s
      s.freeSettled.evalTasks

/-- Every node that may commit does so, in the order of creation (R289, R329). -/
def State.commitAll (s : State) : State :=
  (List.range s.cp.tasks.length).foldl (fun (s : State) _ =>
    match minBy (fun (p : Nat × Task) => p.2.order) (s.cp.tasks.filter fun p => s.mayCommit p.1 p.2) with
    | none => s
    | some p => s.commitNode p.1) s

/-! ### Rollback (R331) -/

/-- The nodes that inherit from some of a list, with the list: one round. -/
def Control.heirs (c : Control) (ts : List Nat) : List Nat :=
  ts ++ (c.tasks.filter fun p => !ts.contains p.1 && p.2.inherits.any ts.contains).map (·.1)

/-- The affected set (R331). -/
def Control.affected (c : Control) (ts : List Nat) : List Nat :=
  (List.range c.tasks.length).foldl (fun l _ => c.heirs l) ts.dedup

/-- A location takes a value, an effect of no node under prompt commit that is known (R331). -/
def State.setLoc (s : State) (loc : Loc) (v : Prior) : State :=
  let s := { s with ms := s.ms.setMark loc none }
  match loc, v with
  | .byte pa, .num n => { s with ms := { s.ms with truth := Memory.write s.ms.truth pa (BitVec.ofNat 8 n) } }
  | .counter x k, .num n => s.modCtx x fun c => { c with ctrs := Tbl.putD c.ctrs k 0 (BitVec.ofNat 32 n) }
  | .future slot, .fut d full => s.modFuture slot fun f => { f with value := d, st := if full then .full else .empty }
  | .byte _, .fut _ _ => s
  | .counter _ _, .fut _ _ => s
  | .future _, .num _ => s

/-- Bytes of some nodes leave a view. -/
def purge (ts : List Nat) (v : Tbl VByte) : Tbl VByte :=
  v.filter fun p => match p.2.node with
    | some n => !ts.contains n
    | none => true

/-- The nearest version over a location lies over a value from now on. -/
def overPrior (loc : Loc) (v : Prior) (l : List Staged) : List Staged :=
  match l with
  | [] => []
  | x :: r => if x.loc = loc then { x with prior := v } :: r else x :: overPrior loc v r

/-- The versions of some nodes are taken out of a list, newest first; `kept` holds those that stay, oldest first. What lies
over one of them lies over what that one lay over; where nothing does, the location falls back to it (R331). -/
def State.discard (s : State) (ts : List Nat) (kept l : List Staged) : State :=
  match l with
  | [] => { s with ms := s.ms.restage kept.reverse }
  | x :: r =>
    if x.node.any ts.contains then
      if kept.any fun y => y.loc == x.loc then s.discard ts (overPrior x.loc x.prior kept) r
      else (s.setLoc x.loc x.prior).discard ts kept r
    else s.discard ts (x :: kept) r

/-- Every version the nodes staged is discarded (R331). -/
def State.discardVersions (s : State) (ts : List Nat) : State :=
  let s := s.discard ts [] s.ms.staged
  let m := s.ms
  { s with ms := { m with v := Tbl.mapVal m.v (purge ts), g := Tbl.mapVal m.g (purge ts), d := purge ts m.d } }

/-- A block ends without completing: its requests go, and its tokens return (R331, R335). -/
def State.killBlock (s : State) (b : Nat) : State :=
  let n := sumBy (fun (p : Nat × Core) => (p.2.matQ.filter fun r => r.b == b && r.token).length) s.cores
  let s := { s with
    cores := Tbl.mapVal s.cores fun k => { k with copyQ := k.copyQ.filter fun r => r.b != b, matQ := k.matQ.filter fun r => r.b != b },
    mp := { s.mp with tokensUsed := s.mp.tokensUsed - n },
    cp := { s.cp with
      futures := Tbl.mapVal s.cp.futures fun f => { f with waiters := f.waiters.filter fun w => w.1 != b },
      tasks := Tbl.mapVal s.cp.tasks fun t => { t with waiters := t.waiters.filter fun w => w.1 != b } } }
  match s.block? b with
  | none => s
  | some bk => (s.removeBlock b).leaseCheck bk.ctx

/-- The schedule-set entry of a launch is chosen again, by a read at T as at a launch; the old entry stays where that read
fails (R284, R331; log 117). -/
def State.rechoose (s : State) (x : Nat) (p : Lpb) : Lpb :=
  if p.schedset = 0 then p
  else match s.hostRead x p.schedset 64 with
    | .error _ => p
    | .ok es => match schedPick es p.extent with
      | none => p
      | some e => p.withEntry e

/-- A sector that cannot be read for that choice ends the context (R345, R352). -/
def State.rechooseBad (s : State) (x : Nat) (p : Lpb) : State :=
  if p.schedset = 0 then s
  else match s.hostRead x p.schedset 64 with
    | .error e => if e = .memue ∨ e = .integrity then
        s.endCtx x { code := e, fpc := s.openFpc e, faddr := BitVec.ofNat 64 p.schedset, fmask := 0 } else s
    | .ok _ => s

/-- A node goes back to WAITING; with prompt commit if it was re-queued so (R331). -/
def Task.requeue (k : Task) (prompt : Bool) : Task :=
  { k with st := .waiting, intervals := [], unclaimed := [], chunks := [], admitted := 0, completed := 0, nextBlk := 0,
           lastAdmit := none, gen := 0, inherits := [], cores := [], value := 0, committed := prompt, dropped := false, droppedBy := none }

/-- What the nodes of a set made is kept for their next run, and what they freed is there again (R331, R332; log 168, 169). -/
def State.keepMade (s : State) (set : List Nat) : State :=
  let mine := fun (m : Option Nat) => m.any set.contains
  let fut := fun (f : Future) => { f with kept := f.kept || mine f.maker, freedBy := if mine f.freedBy then none else f.freedBy }
  let tsk := fun (t : Task) =>
    let t := { t with kept := t.kept || mine t.maker }
    if mine t.droppedBy then { t with dropped := false, droppedBy := none } else t
  { s with cp := { s.cp with futures := Tbl.mapVal s.cp.futures fut, tasks := Tbl.mapVal s.cp.tasks tsk } }

/-- Rollback of the affected set of some nodes; `prompt` names those re-queued with prompt commit (R331). -/
def State.rollBack (s : State) (ts prompt : List Nat) : State :=
  let set := s.cp.affected ts
  let blocks := (s.blocks.filter fun p => set.contains p.2.task).map (·.1)
  let s := blocks.foldl (fun s b => s.killBlock b) s
  let s := (s.discardVersions set).keepMade set
  let s := set.foldl (fun (s : State) t => match Tbl.get? s.cp.tasks t with
    | none => s
    | some k => (s.rechooseBad k.ctx k.lpb).modTask t fun k =>
        { (k.requeue (k.committed || prompt.contains t)) with lpb := s.rechoose k.ctx k.lpb }) s
  let s := set.foldl (fun (s : State) t => s.modTask t fun k =>
    { k with edges := if k.node then s.cp.edgesTo k.ctx k.order k.lpb else [] }) s
  let s := { s with mp := { s.mp with rollDue := s.mp.rollDue.filter fun p => !set.contains p.1 } }
  let s := prompt.foldl (fun (s : State) t => s.note (.requeued t)) s
  s.evalTasks

/-- ROLLBACK of nodes whose rollback is due, on a recovery command that the master carries out (R9, R309, R326, R331). -/
def State.rollDueNodes (s : State) (ts : List Nat) : State :=
  if s.cp.master.isNone then s else
  let due := s.mp.rollDue.filter fun p => ts.contains p.1
  let ok := due.filter fun p => (s.nodeTag p.1).isSome
  let s := { s with mp := { s.mp with rollDue := s.mp.rollDue.filter fun p => !ts.contains p.1 } }
  if ok.isEmpty then s
  else s.rollBack (ok.map (·.1)) ((ok.filter (·.2)).map (·.1)).dedup

/-- Every rollback that is due comes as soon as there is a master (R326, R331). -/
def State.rollAll (s : State) : State := if s.mp.rollDue.isEmpty then s else s.rollDueNodes (s.mp.rollDue.map (·.1)).dedup

/-! ### Loss of a core's trust (R326, R330) -/

/-- Did a task issue a bundle on a core since that core's last passed scan? -/
def State.ranOn (s : State) (k : Task) (c : Nat) : Bool :=
  match Tbl.get? k.cores c with
  | none => false
  | some last => match (s.core c).passed with
    | some p => decide (p ≤ last)
    | none => true

/-- The uncommitted verified nodes that the loss of some cores affects (R330). -/
def State.tainted (s : State) (cs : List Nat) : List Nat :=
  (s.cp.tasks.filter fun p => p.2.node && !p.2.committed && cs.any fun c => s.ranOn p.2 c).map (·.1)

/-- The uncommitted verified nodes that issued a bundle on a core whose scan failed (R331). -/
def State.ranThere (s : State) (c : Nat) : List Nat :=
  (s.cp.tasks.filter fun p => p.2.node && !p.2.committed && (Tbl.get? p.2.cores c).isSome).map (·.1)

/-- The handles of the tasks, the freed ones among them, that satisfy p and ran on a core since its last passed scan (R326). -/
def State.exposed (s : State) (c : Nat) (p : Task → Bool) : List Word :=
  ((s.cp.tasks.filter fun y => p y.2 && s.ranOn y.2 c).map fun y => s.handleOf y.1) ++
  (s.cp.gone.filter fun g => p g.task && s.ranOn g.task c).map (·.handle)

/-- Rollback becomes due for nodes. -/
def State.dueFor (s : State) (ts : List Nat) : State :=
  { s with mp := { s.mp with rollDue := s.mp.rollDue ++ ts.map fun t => (t, false) } }

/-- A scan of core c has failed, or the core is lost as if one had: SCANFAIL is recorded, the tasks that ran there unverified are
reported, and some nodes are to roll back (R326, R330, R332). -/
def State.scanFails (s : State) (c : Nat) (nodes : List Nat) : State :=
  let tasks := s.exposed c fun k => !(k.node && !k.committed)
  let prompt := s.exposed c fun k => k.node && k.committed
  ((s.dueFor nodes).note (.scanfail c tasks)).report prompt

/-- Cores are lost otherwise than by a failed scan and its retests: each is treated as one whose scan failed (R330). -/
def State.loseTrust (s : State) (cs : List Nat) : State :=
  cs.foldl (fun (s : State) c => if (s.cap c).present then s.scanFails c (s.tainted [c]) else s) s

/-! ### The scan (R13, R325, R326) -/

/-- SCAN_START of a die: scan k of the die covers core 64·die + k mod 64, from the window's first cycle (R325). -/
def State.scanBegin (s : State) (die : Nat) : State :=
  let k := s.cyc / Config.scanPitch
  let c := 64 * die + k % 64
  if s.cyc % Config.scanPitch ≠ 0 || Tbl.get? s.scanSeen die = some k || !s.mp.dies.contains die then s
  else
    let s := { s with scanSeen := Tbl.put s.scanSeen die k }
    if !(s.cap c).present then s else s.modCore c fun x => { x with scan := some s.cyc, verdict := none }

/-- Freed tasks whose cores have all passed a scan since, and which read no effect that may be reported, are forgotten. -/
def State.forget (s : State) : State :=
  { s with cp := { s.cp with gone := s.cp.gone.filter fun g => !g.task.reads.isEmpty || g.task.cores.any fun p => s.ranOn g.task p.1 } }

/-- The scan of core c that began at a cycle passes or fails; then every uncommitted verified node that issued there is to roll back (R326,
R331). -/
def State.scanDone (s : State) (c first : Nat) (pass : Bool) : State :=
  if pass then (s.modCore c fun k => { k with scan := none, verdict := none, passed := some first }).forget
  else
    (s.modCore c fun k => { k with scan := none, verdict := none, failed := true }).scanFails c (s.ranThere c)

/-- The scans whose windows are over end (R325). -/
def State.scanEnds (s : State) : State :=
  s.cores.foldl (fun (s : State) p => match p.2.scan with
    | none => s
    | some first => if first + Config.scanPitch ≤ s.cyc then
        s.scanDone p.1 first (p.2.verdict.getD (Config.scanPasses p.1 first)) else s) s

/-- At the first cycle of a window the scans of the one before end, and each die's next begins (R13, R325). -/
def State.scans (s : State) : State :=
  if s.cyc % Config.scanPitch = 0 then
    let s := s.scanEnds
    s.mp.dies.foldl (fun s die => s.scanBegin die) s
  else s

/-- SCAN_END: in the window's last cycle, how the scan will end (R325, R326). -/
def State.scanOver (s : State) (c : Nat) (pass : Bool) : State :=
  match (s.core c).scan with
  | none => s
  | some first => if s.cyc + 1 < first + Config.scanPitch then s else s.modCore c fun k => { k with verdict := some pass }

/-! ### Maintenance slots -/

/-- The kind of the slot at hand (R11). -/
def State.kindNow (s : State) : Nat := s.mp.active.kinds.getD s.slot 0
/-- Is this a maintenance slot? -/
def State.inMaintenance (s : State) : Bool := s.kindNow == 1

/-- Does no block stand on core c, move there, or leave it? -/
def State.emptied (s : State) (c : Nat) : Bool := (s.roomUsers c [] []).isEmpty

/-- A spare core in place of core c: the accumulator file, its latch, and the scan window under way go over, so that no program
sees the change, and what the last passed scan tested stays tested; an absent number is not used again (R6, R7, R247, R263, R325,
R330). -/
def State.replaceCore (s : State) (c : Nat) : State :=
  if !(s.cap c).present then s
  else
    let k := s.core c
    let new : Core := { Core.fresh with
      tiles := k.tiles, accown := k.accown, accused := k.accused, passed := k.passed, latch := k.latch, scan := k.scan,
      verdict := k.verdict, part := k.part, spent := k.spent }
    { s with cores := Tbl.put s.cores c new,
             ms := { s.ms with icache := Tbl.erase s.ms.icache c, tlb := Tbl.erase s.ms.tlb c },
             mp := { s.mp with caps := Tbl.put s.mp.caps c .fresh } }

/-- A block in the Trunk for which a core of a list was chosen stays there for another choice (R7, R320). -/
def Block.redirect (bk : Block) (cs : List Nat) : Block :=
  match bk.place with
  | .trunk a left q sv (some d) => if cs.contains d then { bk with place := .trunk a left q sv none } else bk
  | .trunk _ _ _ _ none => bk
  | .core _ => bk
  | .moving _ _ _ => bk

/-- Core numbers become absent, for good: a scan under way there tests nothing, and no block goes there any more (R7, R330). -/
def State.absent (s : State) (cs : List Nat) : State :=
  let caps := cs.foldl (fun t c => Tbl.modD t c .fresh fun (y : CoreCap) => { y with present := false, rows := 0 }) s.mp.caps
  let cores := Tbl.mapKV s.cores fun c k => if cs.contains c then { k with scan := none, verdict := none } else k
  { s with cores, blocks := Tbl.mapVal s.blocks fun bk => bk.redirect cs, mp := { s.mp with caps } }

/-- A cluster changed by f. -/
def State.modCluster (s : State) (k : Nat) (f : Cluster → Cluster) : State :=
  { s with mp := { s.mp with clusters := Tbl.modD s.mp.clusters k .fresh f } }

/-- A spare core takes the number of core c, or the number becomes absent (R6, R7, R326, R333). -/
def State.spareCore (s : State) (c : Nat) : State :=
  let k := clusterOf c
  if !(s.cap c).present then s
  else if (s.cluster k).spares > 0 then (s.replaceCore c).modCluster k fun x => { x with spares := x.spares - 1 }
  else s.absent [c]

/-- CORE_RETEST: in a maintenance slot a failed core, emptied, is tested twice; if it fails, what ran there since its last
passed scan is not trusted (R326, R330). -/
def State.retest (s : State) (c : Nat) (p1 p2 : Bool) : State :=
  if !(s.core c).failed || !s.inMaintenance || !s.emptied c then s
  else if p1 && p2 then s.modCore c fun k => { k with failed := false }
  else (s.dueFor (s.tainted [c])).spareCore c

/-! ### The end of a context (R311) -/

/-- Every block of the context drains (R311 step 1). -/
def State.endingDrains (s : State) (x : Nat) : State :=
  ((s.blocks.filter fun p => p.2.ctx == x && p.2.core?.isSome).map (·.1)).foldl (fun (s : State) b =>
    (s.modBlock b fun bk => { bk with drain := none }).startDrain b (.ending s.cyc)) s

/-- Are all its blocks drained? -/
def State.endReady (s : State) (x : Nat) : Bool :=
  s.blocks.all fun p => p.2.ctx != x || (match p.2.core? with
    | some c => s.drained p.1 p.2 c
    | none => true)

/-- An accumulator file is cleared as ACCOWN clears it (R264, R311). -/
def Core.clearFile (k : Core) : Core := { k with tiles := [], accused := 0, accown := 0, latch := none }

/-- The end of context x, its blocks drained: publication, tasks and records freed, the Trunk and the staging region freed,
accumulator files cleared, the lease released, the host told (R311). -/
def State.endNow (s : State) (x : Nat) (e : Nat × DWord × DWord) : State :=
  let mine := s.blocks.filter fun p => p.2.ctx == x
  let s := (mine.filterMap fun p => p.2.core?).foldl (fun (s : State) c => { s with ms := s.ms.leave s.dev c }) s
  let nodes := (s.cp.tasks.filter fun p => p.2.ctx == x).map (·.1)
  let s := { s with ms := nodes.foldl (fun m n => m.commit n) s.ms }
  let s := (mine.map (·.1)).foldl (fun s b => s.killBlock b) s
  let s := nodes.foldl (fun s t => s.freeTask t) s
  let s := { s with
    cp := { s.cp with futures := s.cp.futures.filter fun p => p.2.ctx != x, shapes := s.cp.shapes.filter fun p => p.2.ctx != x },
    mp := { s.mp with rollDue := s.mp.rollDue.filter fun p => !nodes.contains p.1 },
    cores := Tbl.mapVal s.cores fun k => if k.accown = BitVec.ofNat 32 x then k.clearFile else k,
    ctxs := Tbl.erase s.ctxs x }
  (s.note (.ended x e.1 e.2.1 e.2.2)).evalTasks

/-- CONTEXT_END: the drains begin; once they are done, the rest in order (R311). -/
def State.contextEnd (s : State) (x : Nat) : State :=
  match Tbl.get? s.ctxs x with
  | none => s
  | some k => match k.ending with
    | none => s
    | some e =>
      let s := s.endingDrains x
      if s.endReady x && s.cp.master.isSome then s.endNow x e else s

/-! ### The fence of a die (R278, R335) -/

/-- A lost block's interval and chunks return to its task as unclaimed work, and the counts exclude the block (R278). -/
def Task.loseBlock (k : Task) (blk : Nat) : Task :=
  let mine := (k.intervals ++ k.chunks).filter fun i => i.blk == blk && decide (i.b < i.e)
  ({ k with intervals := k.intervals.filter fun i => i.blk != blk, chunks := k.chunks.filter fun i => i.blk != blk,
            unclaimed := k.unclaimed ++ mine.map fun i => (i.b, i.e), admitted := k.admitted - 1 })

/-- Does a block stand on a die, or move there? -/
def Block.onDie (bk : Block) (die : Nat) : Bool :=
  match bk.place with
  | .core c => dieOf c == die
  | .moving c _ _ => dieOf c == die
  | .trunk _ _ _ _ _ => false

/-- DIE_FENCE: its effects come at once, with a master or without (R9, R278, R330, R335; log 145, DESIGN CHOICE). -/
def State.fence (s : State) (die : Nat) : State :=
  if !s.mp.dies.contains die then s
  else
    let cs := (List.range 64).map (64 * die + ·)
    let ks := (List.range 8).map (8 * die + ·)
    let nodes := s.tainted cs
    let lost := s.blocks.filter fun p => p.2.onDie die
    let s := lost.foldl (fun (s : State) p =>
      (s.killBlock p.1).modTask p.2.task fun k => k.loseBlock p.2.blk) s
    let s := { s with cp := { s.cp with tasks := Tbl.mapVal s.cp.tasks Task.finish } }
    let s := s.rollBack nodes []
    let s := s.absent cs
    let s := ks.foldl (fun (s : State) k => s.modCluster k fun x => { x with present := false }) s
    let m := s.ms
    let s := { s with
      mp := { s.mp with dies := s.mp.dies.filter (· != die), badLinks := s.mp.badLinks.filter (· != die) },
      ms := { m with lost := die :: m.lost, v := m.v.filter fun p => !cs.contains p.1, g := m.g.filter fun p => !ks.contains p.1,
                     icache := m.icache.filter fun p => !cs.contains p.1, tlb := m.tlb.filter fun p => !cs.contains p.1 },
      cores := Tbl.mapKV s.cores fun c k => if cs.contains c then { Core.fresh with passed := k.passed } else k,
      cp := { s.cp with master := if s.cp.master = some die then none else s.cp.master } }
    s.evalTasks

/-- MASTER_ELECTION: the lowest-numbered die that is left (R278). -/
def State.elect (s : State) : State :=
  match s.cp.master, minBy id s.mp.dies with
  | none, some d => { s with cp := { s.cp with master := some d } }.evalTasks
  | none, none => s
  | some _, _ => s

/-! ### The events -/

/-- SCAN_START (R325). -/
def execScanStart (die : Nat) (s : State) : Out := .next (s.scanBegin die)
/-- SCAN_END (R325, R326). -/
def execScanEnd (c : Nat) (pass : Bool) (s : State) : Out := .next (s.scanOver c pass)
/-- CORE_RETEST (R326). -/
def execCoreRetest (c : Nat) (p1 p2 : Bool) (s : State) : Out := .next (s.retest c p1 p2)
/-- NODE_COMMIT (R329). -/
def execNodeCommit (t : Nat) (s : State) : Out := .next (s.commitNode t)
/-- ROLLBACK (R309, R331). -/
def execRollback (ts : List Nat) (s : State) : Out := .next (s.rollDueNodes ts)
/-- CONTEXT_END (R147, R311). -/
def execContextEnd (x : Nat) (s : State) : Out := .next (s.contextEnd x)
/-- DIE_FENCE (R278, R335). -/
def execDieFence (die : Nat) (s : State) : Out := .next (s.fence die)
/-- MASTER_ELECTION (R278). -/
def execMasterElection (s : State) : Out := .next s.elect

end Sys2Proof.Machine
end

