-- ==== Sys2Proof/Machine/MgmtEvents.lean ====
section
/-! DEFINITION. Sys2Proof/Machine/MgmtEvents.lean: slot boundaries, migration, rotation, spares, gating, classes and leases (R11–R16, R276, R281,
R312–R322, R333, R336–R340). -/

namespace Sys2Proof.Machine

open Sys2Proof

/-! ### The slot boundary (R12) -/

/-- The number of the slot at hand since the frame count began. -/
def State.slotNumber (s : State) : Nat := s.cyc / Config.slotCycles

/-- The banks swap, if the commit bit was written in another cycle than the boundary's own (R15, R16). -/
def State.swapBanks (s : State) : State :=
  match s.mp.commit with
  | none => s
  | some c =>
    if c ≠ s.cyc then
      { s with mp := { s.mp with active := s.mp.shadow, shadow := s.mp.active, commit := none, periodFrame := s.frame + 1 } }
    else s

/-- The rotation period of the active bank comes into force in its first frame (R15). -/
def State.takePeriod (s : State) : State :=
  if s.frame ≥ s.mp.periodFrame then { s with mp := { s.mp with period := s.mp.active.rperiod } } else s

/-- The budgets of every cluster that is not gated, and the token count, are sampled (R281, R337, R338). -/
def State.sampleBudgets (s : State) : State :=
  { s with mp := { s.mp with
      clusters := Tbl.mapVal s.mp.clusters fun k => if k.gated then k else { k with peak := k.peakReg, remaining := k.energyReg },
      tokens := s.mp.tokenReg } }

/-- Resident blocks of a cluster. -/
def State.blocksIn (s : State) (k : Nat) : List (Nat × Block) :=
  s.blocks.filter fun p => match p.2.core? with
    | some c => clusterOf c == k
    | none => false

/-- The idle count of every cluster over the slot that ends (R338). -/
def State.countIdle (s : State) : State :=
  { s with mp := { s.mp with clusters := Tbl.mapKV s.mp.clusters fun k x =>
      { x with idle := if !x.active && (s.blocksIn k).all fun p => p.2.idleUntil s.cyc then x.idle + 1 else 0,
               active := false, admitted := false } } }

/-- The counters of a context as telemetry reads them: L1 fills, cluster fills, HBM fills, writebacks, corrected errors (R220,
R344). -/
def Ctx.counters (k : Ctx) : List Nat := (List.range 4).map (k.acct.getD · 0) ++ [k.corrected]

/-- The hints of the warps that gave one: block, warp, hint (R339). -/
def State.hintsNow (s : State) : List (Nat × Nat × BitVec 2) :=
  s.blocks.flatMap fun p => (p.2.warps.filter fun w => w.2.hint != 0).map fun w => (p.1, w.1, w.2.hint)

/-- A telemetry slot's snapshot of every context's counters and of the warps' hints (R11, R339, R344). -/
def State.snapshot (s : State) : State :=
  if s.kindNow = 3 then
    { s with ctxs := Tbl.mapVal s.ctxs fun k => { k with snap := k.counters }, mp := { s.mp with hints := s.hintsNow } }
  else s

/-! ### Context switch, parking, restore (R319, R320) -/

/-- Has a block's context no valid bind record for a cluster (R319)? -/
def State.unbound (s : State) (bk : Block) (k : Nat) : Bool :=
  !s.mp.active.binds.any fun p => p.2.valid && p.2.ctx == bk.ctx && p.2.mask.getLsbD k

/-- Some blocks all begin to move to other cores by R277, or none does (R319). -/
def State.moveAll (s : State) (bs : List Nat) : Option State :=
  bs.foldl (fun (acc : Option State) b => acc.bind fun s => match s.block? b with
    | none => none
    | some bk => (s.placeFor bk.ctx bk.task bk.blk bk.lpb fun d => bk.core? != some d && !s.tileClash b d).map fun d =>
        s.startDrain b (.toCore s.cyc d)) (some s)

/-- The blocks on cluster k of contexts that lost it migrate; the others are switched out, context by context, a population with all
its blocks (R316, R318, R319; log 118). -/
def State.switchCluster (s : State) (k : Nat) : State :=
  let lost := fun (s : State) => s.blocks.filter fun p => s.movable p.1 p.2 && s.unbound p.2 k && p.2.core?.any fun c => clusterOf c == k
  ((lost s).map (·.2.ctx)).dedup.foldl (fun (s : State) x =>
    let mine := (lost s).filter (·.2.ctx == x)
    let unit := fun (p : Nat × Block) => if p.2.isPop then (mine.filter fun q => q.2.task == p.2.task).map (·.1) else [p.1]
    let (s, out) := mine.foldl (fun (acc : State × List Nat) p =>
      if (unit p).head? != some p.1 then acc
      else match acc.1.moveAll (unit p) with
        | some t => (t, acc.2)
        | none =>
          let whole := s.wholeOf p.1 p.2
          (acc.1, if whole.all fun b => (s.block? b).any fun bk => s.movable b bk then acc.2 ++ whole else acc.2)) (s, [])
    s.outAll out false) s

/-- A waiting block may be parked, with its whole population: the management engine's choice is a free value (R320; log 26). -/
def State.parkBlock (s : State) (b : Nat) : State :=
  match s.block? b with
  | none => s
  | some bk =>
    let slotEnd := (s.slotNumber + 1) * Config.slotCycles
    let whole := s.wholeOf b bk
    if (whole.all fun b => (s.block? b).any fun bk => s.movable b bk && bk.idleUntil slotEnd) && Config.parks s.cyc b then
      s.outAll whole true
    else s

/-! ### Rotation (R321) -/

/-- Does a block move to core d by rotation, but for room (R276, R316, R321)? -/
def State.rotates (s : State) (b : Nat) (bk : Block) (d : Nat) : Bool :=
  bk.lpb.rot && s.movable b bk && !(s.bindsOf bk.ctx (s.placedClass bk.ctx bk.lpb.cls) (clusterOf d)).isEmpty && !s.tileClash b d

/-- A move of a rotation: block, from, to. -/
abbrev Mover := Nat × Nat × Nat

/-- Would a mover fit on its new core, after that core's movers have left and with the others that come (R280, R321)? -/
def State.moverFits (s : State) (ms : List Mover) (m : Mover) : Bool :=
  match s.block? m.1 with
  | none => false
  | some bk =>
    let gone := (ms.filter fun x => x.2.1 == m.2.2).map (·.1)
    let come := (ms.filter fun x => x.2.2 == m.2.2 && x.1 != m.1).filterMap fun x => s.block? x.1
    s.fits m.2.2 bk.ctx (s.bmaxOf bk.ctx bk.lpb.cls (clusterOf m.2.2)) bk.lpb gone come

/-- The movers that fit: one that does not stays, and the rest are counted afresh. -/
def State.settleMovers (s : State) (n : Nat) (ms : List Mover) : List Mover :=
  match n with
  | 0 => []
  | k + 1 => match ms.find? fun m => !s.moverFits ms m with
    | none => ms
    | some m => s.settleMovers k (ms.filter (· != m))

/-- One pair of cores exchanges its rotatable blocks (R321). -/
def State.exchange (s : State) (a b : Nat) : State :=
  let from_ := fun (c d : Nat) => ((s.blocksOn c).filter fun p => s.rotates p.1 p.2 d).map fun p => (p.1, c, d)
  let ms := from_ a b ++ from_ b a
  (s.settleMovers (ms.length + 1) ms).foldl (fun (s : State) m => s.startDrain m.1 (.toCore s.cyc m.2.2)) s

/-- Up to four pairs of active cores of a die, hottest with coolest, while the difference reaches the threshold: a core of a gated
cluster, or one that takes no block, is not active (R321; log 119). -/
def State.pairs (s : State) (die : Nat) : List (Nat × Nat) :=
  let temp := fun c => Config.coreTemp c s.cyc
  let cs := ((List.range 64).map (64 * die + ·)).filter fun c =>
    s.coreOk c && !(s.cluster (clusterOf c)).gated && (s.core c).scan.isNone
  let cool := sortBy temp cs
  let hot := (sortBy (fun c => temp c) cs.reverse).reverse
  ((hot.zip cool).take (min 4 (cs.length / 2))).takeWhile fun p => decide (temp p.2 + s.mp.threshold ≤ temp p.1)

/-- The rotation round of each die, in a rotation slot of a frame of the period (R11, R321). -/
def State.rotate (s : State) : State :=
  if s.kindNow = 2 ∧ s.frame % max 1 s.mp.period = 0 then
    s.mp.dies.foldl (fun s die => (s.pairs die).foldl (fun (s : State) p => s.exchange p.1 p.2) s) s
  else s

/-- Lane maintenance is over with a fabric-management slot: lanes and links that no fence took are in service (R11, R335). -/
def State.lanesBack (s : State) : State :=
  if s.mp.active.kinds.getD ((s.slotNumber + 63) % 64) 0 = 4 then { s with mp := { s.mp with badLinks := [], badLanes := [] } } else s

/-! ### Migration (R322, R326, R340) -/

/-- Must a block leave its core in a maintenance slot: a failed, broken or absent core, a cluster that is being emptied, a
class that no longer suits (R322, R326, R336, R340)? A cluster that has failed is emptied from a slot in which no block was admitted
there. -/
def State.mustLeave (s : State) (bk : Block) (c : Nat) : Bool :=
  let k := s.cluster (clusterOf c)
  if k.broken then k.emptying || !k.admitted
  else !s.coreOk c || k.emptying || k.cls != s.placedClass bk.ctx bk.lpb.cls

/-- MIGRATION of a block to a core chosen by R277; from a core that has become absent a block goes to the Trunk where no other can
take it (R7; log 139). -/
def State.migrate (s : State) (b : Nat) : State :=
  match s.block? b with
  | none => s
  | some bk => match bk.core? with
    | none => s
    | some c =>
      if !s.inMaintenance || !s.movable b bk || !s.mustLeave bk c then s
      else match s.placeFor bk.ctx bk.task bk.blk bk.lpb fun d => d != c && !s.tileClash b d with
        | some d => s.startDrain b (.toCore s.cyc d)
        | none => if (s.cap c).present then s else s.outAll (s.wholeOf b bk) false

/-! ### Failures and spares (R5–R7, R324, R330, R333) -/

/-- A core's capacity record changed by f. -/
def State.modCap (s : State) (c : Nat) (f : CoreCap → CoreCap) : State :=
  { s with mp := { s.mp with caps := Tbl.modD s.mp.caps c .fresh f } }

/-- Does a resident block hold row n of core c? -/
def State.rowHeld (s : State) (c n : Nat) : Bool := (s.blocksOn c).any fun p => p.2.holds n

/-- Rows of a bank that blocks of core c, or on their way there, have reserved (R114). -/
def State.reserved (s : State) (c : Nat) : Nat := sumBy (fun (b : Block) => b.lpb.share) (s.roomUsers c [] [])

/-- A failed row that is free is retired: a spare row takes its number; where none is left it leaves its bank, once the shares that
are reserved there do not need it (R114, R333; log 138). -/
def State.retireRow (s : State) (c n : Nat) : State :=
  let y := s.cap c
  if !y.failing.contains n || s.rowHeld c n then s
  else if !y.spareless.contains n then
    s.modCap c fun y => { y with failing := y.failing.filter (· != n), spareRows := y.spareRows - 1 }
  else if s.reserved c + 1 + (y.dead.filter (· % 4 == n % 4)).length ≤ 1024 then
    s.modCap c fun y => { y with failing := y.failing.filter (· != n), dead := y.dead ++ [n], rows := y.rows - 1 }
  else s

/-- Every failed row that is free is retired (R333). -/
def State.retireRows (s : State) : State :=
  s.mp.caps.foldl (fun (s : State) p => p.2.failing.foldl (fun (s : State) n => s.retireRow p.1 n) s) s

/-- HARDWARE_UNIT_FAILURE (R7, R330, R333). -/
def State.unitFails (s : State) (u : HwUnit) : State :=
  match u with
  | .row c n =>
    (s.modCap c fun y => if y.dead.contains n || y.failing.contains n then y else { y with failing := y.failing ++ [n] }).retireRow c n
  | .column c =>
    if !(s.cap c).present then s
    else if (s.cap c).spareCol && !(s.cap c).badCol then s.modCap c fun y => { y with badCol := true }
    else (s.loseTrust [c]).absent [c]
  | .core c => s.modCap c fun y => { y with broken := y.present }
  | .cluster k => s.modCluster k fun x => { x with broken := x.present || x.broken }

/-- The cluster view's unpublished lines go to the device view and to the truth (R22). -/
def State.publishCluster (s : State) (k : Nat) : State :=
  { s with ms := (List.range 8).foldl (fun m i => m.publish s.dev (8 * k + i) 2) s.ms }

/-- A cluster is replaced by a spare of its die, or its numbers become absent (R6, R7, R333). -/
def State.spareCluster (s : State) (k : Nat) : State :=
  let cs := (List.range 8).map (8 * k + ·)
  let die := k / 8
  let n := Tbl.getD s.mp.spareCl die 0
  let s := (s.publishCluster k).loseTrust cs
  if n > 0 then
    let s := cs.foldl (fun s c => s.replaceCore c) s
    let m := s.ms
    { s with ms := { m with v := m.v.filter fun p => !cs.contains p.1, g := Tbl.erase m.g k },
             mp := { s.mp with spareCl := Tbl.put s.mp.spareCl die (n - 1) } }.modCluster k fun x =>
      { x with broken := false, emptying := false, spares := 1 }
  else (s.absent cs).modCluster k fun x => { x with present := false, broken := false, emptying := false }

/-- SPARE_SUBSTITUTION: a row when it is free, a column in a maintenance slot, a core or a cluster there after it has been
emptied (R11, R333). -/
def State.substitute (s : State) (u : HwUnit) : State :=
  match u with
  | .row c n => s.retireRow c n
  | .column c => if (s.cap c).badCol && s.inMaintenance then s.modCap c fun y => { y with badCol := false, spareCol := false } else s
  | .core c => if (s.cap c).broken && s.inMaintenance && s.emptied c then (s.loseTrust [c]).spareCore c else s
  | .cluster k =>
    if (s.cluster k).broken && s.inMaintenance && (List.range 8).all fun i => s.emptied (8 * k + i) then s.spareCluster k else s

/-! ### Gating and classes (R336, R338) -/

/-- Has every core of a cluster passed a scan that began after its last issue (R330, R338)? -/
def State.allScanned (s : State) (k : Nat) : Bool :=
  (List.range 8).all fun i =>
    let c := 8 * k + i
    !(s.cap c).present || (!(s.core c).failed && (match (s.core c).issued, (s.core c).passed with
      | none, _ => true
      | some a, some p => decide (a < p)
      | some _, none => false))

/-- The tiles of a cluster's cores go to their blocks' save areas (R338). -/
def State.saveTiles (s : State) (k : Nat) : State :=
  (List.range 8).foldl (fun (s : State) i => (List.range 16).foldl (fun (s : State) t =>
    (s.saveTile (8 * k + i) t).unclaim (8 * k + i) t) s) s

/-- CLUSTER_GATING: its blocks are parked, with their populations; once none is there or bound for it, its views are published
and dropped, and power goes, with what its instruction caches and TLBs held and with its budget (R316, R338). It begins only in a
slot in which no block was admitted there (R322). -/
def State.gate (s : State) (k : Nat) : State :=
  let x := s.cluster k
  if !s.inMaintenance || !x.present || x.gated || x.broken || x.idle < s.mp.gateSlots || !s.allScanned k then s
  else if (List.range 8).all fun i => s.emptied (8 * k + i) then
    let s := (s.saveTiles k).publishCluster k
    let cs := (List.range 8).map (8 * k + ·)
    let ms := cs.foldl (fun (m : MemSys) c => m.refresh c 2) s.ms
    { s with ms := { ms with icache := ms.icache.filter fun p => !cs.contains p.1, tlb := ms.tlb.filter fun p => !cs.contains p.1 } }.modCluster k
      fun y => { y with gated := true, emptying := false, peak := 0, remaining := 0 }
  else if x.admitted then s
  else
    let t := s.outAll ((s.blocksIn k).flatMap fun p => s.wholeOf p.1 p.2).dedup true
    if (s.blocksIn k).all fun p => (t.block? p.1).any fun bk => bk.drain.isSome then
      t.modCluster k fun y => { y with emptying := true }
    else t

/-- The clusters as gating takes them, those whose warps' hints are highest first (R339; log 116). -/
def State.gateOrder (s : State) : List Nat :=
  let hints := fun (k : Nat) => sumBy (fun (p : Nat × Block) => sumBy (fun (w : Nat × Warp) => w.2.hint.toNat) p.2.warps) (s.blocksIn k)
  (sortBy hints (Tbl.keys s.mp.clusters)).reverse

/-- Does a restore or a placement need a gated cluster: it may go there, and to no core that has power (R338)? -/
def State.needs (s : State) (k : Nat) : Bool :=
  (s.blocks.any fun p => s.wantsRestore p.2 && !s.ctxEnding p.2.ctx && s.eligible p.2.ctx p.2.lpb.cls k &&
    (s.placeFor p.2.ctx p.2.task p.2.blk p.2.lpb fun c => !s.tileClash p.1 c).isNone) ||
  s.cp.tasks.any fun p => !p.2.kept && !s.ctxEnding p.2.ctx && (p.2.st == .ready || (p.2.st == .running && p.2.nextInterval.isSome)) &&
    s.eligible p.2.ctx p.2.lpb.cls k && (s.placeFor p.2.ctx p.1 p.2.nextBlk p.2.lpb fun _ => true).isNone

/-- CLUSTER_UNGATING: its tiles are zero with version 0, and `%accown` is 0 (R338). -/
def State.ungate (s : State) (k : Nat) : State :=
  if !s.inMaintenance || !(s.cluster k).gated || (s.cluster k).broken || !s.needs k then s
  else
    let s := (List.range 8).foldl (fun (s : State) i => s.modCore (8 * k + i) Core.clearFile) s
    s.modCluster k fun x => { x with gated := false, idle := 0 }

/-- A core with nothing under way comes to another clock (R4, R336). -/
def Core.newClock (k : Core) : Core :=
  { k with matBusy := 0, tiles := Tbl.mapVal k.tiles fun t => { t with stamp := 0 } }

/-- CLASS_REASSIGNMENT: in a maintenance slot; the cluster is emptied first, from a slot in which no block was admitted there
(R322, R336). -/
def State.reassign (s : State) (k cls : Nat) : State :=
  if !s.inMaintenance || cls > 2 || !(s.cluster k).present then s
  else if (List.range 8).all fun i => s.emptied (8 * k + i) then
    ((List.range 8).foldl (fun (s : State) i => s.modCore (8 * k + i) Core.newClock) s).modCluster k fun x => { x with cls, emptying := false }
  else if (s.cluster k).admitted then s
  else s.modCluster k fun x => { x with emptying := true }

/-- LEASE_EXPIRY (R340). -/
def State.leaseOver (s : State) (x : Nat) : State :=
  s.modCtx x fun k => match k.lease with
    | .active => if k.leaseEnd ≤ s.cyc then { k with lease := .expired } else k
    | .suspended => if k.leaseEnd ≤ s.cyc then { k with lease := .expired } else k
    | .none => k | .expired => k

/-! ### What maintenance slots must bring (R322, R326, R333, R338, R340; log 115) -/

/-- Gated clusters that are needed are un-gated at the boundary of a maintenance slot (R338). -/
def State.ungateAll (s : State) : State :=
  if s.inMaintenance then (Tbl.keys s.mp.clusters).foldl (fun s k => s.ungate k) s else s

/-- At the boundary of a maintenance slot the blocks that must leave their cores begin to, then the clusters that have been idle long
enough are parked (R322, R326, R338, R340). -/
def State.beginMaintenance (s : State) : State :=
  if s.inMaintenance then
    let s := (Tbl.keys s.blocks).foldl (fun s b => s.migrate b) s
    s.gateOrder.foldl (fun s k => s.gate k) s
  else s

/-- In the last cycle of a maintenance slot the failed cores that have been emptied are retested, what waits for a spare and has been
emptied gets one, and power goes from the clusters that have been parked (R326, R333, R338). -/
def State.endMaintenance (s : State) : State :=
  if s.inMaintenance && (s.cyc + 1) % Config.slotCycles == 0 then
    let s := (Tbl.keys s.cores).foldl (fun (s : State) c => s.retest c (Config.retestPasses c s.cyc) (Config.retestPasses c (s.cyc + 1))) s
    let s := (Tbl.keys s.mp.caps).foldl (fun (s : State) c => (s.substitute (.column c)).substitute (.core c)) s
    let s := (Tbl.keys s.mp.clusters).foldl (fun (s : State) k => s.substitute (.cluster k)) s
    s.gateOrder.foldl (fun (s : State) k => if (List.range 8).all fun i => s.emptied (8 * k + i) then s.gate k else s) s
  else s

/-! ### The slot boundary as a whole -/

/-- SLOT_BOUNDARY: once for each slot, in its first cycle; an election that is due comes first (R12, R16, R278, R281, R319–R321, R335,
R338). -/
def State.boundary (s : State) : State :=
  if s.cyc % Config.slotCycles ≠ 0 || s.slotSeen = some s.slotNumber then s
  else
    let s := s.elect
    let s := s.mp.fenceDue.foldl (fun s die => s.fence die) s
    let s := { s.lanesBack.takePeriod.swapBanks with slotSeen := some s.slotNumber, mp.fenceDue := [] }
    let s := (if s.slotNumber = 0 then s else s.countIdle).ungateAll.sampleBudgets.snapshot
    let s := (List.range Config.clusters).foldl (fun s k => s.switchCluster k) s
    let keys := s.blocks.map (·.1)
    let s := keys.foldl (fun s b => s.parkBlock b) s
    let s := keys.foldl (fun s b => s.chooseRestore b) s
    s.rotate.beginMaintenance

/-! ### The events -/

/-- SLOT_BOUNDARY (R12, R16, R281, R319–R321). -/
def execSlotBoundary (s : State) : Out := .next s.boundary
/-- MIGRATION (R322). -/
def execMigration (b : Nat) (s : State) : Out := .next (s.migrate b)
/-- HARDWARE_UNIT_FAILURE (R7, R330, R333). -/
def execHardwareUnitFailure (u : HwUnit) (s : State) : Out := .next (s.unitFails u)
/-- SPARE_SUBSTITUTION (R333). -/
def execSpareSubstitution (u : HwUnit) (s : State) : Out := .next (s.substitute u)
/-- CLUSTER_GATING (R338). -/
def execClusterGating (k : Nat) (s : State) : Out := .next (s.gate k)
/-- CLUSTER_UNGATING (R338). -/
def execClusterUngating (k : Nat) (s : State) : Out := .next (s.ungate k)
/-- CLASS_REASSIGNMENT (R336). -/
def execClassReassignment (k cls : Nat) (s : State) : Out := .next (s.reassign k cls)
/-- LEASE_EXPIRY (R340). -/
def execLeaseExpiry (x : Nat) (s : State) : Out := .next (s.leaseOver x)

end Sys2Proof.Machine
end

