-- ==== Sys2Proof/Machine/HostEvents.lean ====
section
/-! DEFINITION. Sys2Proof/Machine/HostEvents.lean: firmware writes, reset, boot, the management messages, host accesses through the fabric, and
soft errors (R14–R16, R276, R323, R328, R335, R337, R344–R352). -/

namespace Sys2Proof.Machine

open Sys2Proof

/-! ### Firmware writes (R9, R14–R16, R276, R281, R317, R321, R335, R337, R338) -/

/-- A firmware fault is recorded (R14, R15). -/
def State.firmwareFault (s : State) : State := { s with mp := { s.mp with records := s.mp.records ++ [.firmware] } }

/-- The shadow bank changed by f. -/
def State.modShadow (s : State) (f : SlotBank → SlotBank) : State := { s with mp := { s.mp with shadow := f s.mp.shadow } }

/-- A slot's kind is written in the shadow bank; the last maintenance slot stays (R14). -/
def State.writeKind (s : State) (slot kind : Nat) : State :=
  let new := s.mp.shadow.kinds.set slot kind
  if s.mp.shadow.kinds.contains 1 && !new.contains 1 then s.firmwareFault else s.modShadow fun k => { k with kinds := new }

/-- The rotation period is written in the shadow bank (R15). -/
def State.writePeriod (s : State) (v : Nat) : State :=
  if 1 ≤ v ∧ v ≤ 64 then s.modShadow fun k => { k with rperiod := v } else s.firmwareFault

/-- Has a die with no spare cluster left lost part of a cluster (R335)? -/
def State.mayFence (s : State) (die : Nat) : Bool :=
  s.mp.dies.contains die && Tbl.getD s.mp.spareCl die 0 == 0 && (List.range 8).any fun i =>
    let k := 8 * die + i
    !(s.cluster k).present || (s.cluster k).broken || (List.range 8).any fun j => !(s.cap (8 * k + j)).present

/-- The other firmware writes. -/
def State.firmware (s : State) (w : FwWrite) : State :=
  match w with
  | .bind i r => s.modShadow fun k => { k with binds := Tbl.put k.binds i r }
  | .energy k e => s.modCluster k fun x => { x with energyReg := e.toNat }
  | .peak k i => s.modCluster k fun x => { x with peakReg := i.toNat }
  | .tokens n => { s with mp := { s.mp with tokenReg := n } }
  | .threshold n => { s with mp := { s.mp with threshold := n } }
  | .gateSlots n => { s with mp := { s.mp with gateSlots := n } }
  | .clearRecord n => { s with mp := { s.mp with records := s.mp.records.eraseIdx n } }
  | .cellar g => if s.mp.stage < 3 then { s with mp := { s.mp with cellarGiB := g } } else s
  | .fence die => if s.mayFence die then { s with mp := { s.mp with fenceDue := (die :: s.mp.fenceDue).dedup } } else s

/-! ### Boot (R347) -/

/-- The stage that follows stage n is reached, with f. -/
def State.reach (s : State) (n : Nat) (f : Mgmt → Mgmt) : State :=
  if s.mp.stage = n then { s with mp := { f s.mp with stage := n + 1 } } else s

/-- Entry n of an image's section table, and the contents of the section of an entry (R75, R76). -/
def gofEntry (im : List Byte) (n : Nat) : List Byte := (im.drop (field im 0x10 8 + 48 * n)).take 48
def gofContents (im e : List Byte) : List Byte := (im.drop (field e 0x10 8)).take (field e 0x18 8)

/-- Is an image a signed GOF file whose section entries a loader takes (R75–R77)? Its reserved header bytes and the flags other than
`signed` are ignored (R3; log 158, DEDUCED). -/
def gofGood (im : List Byte) : Bool :=
  let n := field im 0x18 4
  let types := (List.range n).map fun i => field (gofEntry im i) 0x04 4
  decide (64 ≤ im.length) && im.take 4 == [0x47, 0x53, 0x4F, 0x46] && field im 0x04 2 == 1 && field im 0x06 2 == 2 && field im 0x08 4 % 2 == 1 &&
  field im 0x0C 4 == 0x4256 && field im 0x1C 4 == 48 && decide (2 ≤ n ∧ n ≤ 65534) && (gofEntry im 0).all (· == 0) &&
  (types.tail.all fun t => decide (1 ≤ t ∧ t ≤ 11)) && types.dropLast.all fun t => t != 11

/-- The bytes that an image's signature covers: the header with flags bit 0 set, then the sections from 1 up to SIG, each
with its entry and its contents, BSS, SYMTAB, STRTAB and RELOC with their entries only (R84). -/
def signedBytes (im : List Byte) : List Byte :=
  let head := im.take 64
  (head.take 8 ++ [head.getD 8 0 ||| 1] ++ head.drop 9) ++
  (List.range (field im 0x18 4 - 2)).flatMap fun i =>
    let e := gofEntry im (i + 1)
    e ++ (if ([4, 8, 9, 10] : List Nat).contains (field e 0x04 4) then [] else gofContents im e)

/-- Does an image's SIG, its last section, verify against a key slot's digest: 156 bytes, format 1, the key identifier, r and s
big-endian (R84)? -/
def sigGood (im : List Byte) (key : Nat) : Bool :=
  let e := gofEntry im (field im 0x18 4 - 1)
  let g := gofContents im e
  let big := fun (o : Nat) => ofBytes ((g.drop o).take 66).reverse
  field e 0x04 4 == 11 && g.length == 156 && field g 0x00 4 == 1 && (g.drop 0x08).take 16 == (toBytes 64 key).take 16 &&
  Config.ecdsaVerify key (Config.sha512 (signedBytes im)) (big 0x18) (big 0x5A)

/-- `%cyc` is set. What the management plane keeps by the old count goes with it: the windows and slots that it has handled, the
scans; a commit of this cycle stays one of this cycle, and a rotation period that waits for the next frame waits for the
next one of the new count (R10, R13, R15, R16). -/
def State.setCyc (s : State) (cyc : Nat) : State :=
  let pending := decide (s.frame < s.mp.periodFrame)
  let commit := s.mp.commit.map fun c => if c = s.cyc then cyc else 1
  { s with
    cyc, slotSeen := none, scanSeen := [],
    cores := Tbl.mapVal s.cores fun k => { k with issued := none, part := 0, spent := false, scan := none, passed := none, verdict := none },
    mp := { s.mp with commit, periodFrame := if pending then cyc / Config.frameCycles + 1 else 0,
                      caps := Tbl.mapVal s.mp.caps fun y => { y with parity := [] } } }

/-- Is the image accepted: it verifies against key slot 0, and its version is not below the rollback floor (R84, R347)? -/
def imageGood : Bool :=
  gofGood Config.image && sigGood Config.image Config.romKeyDigest && decide (Config.rollbackFloor ≤ field Config.image 0x24 4)

/-- The budgets Izunou writes before stage 5 (R337). -/
def defaultBudgets (m : Mgmt) : Mgmt :=
  let put := fun (t : Tbl Cluster) (k : Nat) => Tbl.modD t k .fresh fun (x : Cluster) =>
    if x.present then { x with energyReg := 1200, peakReg := 80000 } else x
  { m with clusters := (List.range Config.clusters).foldl put m.clusters, tokenReg := 2048 }

/-! ### Messages (R344–R350) -/

/-- The device answers a message (R345). -/
def State.reply (s : State) (h : MsgHdr) (code value : Nat) : State :=
  { s with mp := { s.mp with outbox := s.mp.outbox ++ [.status h.tag code value] } }

/-- The device answers a message with bytes. -/
def State.replyBytes (s : State) (h : MsgHdr) (bs : List Byte) : State :=
  { s with mp := { s.mp with outbox := s.mp.outbox ++ [.payload h.tag bs] } }

/-- The rows of R345 that refuse a message other than IDENT and ATTEST, in their order: the STATUS code. -/
def State.turnedAway (s : State) (h : MsgHdr) (known inRange credential : Bool) : Option Nat :=
  if h.sender = .node then some 3
  else if !known then some 5
  else if h.bad || !inRange then some 6
  else if credential && h.sender == .device then some 3
  else if s.mp.stage < 5 then some 4
  else none

/-- A message refused by R345 has no effect; any other does what it defines. -/
def State.message (s : State) (h : MsgHdr) (inRange credential : Bool) (f : State → State) : State :=
  match s.turnedAway h true inRange credential with
  | some c => s.reply h c 0
  | none => f s

/-- Does a context exist? -/
def State.hasCtx (s : State) (x : Nat) : Bool := (Tbl.get? s.ctxs x).isSome

/-- A read that failed: STATUS 3; an error in a sector ends the context (R345, R352). -/
def State.readFailed (s : State) (h : MsgHdr) (x : Nat) (e : Code) (va : Nat) : State :=
  let s := if e = .memue ∨ e = .integrity then s.endCtx x { code := e, fpc := s.openFpc e, faddr := BitVec.ofNat 64 va, fmask := 0 } else s
  s.reply h 3 0

/-- Is a handle a live one for the host, who sees nothing that a rollback may still undo (R274, R328; log 168)? -/
def State.hostLive (s : State) (x : Nat) (h : Word) : Bool :=
  s.liveHandle x h && (if handleKind h = 3 then (Tbl.get? s.cp.tasks (handleSlot h)).any fun t => t.maker.isNone
    else (Tbl.get? s.cp.futures (handleSlot h)).any fun f => f.maker.isNone)

/-- LAUNCH: a task from the LPB at T (R275, R284, R344, R345). -/
def State.launch (s : State) (h : MsgHdr) (x : Nat) (lpb : DWord) (node : Bool) : State :=
  match s.hostRead x lpb.toNat 256 with
  | .error e => s.readFailed h x e lpb.toNat
  | .ok bs =>
    let p := Lpb.ofBytes bs
    match p.bad (h.sender == .host) node (s.hostLive x) with
    | some off => s.reply h 1 off
    | none =>
      let make := fun (q : Lpb) =>
        let (t, hd) := s.newTask x lpb q node
        if hd = 0 then s.reply h 2 0 else t.evalTasks.reply h 0 hd.toNat
      if p.schedset = 0 then make p
      else match s.hostRead x p.schedset 64 with
        | .error e => s.readFailed h x e p.schedset
        | .ok es => match schedPick es p.extent with
          | none => s.reply h 1 0x48
          | some e => make (p.withEntry e)

/-- SHAPE, op 0 (R270, R344). -/
def State.shapeMake (s : State) (h : MsgHdr) (x : Nat) (f : ShapeFields) : State :=
  let sh : Shape := { base := f.base.toNat, dims := f.dims.toNat, extents := f.extents.map (·.toNat),
                      strides := f.strides.map (·.toInt), fmt := f.fmt.toNat, rights := f.rights.toNat, ctx := x }
  match s.newShape sh with
  | none => s.reply h 2 0
  | some (t, hd) => t.reply h 0 hd.toNat

/-- SHAPE, op 1 (R270, R344). -/
def State.shapeGone (s : State) (h : MsgHdr) (x : Nat) (hd : Word) : State :=
  match s.cp.shape? x hd with
  | none => s.reply h 3 0
  | some _ => { s with cp := { s.cp with shapes := Tbl.erase s.cp.shapes (handleSlot hd) } }.reply h 0 0

/-- The identity word (R346). -/
def State.identity (s : State) : Nat :=
  0xABA0 * 2 ^ 48 + 0x4256 * 2 ^ 32 + s.mp.dev.getD 0xFF * 2 ^ 16 + s.mp.stage * 2 ^ 8 + 0xB1

/-- CTXNEW: the lowest free context number from 1, since 0 in `%accown` means none (R201, R215, R263, R317, R318, R344). -/
def State.newCtx (s : State) (h : MsgHdr) (root : Nat) (tvec : DWord) (quota : Nat) : State :=
  match freeSlot s.ctxs 1 with
  | none => s.reply h 2 0
  | some x =>
    let q := if quota = 0 then s.mp.cellarGiB * 16384 / 16 else quota
    let k : Ctx := { root, tvec, mmode := 0, quota := q, ctrs := [], acct := [0, 0, 0, 0], corrected := 0,
                     snap := [0, 0, 0, 0, 0], lease := .none, leaseEnd := 0, ending := none }
    { s with ctxs := Tbl.put s.ctxs x k, mp := { s.mp with ctxSeen := true } }.reply h 0 x

/-- The host ends a context (R311). -/
def State.hostEnds (s : State) (x : Nat) : State :=
  s.modCtx x fun k => match k.ending with
    | some _ => k
    | none => { k with ending := some (0, 0, 0) }

/-- LEASE: granted, or extended while it runs (R340). -/
def State.grant (s : State) (x dur : Nat) : State :=
  (s.modCtx x fun k => match k.lease with
    | .none => { k with lease := .active, leaseEnd := s.cyc + dur }
    | .expired => { k with lease := .active, leaseEnd := s.cyc + dur }
    | .active => { k with leaseEnd := k.leaseEnd + dur }
    | .suspended => { k with leaseEnd := k.leaseEnd + dur }).leaseCheck x

/-- A bit map of the numbers below n that satisfy p, lowest first, in bytes. -/
def bitmap (n : Nat) (p : Nat → Bool) : List Byte :=
  toBytes (n / 8) (sumBy (fun i => if p i then 2 ^ i else 0) (List.range n))

/-- The capacity record (R334). -/
def State.capacity (s : State) : List Byte :=
  let there := fun (c : Nat) => (s.cap c).present && (s.cluster (clusterOf c)).present
  bitmap 256 there ++ bitmap 32 (fun k => (s.cluster k).present) ++
  ((List.range 4).map fun d => BitVec.ofNat 8 (Tbl.getD s.mp.spareCl d 0)) ++
  ((List.range 32).map fun k => BitVec.ofNat 8 (s.cluster k).spares) ++
  bitmap 8 (fun d => s.mp.dies.contains d) ++ toBytes 3 0 ++ toBytes 4 s.mp.cellarGiB ++ toBytes 4 s.cellarFree ++
  toBytes 44 0 ++ ((List.range 256).flatMap fun c => toBytes 2 (s.cap c).rows) ++
  (List.range 256).map fun c => BitVec.ofNat 8 (s.cap c).spareRows

/-- KEYSET: only before the first CTXNEW (R349). -/
def State.setKey (s : State) (h : MsgHdr) (slot dig : Nat) : State :=
  if s.mp.ctxSeen then s.reply h 3 0
  else { s with mp := { s.mp with keys := Tbl.put s.mp.keys slot dig } }.reply h 0 0

/-- The signed part of the attestation report (R350). -/
def State.reportBody (s : State) (nonce : Nat) : List Byte :=
  toBytes 64 nonce ++ toBytes 8 s.identity ++ toBytes 64 (Config.sha512 Config.image) ++
  toBytes 64 (Config.sha512 ((List.range 16).flatMap fun i => toBytes 64 (Tbl.getD s.mp.keys i 0))) ++
  toBytes 64 (Config.sha512 s.capacity)

/-- The attestation report: the signature's r and s are big-endian (R350). -/
def State.attestation (s : State) (nonce : Nat) : List Byte :=
  s.reportBody nonce ++ (toBytes 132 (Config.ecdsaSign (s.reportBody nonce))).reverse

/-! ### Host accesses (R328, R344, R352) -/

/-- A host access to device memory: a read returns the newest committed bytes; a write goes to T, and waits while a byte
holds a provisional version or a part of a bad sector would be written. -/
def State.hostAccess (s : State) (a : HostAccess) : State :=
  match a with
  | .read pa n =>
    let pas := (List.range n).map (pa + ·)
    if !(pas.all fun p => s.physOk p) || (s.ms.committedFault s.dev pas).isSome then s
    else { s with mp := { s.mp with outbox := s.mp.outbox ++ [.payload 0 (pas.map s.ms.committed)] } }
  | .write pa bs =>
    let pas := (List.range bs.length).map (pa + ·)
    let m := s.ms.heal pas
    if !(pas.all fun p => s.physOk p) || (pas.any fun p => (s.ms.nodeOf (.byte p)).isSome) || (m.sectorFault s.dev pas).isSome
    then s
    else { s with ms := { m with truth := Memory.writes m.truth pa bs, marks := m.marks.filter fun x => !pas.any fun p => x.1 == .byte p } }

/-! ### Soft errors and links (R323, R324, R335, R351, R352) -/

/-- A parity error of a row is counted; the second within one frame marks the row for retirement (R324). -/
def State.countParity (s : State) (c r : Nat) : State :=
  s.modCap c fun y =>
    if y.parity.contains (r, s.frame) then
      { y with failing := if y.failing.contains r then y.failing else y.failing ++ [r] }
    else { y with parity := (r, s.frame) :: y.parity.filter fun p => p.2 == s.frame }

/-- An error strikes the sector of the n-th version of a byte (R327, R351). -/
def hitVersion (e : SectorErr) (n : Nat) (l : List Staged) : List Staged :=
  match l with
  | [] => []
  | v :: r =>
    if !v.isByte then v :: hitVersion e n r
    else match n with
      | 0 => { v with bad := some (Sector.hit v.bad e) } :: r
      | k + 1 => v :: hitVersion e k r

/-- Does a block's Trunk hold a sector: of its save area, or of the image that stands there (R318)? -/
def Block.trunkHolds (bk : Block) (n : Nat) : Bool :=
  let there := match bk.place with
    | .trunk _ _ _ _ _ => true
    | .moving _ _ _ => bk.restoring
    | .core _ => false
  decide (n ≤ headSector) || (there && decide (n < headSector + 1 + bk.image / 64))

/-- An error that ECC cannot correct strikes a place of block b (R323). -/
def State.strikeEcc (s : State) (b : Nat) (e : EccAt) : State :=
  s.modBlock b fun bk => { bk with ecc := if bk.ecc.contains e then bk.ecc else e :: bk.ecc }

/-- SOFT_ERROR strikes a register word, another place of a block, or a sector of HBM, of a Trunk or of a staging region (R323, R351, R352). -/
def State.strike (s : State) (e : SoftErr) : State :=
  match e with
  | .row b r l => match s.block? b with
    | none => s
    | some bk => match bk.core? with
      | none => s
      | some c => (s.modBlock b fun k => k.modRow r fun x => { x with err := setBit x.err l true }).countParity c r
  | .oreg b w n l => s.modThread b w l fun t => { t with oErr := t.oErr ||| (1#8 <<< n) }
  | .last b w l p => s.modThread b w l fun t =>
      { t with lastErr := t.lastErr ||| (match p with | .la => 1#3 | .lb => 2#3 | .lc => 4#3) }
  | .sector pa e =>
    if (homeOf pa ≠ s.dev ∧ (Config.otherDevice (homeOf pa)).isNone) ∨ devOffset pa ≥ Config.hbmBytes then s
    else { s with ms := { s.ms with sectors := Tbl.put s.ms.sectors (pa / 64) (Sector.hit (Tbl.get? s.ms.sectors (pa / 64)) e) } }
  | .scalar b w n => s.strikeEcc b (.scalar w n)
  | .pred b w l k => s.strikeEcc b (.pred w l k)
  | .rejoin b w k => s.strikeEcc b (.rejoin w k)
  | .map b w n => s.strikeEcc b (.map w n)
  | .count b r => s.strikeEcc b (.count r)
  | .trunk b n e => s.modBlock b fun bk =>
      if bk.trunkHolds n then { bk with bad := Tbl.put bk.bad n (Sector.hit (Tbl.get? bk.bad n) e) } else bk
  | .version n e =>
    if n < s.spilled.length then { s with ms := { s.ms with staged := hitVersion e n s.ms.staged } } else s

/-- LINK_FAILURE (R335). -/
def State.linkFails (s : State) (k : LinkUnit) : State :=
  match k with
  | .die n last => if last && !s.mp.badLinks.contains n then { s with mp := { s.mp with badLinks := s.mp.badLinks ++ [n] } } else s
  | .lane n => if s.mp.badLanes.contains n then s else { s with mp := { s.mp with badLanes := s.mp.badLanes ++ [n] } }

/-! ### The events -/

/-- SLOT_TABLE_COMMIT (R16). -/
def execSlotTableCommit (s : State) : Out := .next { s with mp := { s.mp with commit := some s.cyc } }
/-- SLOT_KIND_WRITE (R14). -/
def execSlotKindWrite (slot kind : Nat) (s : State) : Out := .next (s.writeKind slot kind)
/-- RPERIOD_WRITE (R15). -/
def execRperiodWrite (v : Nat) (s : State) : Out := .next (s.writePeriod v)
/-- FIRMWARE_REGISTER_WRITE (R9, R276, R281, R321, R337, R338). -/
def execFirmwareRegisterWrite (w : FwWrite) (s : State) : Out := .next (s.firmware w)
/-- DEVICE_RESET: the state after reset; the choices to come, which are the model's own, stand (log 1). -/
def execDeviceReset (s : State) : Out := .next { State.reset with agenda := s.agenda }
/-- BOOT_ROM_START (R347). -/
def execBootRomStart (s : State) : Out := .next (s.reach 0 id)
/-- BOOT_IMAGE_VERIFY (R347). -/
def execBootImageVerify (s : State) : Out := .next (if imageGood then s.reach 1 id else s)
/-- HBM_TRAINING: the AES keys are generated; a device whose training failed stays at stage 2 (R317, R347, R351). -/
def execHbmTraining (ok : Bool) (s : State) : Out :=
  .next (if s.mp.stage != 2 || s.mp.hbmFailed then s
    else if ok then s.reach 2 fun m => { m with aes := true } else { s with mp := { s.mp with hbmFailed := true } })
/-- FABRIC_JOIN: `%dev`, the master's `%cyc`, the host credential (R10, R341, R347). -/
def execFabricJoin (ok : Bool) (dev cyc : Nat) (s : State) : Out :=
  .next (if ok && s.mp.stage == 3 then (s.reach 3 fun m => { m with dev := some dev, host := true }).setCyc cyc else s)
/-- ATTESTATION_READY (R337, R347). -/
def execAttestationReady (s : State) : Out := .next (s.reach 4 defaultBudgets)
/-- LAUNCH (R344, R345). -/
def execLaunch (h : MsgHdr) (x : Nat) (lpb : DWord) (node : Bool) (s : State) : Out :=
  .next (s.message h (s.hasCtx x && lpb.toNat % 256 == 0) false fun s => s.launch h x lpb node)
/-- SHAPE, op 0 (R270, R344, R345). -/
def execShapeCreate (h : MsgHdr) (x : Nat) (f : ShapeFields) (s : State) : Out :=
  .next (s.message h (s.hasCtx x && decide (1 ≤ f.dims.toNat ∧ f.dims.toNat ≤ 4) && f.reserved == 0) false fun s =>
    s.shapeMake h x f)
/-- SHAPE, op 1 (R270, R344, R345). -/
def execShapeFree (h : MsgHdr) (x : Nat) (hd : Word) (s : State) : Out :=
  .next (s.message h (s.hasCtx x) false fun s => s.shapeGone h x hd)
/-- IDENT: answered for any node, at any stage (R345–R347). -/
def execIdent (h : MsgHdr) (s : State) : Out := .next (s.reply h 0 s.identity)
/-- CTXNEW (R344, R345). -/
def execCtxnew (h : MsgHdr) (root : Nat) (tvec : DWord) (quota : Nat) (s : State) : Out :=
  .next (s.message h true true fun s => s.newCtx h root tvec quota)
/-- CTXEND (R311, R344, R345). -/
def execCtxend (h : MsgHdr) (x : Nat) (s : State) : Out :=
  .next (s.message h (s.hasCtx x) true fun s => (s.hostEnds x).reply h 0 0)
/-- LEASE (R340, R344, R345). -/
def execLease (h : MsgHdr) (x dur : Nat) (s : State) : Out :=
  .next (s.message h (s.hasCtx x) true fun s => (s.grant x dur).reply h 0 0)
/-- TELEM: the counters as of the last telemetry slot (R220, R324, R344). -/
def execTelem (h : MsgHdr) (x : Nat) (s : State) : Out :=
  .next (s.message h (s.hasCtx x) false fun s => s.replyBytes h ((match Tbl.get? s.ctxs x with
    | some k => k.snap
    | none => []).flatMap fun n => toBytes 8 n))
/-- CAPREAD (R334, R344). -/
def execCapread (h : MsgHdr) (s : State) : Out := .next (s.message h true false fun s => s.replyBytes h s.capacity)
/-- KEYSET (R344, R345, R349). -/
def execKeyset (h : MsgHdr) (slot dig : Nat) (s : State) : Out :=
  .next (s.message h (decide (1 ≤ slot ∧ slot ≤ 15)) true fun s => s.setKey h slot dig)
/-- ATTEST: answered for any node, at any stage (R345, R347, R350). -/
def execAttest (h : MsgHdr) (nonce : Nat) (s : State) : Out := .next (s.replyBytes h (s.attestation nonce))
/-- UNKNOWN_MESSAGE_CODE (R345). -/
def execUnknownMessageCode (h : MsgHdr) (_code : Nat) (s : State) : Out :=
  .next (match s.turnedAway h false true false with
    | some c => s.reply h c 0
    | none => s)
/-- HOST_FABRIC_ACCESS (R328, R344). -/
def execHostFabricAccess (a : HostAccess) (s : State) : Out := .next (s.hostAccess a)
/-- SOFT_ERROR (R309, R323, R324, R352). -/
def execSoftError (e : SoftErr) (s : State) : Out := .next (s.strike e)
/-- LINK_FAILURE (R335). -/
def execLinkFailure (k : LinkUnit) (s : State) : Out := .next (s.linkFails k)

end Sys2Proof.Machine
end

