-- ==== Sys2Proof/Machine/Policy.lean ====
section
/-! DEFINITION. Sys2Proof/Machine/Policy.lean: what the step needs around the instructions: the group that is ready at an address, the order of a
bundle's words, the chip cycle's end, the events the machine may choose, and a machine loaded with one bundle (R10, R32, R91, R95, R101; log 1). -/

namespace Sys2Proof.Machine

open Sys2Proof

/-! ### Issue (R89) -/

/-- What a group finds at its address: the first of its warps that may fetch there (R52, R105). -/
def State.groupFetch (s : State) (c : Nat) (bk : Block) (a : DWord) (g : List (Nat × Nat)) : Fetched :=
  ((warpsOf g).findSome? fun w => match s.fetch c bk w (bk.fragment w a) a with
    | .none => none
    | .miss pa => some (.miss pa)
    | .bad e => some (.bad e)
    | .got b => some (.got b)).getD .none

/-- The ready group of a block at an address with its fetch, if its core may issue for it; the fragment of warp `first`, if one must
issue now, is in it (R89, R91). -/
def State.readyGroup (s : State) (c b : Nat) (a : DWord) (first : Option Nat) : Option (Block × List (Nat × Nat) × Fetched) :=
  match s.block? b with
  | none => none
  | some bk =>
    if !s.mayIssue c bk then none
    else match s.groupWith c b bk a first with
      | [] => none
      | p :: r => some (bk, p :: r, s.groupFetch c bk a (p :: r))

/-- The words of a bundle in the order in which they act: a control transfer last (R32). -/
def inOrder (ws : List Placed) : List Placed :=
  (ws.filter fun p => p.i.family != .transfer) ++ ws.filter fun p => p.i.family == .transfer

/-! ### The end of a chip cycle (R10, R101, R265, R325) -/

/-- A fragment waits only for conditions 3 and 4 of R90, or only for a token. -/
def onlyFor (p : Wait → Bool) (ws : List Wait) : Bool := !ws.isEmpty && ws.all p

/-- `%stall` or `%pstall` of the fragment of warp w at an address grows by 1 as a core cycle ends (R4, R101), unless it was ready
at the cycle's start and another group was chosen. A thread that has come to the address since then is not of it. -/
def State.countStalls (s : State) (c key : Nat) (bk : Block) (w : Nat) (a : DWord) (out : Block) : Block :=
  let lanes := (bk.fragment w a).filter fun l => (bk.thread w l).stood == some a
  if lanes.any fun l => (bk.thread w l).since.isSome then out
  else
    let why := s.fragWaits c key bk w a lanes
    let ps := lanes.map fun l => (w, l)
    if onlyFor (fun x => x == .source || x == .line) why then out.modThreads ps fun t => { t with stall := t.stall + 1 }
    else if onlyFor (fun x => x == .token) why then out.modThreads ps fun t => { t with pstall := t.pstall + 1 }
    else out

/-- f for each fragment of a block. -/
def Block.eachFragment (bk : Block) (f : Block → Nat → DWord → Block) : Block :=
  (Tbl.keys bk.warps).foldl (fun out w => (bk.addressesOf w).foldl (fun out a => f out w a) out) bk

/-- The stalls of one block of core c as a core cycle ends: none while a drain, a scan or a relocation is under way (R101). -/
def State.blockStalls (s : State) (c key : Nat) (bk : Block) : Block :=
  if s.coreOpen c bk then bk.eachFragment fun out w a => s.countStalls c key bk w a out else bk

/-- Where the threads of a block of core c stand as a core cycle starts, which of its fragments are ready there, and since which one
without a break; none while the core is not open to the block (R90, R91, R101). -/
def State.markReady (s : State) (c key : Nat) (bk : Block) : Block :=
  if s.coreOpen c bk then
    bk.eachFragment fun out w a =>
      let n := s.coreNow c
      let ready := s.fragReady c key bk w a
      out.modThreads ((bk.fragment w a).map fun l => (w, l)) fun t =>
        { t with since := if ready then some (t.since.getD n) else none, stood := some a }
  else bk.modThreads bk.live fun t => { t with since := none, stood := none }

/-- Every block of core c changed by f, which sees the key. -/
def State.mapCore (s : State) (c : Nat) (f : Nat → Block → Block) : State :=
  { s with blocks := Tbl.mapKV s.blocks fun k bk => if bk.core? = some c then f k bk else bk }

/-- A core cycle of core c ends: stalls are counted, and what must happen within the cycle does (R101, R102, R236, R255). -/
def State.closeCore (s : State) (c : Nat) : State :=
  (((((s.mapCore c (s.blockStalls c)).startMats c).pressStores c).pressLocals c).passBars c)

/-- The rejoin registers that a JSET set in the last core cycle are evaluated (R94). -/
def Block.rejoins (bk : Block) (now : Nat) : Block :=
  { bk with warps := Tbl.mapVal bk.warps fun wp => wp.jset.foldl (fun (x : Warp) k => x.rejoinCheck k now) { wp with jset := [] } }

/-- Results due in the core cycle of core c at hand land, then held threads are released (R94, R95). -/
def State.landCore (s : State) (c : Nat) : State := s.mapCore c fun _ bk => (bk.land (s.coreNow c)).rejoins (s.coreNow c)

/-- Core c goes on to the next of the core cycles that begin in this chip cycle (R4). -/
def State.coreStep (s : State) (c : Nat) : State :=
  let s := (s.closeCore c).modCore c fun k => { k with part := k.part + 1, spent := false }
  let s := (((s.endMats c).landCore c).feed c).repairCore c
  s.mapCore c (s.markReady c)

/-- Does another core cycle of core c begin in this chip cycle? -/
def State.moreCycles (s : State) (c : Nat) : Bool := decide ((s.core c).part + 1 < s.coreBegins c)

/-- Core c is in a core cycle in which it may issue, if one is left in this chip cycle: a bundle that has issued in the one at hand
ends it (R89). -/
def State.turnCore (s : State) (c : Nat) : State := if (s.core c).spent && s.moreCycles c then s.coreStep c else s

/-- Since which core cycle the fragment of warp w at an address is ready, if it is. -/
def State.readySince (s : State) (c key : Nat) (bk : Block) (w : Nat) (a : DWord) : Option Nat :=
  if !s.fragReady c key bk w a then none
  else some (maxBy id ((bk.fragment w a).map fun l => (bk.thread w l).since.getD (s.coreNow c)))

/-- A fragment that must issue: block, address, warp. -/
abbrev Due := Nat × DWord × Nat

/-- The ready fragments of core c that it is open to, those ready longest first: since when, and which. -/
def State.readyList (s : State) (c : Nat) : List (Nat × Due) :=
  sortBy (fun (x : Nat × Due) => x.1) ((s.blocksOn c).flatMap fun p =>
    if !s.mayIssue c p.2 then []
    else (Tbl.keys p.2.warps).flatMap fun w => (p.2.addressesOf w).filterMap fun a =>
        (s.readySince c p.1 p.2 w a).map fun n => (n, p.1, a, w))

/-- The fragment that core c must issue in this core cycle, so that each fragment that stays ready issues within 4,096 core
cycles: the one ready longest, if some n-th fragment by age could not wait one more core cycle (R91; log 1). -/
def State.dueOn (s : State) (c : Nat) : Option (Nat × Due) :=
  let now := s.coreNow c + 1
  let old := (s.blocksOn c).any fun p => p.2.live.any fun q => match (p.2.thread q.1 q.2).since with
    | none => false
    | some n => decide (n + 2048 ≤ now)
  let l := if old then s.readyList c else []
  if l.zipIdx.any fun x => decide (x.1.1 + 4096 ≤ now + x.2) then l.head?.map fun x => (c, x.2) else none

/-- The fragment that core c must issue before this chip cycle ends, with the machine in the core cycle in which it must: the one at
hand, or the chip cycle's next (R91). -/
def State.overdueOn (s : State) (c : Nat) : Option (State × Nat × Due) :=
  match s.dueOn c with
  | some g => some (s, g)
  | none => if s.moreCycles c then ((s.coreStep c).dueOn c).map fun g => (s.coreStep c, g) else none

/-- The cores that have a block or a record. -/
def State.usedCores (s : State) : List Nat := (Tbl.keys s.cores ++ s.blocks.filterMap fun p => p.2.core?).dedup

/-- The first fragment that some core must issue before the chip cycle ends (R91). -/
def State.overdue (s : State) : Option (State × Nat × Due) :=
  (s.usedCores.filter fun c => decide (0 < s.cyclesLeft c)).findSome? s.overdueOn

/-- What a chip cycle brings about before it ends: the scans and the slot boundary of a first cycle that no other cycle came
before, then each core's core cycles end, and with a maintenance slot's last cycle its work (R4, R12, R13, R326, R331, R338, R352). -/
def State.closeCycle (s : State) : State :=
  let s := s.scans.boundary.payAll
  let s := (s.usedCores.filter s.moreCycles).foldl (fun (s : State) c => s.coreStep c) s
  let s := (s.usedCores.filter fun c => decide (0 < s.coreBegins c)).foldl (fun (s : State) c => s.closeCore c) s
  s.settleBlame.rollAll.commitAll.endMaintenance

/-- What a chip cycle brings about at its start: scans, a slot boundary, leases that end, matrix requests and promised copies
that complete, results that land, relocations, deadlines that are missed (R12, R13, R95, R233, R234, R255, R313, R331, R340); and
the first of its core cycles begins. -/
def State.openCycle (s : State) : State :=
  let s := s.scans.rollAll.commitAll.boundary.retireRows
  let s := (Tbl.keys s.ctxs).foldl (fun s x => s.leaseOver x) s
  let s := (s.usedCores.foldl (fun (s : State) c => s.endMats c) s).keepPromises
  let starts := fun (s : State) => s.usedCores.filter fun c => decide (0 < s.coreBegins c)
  let s := (starts s).foldl (fun (s : State) c => s.landCore c) s
  let s := (s.usedCores.foldl (fun (s : State) c => s.feed c) s).relocations.raiseLates
  (starts s).foldl (fun (s : State) c => let s := s.repairCore c; s.mapCore c (s.markReady c)) s

/-- The chip cycle ends, `%cyc` advances, and the next one begins (R10). -/
def State.tick (s : State) : State :=
  let s := s.closeCycle
  { s with cyc := s.cyc + 1, cores := Tbl.mapVal s.cores fun k => { k with part := 0, spent := false } }.openCycle

/-- RESULT_LANDING: the block's core goes on to the chip cycle's next core cycle, if there is one and no group must issue first, and
the results due there land (R4, R91, R95). -/
def execResultLanding (b : Nat) (s : State) : Out :=
  .next (match (s.block? b).bind Block.core? with
    | none => s
    | some c =>
      let s := if s.moreCycles c && ((s.core c).spent || (s.dueOn c).isNone) then s.coreStep c else s
      s.modBlock b fun bk => bk.land (s.coreNow c))

/-! ### What the machine may choose (R25, R91) -/

/-- The next step of boot (R347). -/
def State.bootChoices (s : State) : List Instr :=
  match s.mp.stage with
  | 0 => [.bootRomStart]
  | 1 => [.bootImageVerify]
  | 2 => [.hbmTraining true]
  | 3 => [.fabricJoin true 0 s.cyc]
  | 4 => [.attestationReady]
  | _ => []

/-- The events of one thread. -/
def threadChoices (bk : Block) (b w l : Nat) (rep : List (Nat × Reg)) : List Instr :=
  let t := bk.thread w l
  (if t.memFault.isSome then [.memoryFaultDetection b w l] else []) ++
  (if t.trap.isSome || !t.lates.isEmpty then [.handlerEntry b w l] else []) ++
  (if !t.holds.isEmpty then [.memoryHoldRelease b w l] else []) ++
  (if t.wake ≠ 0 then [.wakeTime b w l] else []) ++
  rep.map fun x => .registerRepair b w x.1 x.2

/-- The register words that a thread's bundle reads and that could be repaired (R324). -/
def State.repairOf (s : State) (bk : Block) (w l : Nat) : List (Nat × Reg) :=
  match bk.core? with
  | none => []
  | some c =>
    let a := (bk.thread w l).pc
    repairs bk (s.fetch c bk w (bk.fragment w a) a).words w l

/-- The events of one block. -/
def State.blockChoices (s : State) (b : Nat) (bk : Block) : List Instr :=
  (bk.ops.flatMap fun o => [.translation (.mem b o.id), .loadArrival b o.id]) ++
  (bk.live.flatMap fun p => threadChoices bk b p.1 p.2 (s.repairOf bk p.1 p.2)) ++
  [.blockCompletion b, .drainEnd b, .relocationResume b, .restore b, .migration b] ++
  (List.range 16).map fun t => .tileClaimTransfer b t

/-- The events of one core. -/
def coreChoices (c : Nat) (k : Core) : List Instr :=
  (k.copyQ.flatMap fun r =>
    [.translation (.req c r.id), .copyStart c r.id] ++ (r.parts.zipIdx.map fun y => .copyDeliver c r.id ⟨y.2, 2 ^ y.1.n - 1⟩) ++
    [.late r.b r.id]) ++
  (k.matQ.flatMap fun r => [.matrixStart c r.id, .matrixComplete c r.id]) ++
  ((List.range 16).map fun t => .tileAutoload c t) ++
  (if k.failed then [.coreRetest c true true] else [])

/-- The events of the task engine and of the management plane. -/
def State.planeChoices (s : State) : List Instr :=
  (if s.mp.rollDue.isEmpty then [] else [.rollback (s.mp.rollDue.map (·.1)).dedup]) ++
  ((Tbl.keys s.ctxs).map fun x => .contextEnd x) ++ (if s.cp.master.isNone then [.masterElection] else []) ++
  (s.cp.tasks.flatMap fun p => [.resampCollective p.1, .nodeCommit p.1, .blockAdmission p.1]) ++
  (s.mp.caps.flatMap fun p => (p.2.failing.map fun r => Instr.spareSubstitution (.row p.1 r)) ++
    (if p.2.badCol then [.spareSubstitution (.column p.1)] else []) ++
    (if p.2.broken then [.spareSubstitution (.core p.1)] else [])) ++
  (s.mp.clusters.flatMap fun p => (if p.2.broken then [.spareSubstitution (.cluster p.1)] else []) ++
    [.clusterUngating p.1]) ++
  s.gateOrder.map fun k => .clusterGating k

/-- The groups that could issue, those whose thread has been eligible longest first (R91). -/
def State.issueChoices (s : State) : List Choice :=
  let all := s.blocks.flatMap fun p => match p.2.core? with
    | none => []
    | some c => p.2.addresses.map fun a =>
        (minBy id ((p.2.live.filter fun q => (p.2.thread q.1 q.2).pc == a).map fun q => (p.2.thread q.1 q.2).ready), c, p.1, a)
  (sortBy (fun (x : Option Nat × Nat × Nat × DWord) => x.1.getD 0) all).map fun x => .issue x.2.1 x.2.2.1 x.2.2.2 false

/-- What the machine may choose when no choice is given, in the order in which it looks (log 1). -/
def State.candidates (s : State) : List Choice :=
  let first : List Instr := s.bootChoices ++ [.slotBoundary] ++ s.mp.dies.map fun d => .scanStart d
  let blocks : List Instr := s.blocks.flatMap fun p => s.blockChoices p.1 p.2
  let cores : List Instr := s.cores.flatMap fun p => coreChoices p.1 p.2
  (first ++ s.planeChoices ++ blocks ++ cores).map Choice.event ++ s.issueChoices ++
  (Tbl.keys s.blocks).map fun b => .event (.resultLanding b)

/-! ### A machine loaded with one bundle -/

/-- Context 1 of a loaded machine. -/
def loadedCtx : Ctx :=
  { root := 0, tvec := 0, mmode := 1, quota := 0, ctrs := [], acct := [0, 0, 0, 0], corrected := 0,
    snap := [0, 0, 0, 0, 0], lease := .none, leaseEnd := 0, ending := none }

/-- The LPB of a loaded machine: one block of one warp with 256 rows. -/
def loadedLpb : Lpb := { Lpb.zero with hi := 1, grain := 1, warps := 1, quota := 256, cls := 1, window := 2097152, flags := 16 + 32 }

/-- The task of a loaded machine. -/
def loadedTask : Task :=
  { ctx := 1, addr := 0, lpb := loadedLpb, st := .running, order := 0, node := false, edges := [],
    intervals := [], unclaimed := [], chunks := [], admitted := 1, completed := 0, nextBlk := 1, lastAdmit := some 0, gen := 0,
    committed := true, inherits := [], cores := [], value := 0, waiters := [], dropped := false }

/-- A thread of a loaded machine: at supervisor level, so that no word is privileged beyond it. -/
def loadedThread : Thread := { Thread.fresh with live := true, pc := 0x10000#64, level := .supervisor }

/-- The block of a loaded machine, on core 0. -/
def loadedBlock : Block :=
  { task := 0, blk := 0, ctx := 1, handle := mkHandle 3 0 0, lpbAddr := 0, lpb := loadedLpb, place := .core 0, drain := none,
    rows := [], warps := [(0, { Warp.fresh with threads := (List.range 32).map fun l => (l, loadedThread) })], boxes := [], win := [], lines := [],
    bars := [], unfold := none, saved := [], pend := [], ops := [], carried := [] }

/-- Context 1, which owns core 0's accumulator file, a task, a block with one warp at address 2^16, the bundle there in memory
and in core 0's instruction cache, the page's translation in core 0's TLB, a power token, scoreboard mode, and the choice that
issues the bundle (log 27). -/
def State.loaded (s : State) (b : BundleBits) : State :=
  let m := s.ms
  let e : TlbEnt := { ctx := 1, va := 0x10000, bits := 16, pa := s.dev * 2 ^ 44 + 0x10000, perm := 7 }
  let pa := s.dev * 2 ^ 44 + 0x10000
  let s := s.modCore 0 fun k => { k with issued := none, part := 0, spent := false, scan := none, accown := 1 }
  let s := { s with mp := { s.mp with clusters := Tbl.modD s.mp.clusters 0 .fresh fun x => { x with cls := 1 } } }
  { s with
    ms := { m with truth := Memory.writes m.truth pa (toBytes 32 b.toNat), tlb := Tbl.put m.tlb 0 [e],
                   icache := Tbl.put m.icache 0 [(pa, b)] },
    blocks := [(0, loadedBlock)], ctxs := Tbl.put s.ctxs 1 loadedCtx,
    cp := { s.cp with tasks := Tbl.put s.cp.tasks 0 loadedTask },
    mp := { s.mp with tokens := s.mp.tokensUsed + 2 },
    agenda := .issue 0 0 0x10000#64 false :: s.agenda }

end Sys2Proof.Machine
end

