-- ==== Sys2Proof/Machine/Dispatch.lean ====
section
/-! DEFINITION. Sys2Proof/Machine/Dispatch.lean: one arm for every instruction and event. -/

namespace Sys2Proof.Machine

open Sys2Proof

def exec (i : Instr) (s : State) : Host.Outcome State Fault Refusal :=
  match i with
  | .nop w => Sys2Proof.Machine.execNop w s
  | .bra w => Sys2Proof.Machine.execBra w s
  | .br w => Sys2Proof.Machine.execBr w s
  | .jmpi w => Sys2Proof.Machine.execJmpi w s
  | .call w => Sys2Proof.Machine.execCall w s
  | .calli w => Sys2Proof.Machine.execCalli w s
  | .ret w => Sys2Proof.Machine.execRet w s
  | .jset w => Sys2Proof.Machine.execJset w s
  | .jsetI w => Sys2Proof.Machine.execJsetI w s
  | .jwait w => Sys2Proof.Machine.execJwait w s
  | .elect w => Sys2Proof.Machine.execElect w s
  | .exit w => Sys2Proof.Machine.execExit w s
  | .trap w => Sys2Proof.Machine.execTrap w s
  | .bkpt w => Sys2Proof.Machine.execBkpt w s
  | .sleepc w => Sys2Proof.Machine.execSleepc w s
  | .sleepcI w => Sys2Proof.Machine.execSleepcI w s
  | .napto w => Sys2Proof.Machine.execNapto w s
  | .hint w => Sys2Proof.Machine.execHint w s
  | .yield w => Sys2Proof.Machine.execYield w s
  | .sysc w => Sys2Proof.Machine.execSysc w s
  | .eret w => Sys2Proof.Machine.execEret w s
  | .srd w => Sys2Proof.Machine.execSrd w s
  | .swr w => Sys2Proof.Machine.execSwr w s
  | .rnew w => Sys2Proof.Machine.execRnew w s
  | .rfree w => Sys2Proof.Machine.execRfree w s
  | .rmov w => Sys2Proof.Machine.execRmov w s
  | .rswap w => Sys2Proof.Machine.execRswap w s
  | .ralias w => Sys2Proof.Machine.execRalias w s
  | .give w => Sys2Proof.Machine.execGive w s
  | .take w => Sys2Proof.Machine.execTake w s
  | .mapq w => Sys2Proof.Machine.execMapq w s
  | .sete w => Sys2Proof.Machine.execSete w s
  | .empq w => Sys2Proof.Machine.execEmpq w s
  | .iadd w => Sys2Proof.Machine.execIadd w s
  | .iaddI w => Sys2Proof.Machine.execIaddI w s
  | .isub w => Sys2Proof.Machine.execIsub w s
  | .isubI w => Sys2Proof.Machine.execIsubI w s
  | .imul w => Sys2Proof.Machine.execImul w s
  | .imulI w => Sys2Proof.Machine.execImulI w s
  | .imulh w => Sys2Proof.Machine.execImulh w s
  | .imulhI w => Sys2Proof.Machine.execImulhI w s
  | .imad w => Sys2Proof.Machine.execImad w s
  | .imin w => Sys2Proof.Machine.execImin w s
  | .iminI w => Sys2Proof.Machine.execIminI w s
  | .imax w => Sys2Proof.Machine.execImax w s
  | .imaxI w => Sys2Proof.Machine.execImaxI w s
  | .iabs w => Sys2Proof.Machine.execIabs w s
  | .and w => Sys2Proof.Machine.execAnd w s
  | .andI w => Sys2Proof.Machine.execAndI w s
  | .or w => Sys2Proof.Machine.execOr w s
  | .orI w => Sys2Proof.Machine.execOrI w s
  | .xor w => Sys2Proof.Machine.execXor w s
  | .xorI w => Sys2Proof.Machine.execXorI w s
  | .not w => Sys2Proof.Machine.execNot w s
  | .shl w => Sys2Proof.Machine.execShl w s
  | .shlI w => Sys2Proof.Machine.execShlI w s
  | .shr w => Sys2Proof.Machine.execShr w s
  | .shrI w => Sys2Proof.Machine.execShrI w s
  | .sar w => Sys2Proof.Machine.execSar w s
  | .sarI w => Sys2Proof.Machine.execSarI w s
  | .rotl w => Sys2Proof.Machine.execRotl w s
  | .rotlI w => Sys2Proof.Machine.execRotlI w s
  | .popc w => Sys2Proof.Machine.execPopc w s
  | .clz w => Sys2Proof.Machine.execClz w s
  | .brev w => Sys2Proof.Machine.execBrev w s
  | .bfx w => Sys2Proof.Machine.execBfx w s
  | .bfxI w => Sys2Proof.Machine.execBfxI w s
  | .bfi w => Sys2Proof.Machine.execBfi w s
  | .lea w => Sys2Proof.Machine.execLea w s
  | .iset w => Sys2Proof.Machine.execIset w s
  | .sel w => Sys2Proof.Machine.execSel w s
  | .selI w => Sys2Proof.Machine.execSelI w s
  | .movi w => Sys2Proof.Machine.execMovi w s
  | .dup w => Sys2Proof.Machine.execDup w s
  | .iaddx w => Sys2Proof.Machine.execIaddx w s
  | .idot4 w => Sys2Proof.Machine.execIdot4 w s
  | .fadd w => Sys2Proof.Machine.execFadd w s
  | .faddI w => Sys2Proof.Machine.execFaddI w s
  | .fsub w => Sys2Proof.Machine.execFsub w s
  | .fsubI w => Sys2Proof.Machine.execFsubI w s
  | .fmul w => Sys2Proof.Machine.execFmul w s
  | .fmulI w => Sys2Proof.Machine.execFmulI w s
  | .ffma w => Sys2Proof.Machine.execFfma w s
  | .fmin w => Sys2Proof.Machine.execFmin w s
  | .fminI w => Sys2Proof.Machine.execFminI w s
  | .fmax w => Sys2Proof.Machine.execFmax w s
  | .fmaxI w => Sys2Proof.Machine.execFmaxI w s
  | .fset w => Sys2Proof.Machine.execFset w s
  | .frcp w => Sys2Proof.Machine.execFrcp w s
  | .frsq w => Sys2Proof.Machine.execFrsq w s
  | .fsqrt w => Sys2Proof.Machine.execFsqrt w s
  | .fex2 w => Sys2Proof.Machine.execFex2 w s
  | .flg2 w => Sys2Proof.Machine.execFlg2 w s
  | .fsin w => Sys2Proof.Machine.execFsin w s
  | .fcos w => Sys2Proof.Machine.execFcos w s
  | .ftnh w => Sys2Proof.Machine.execFtnh w s
  | .fcvt w => Sys2Proof.Machine.execFcvt w s
  | .cvtef w => Sys2Proof.Machine.execCvtef w s
  | .hadd2 w => Sys2Proof.Machine.execHadd2 w s
  | .hadd2I w => Sys2Proof.Machine.execHadd2I w s
  | .hmul2 w => Sys2Proof.Machine.execHmul2 w s
  | .hmul2I w => Sys2Proof.Machine.execHmul2I w s
  | .hfma2 w => Sys2Proof.Machine.execHfma2 w s
  | .fdot8 w => Sys2Proof.Machine.execFdot8 w s
  | .topki w => Sys2Proof.Machine.execTopki w s
  | .frnd w => Sys2Proof.Machine.execFrnd w s
  | .f2i w => Sys2Proof.Machine.execF2i w s
  | .i2f w => Sys2Proof.Machine.execI2f w s
  | .qswp w => Sys2Proof.Machine.execQswp w s
  | .qbrd w => Sys2Proof.Machine.execQbrd w s
  | .shfl w => Sys2Proof.Machine.execShfl w s
  | .shflI w => Sys2Proof.Machine.execShflI w s
  | .shflx w => Sys2Proof.Machine.execShflx w s
  | .shflxI w => Sys2Proof.Machine.execShflxI w s
  | .vote w => Sys2Proof.Machine.execVote w s
  | .redw w => Sys2Proof.Machine.execRedw w s
  | .scanw w => Sys2Proof.Machine.execScanw w s
  | .matchW w => Sys2Proof.Machine.execMatchW w s
  | .iaddPair h => Sys2Proof.Machine.execIaddPair h s
  | .isubPair h => Sys2Proof.Machine.execIsubPair h s
  | .imulPair h => Sys2Proof.Machine.execImulPair h s
  | .iminPair h => Sys2Proof.Machine.execIminPair h s
  | .imaxPair h => Sys2Proof.Machine.execImaxPair h s
  | .andPair h => Sys2Proof.Machine.execAndPair h s
  | .orPair h => Sys2Proof.Machine.execOrPair h s
  | .xorPair h => Sys2Proof.Machine.execXorPair h s
  | .shlPair h => Sys2Proof.Machine.execShlPair h s
  | .shrPair h => Sys2Proof.Machine.execShrPair h s
  | .sarPair h => Sys2Proof.Machine.execSarPair h s
  | .notPair h => Sys2Proof.Machine.execNotPair h s
  | .iabsPair h => Sys2Proof.Machine.execIabsPair h s
  | .popcPair h => Sys2Proof.Machine.execPopcPair h s
  | .clzPair h => Sys2Proof.Machine.execClzPair h s
  | .dupPair h => Sys2Proof.Machine.execDupPair h s
  | .faddPair h => Sys2Proof.Machine.execFaddPair h s
  | .fsubPair h => Sys2Proof.Machine.execFsubPair h s
  | .fmulPair h => Sys2Proof.Machine.execFmulPair h s
  | .fminPair h => Sys2Proof.Machine.execFminPair h s
  | .fmaxPair h => Sys2Proof.Machine.execFmaxPair h s
  | .hadd2Pair h => Sys2Proof.Machine.execHadd2Pair h s
  | .hmul2Pair h => Sys2Proof.Machine.execHmul2Pair h s
  | .frndPair h => Sys2Proof.Machine.execFrndPair h s
  | .ldg w => Sys2Proof.Machine.execLdg w s
  | .stg w => Sys2Proof.Machine.execStg w s
  | .ldl w => Sys2Proof.Machine.execLdl w s
  | .stl w => Sys2Proof.Machine.execStl w s
  | .ldk w => Sys2Proof.Machine.execLdk w s
  | .pref w => Sys2Proof.Machine.execPref w s
  | .phase w => Sys2Proof.Machine.execPhase w s
  | .fencel w => Sys2Proof.Machine.execFencel w s
  | .amo w => Sys2Proof.Machine.execAmo w s
  | .amol w => Sys2Proof.Machine.execAmol w s
  | .amos w => Sys2Proof.Machine.execAmos w s
  | .acas w => Sys2Proof.Machine.execAcas w s
  | .rctr w => Sys2Proof.Machine.execRctr w s
  | .rsnap w => Sys2Proof.Machine.execRsnap w s
  | .cflsh w => Sys2Proof.Machine.execCflsh w s
  | .tlbi w => Sys2Proof.Machine.execTlbi w s
  | .cpyl w => Sys2Proof.Machine.execCpyl w s
  | .bcpy w => Sys2Proof.Machine.execBcpy w s
  | .bcpym w => Sys2Proof.Machine.execBcpym w s
  | .bcpyg w => Sys2Proof.Machine.execBcpyg w s
  | .bcpya w => Sys2Proof.Machine.execBcpya w s
  | .bcpyq w => Sys2Proof.Machine.execBcpyq w s
  | .bbini w => Sys2Proof.Machine.execBbini w s
  | .bbwt w => Sys2Proof.Machine.execBbwt w s
  | .lnemp w => Sys2Proof.Machine.execLnemp w s
  | .mma w => Sys2Proof.Machine.execMma w s
  | .mmau w => Sys2Proof.Machine.execMmau w s
  | .accz w => Sys2Proof.Machine.execAccz w s
  | .accld w => Sys2Proof.Machine.execAccld w s
  | .accst w => Sys2Proof.Machine.execAccst w s
  | .accvq w => Sys2Proof.Machine.execAccvq w s
  | .unfcf w => Sys2Proof.Machine.execUnfcf w s
  | .accsv w => Sys2Proof.Machine.execAccsv w s
  | .accrs w => Sys2Proof.Machine.execAccrs w s
  | .accown w => Sys2Proof.Machine.execAccown w s
  | .bar w => Sys2Proof.Machine.execBar w s
  | .bara w => Sys2Proof.Machine.execBara w s
  | .barw w => Sys2Proof.Machine.execBarw w s
  | .spawn w => Sys2Proof.Machine.execSpawn w s
  | .tnext w => Sys2Proof.Machine.execTnext w s
  | .ftnew w => Sys2Proof.Machine.execFtnew w s
  | .ftful w => Sys2Proof.Machine.execFtful w s
  | .ftget w => Sys2Proof.Machine.execFtget w s
  | .ftwait w => Sys2Proof.Machine.execFtwait w s
  | .ftdrop w => Sys2Proof.Machine.execFtdrop w s
  | .resamp w => Sys2Proof.Machine.execResamp w s
  | .rand w => Sys2Proof.Machine.execRand w s
  | .emptyBundle => Sys2Proof.Machine.execEmptyBundle s
  | .handlerEntry b w l => Sys2Proof.Machine.execHandlerEntry b w l s
  | .resultLanding b => Sys2Proof.Machine.execResultLanding b s
  | .translation t => Sys2Proof.Machine.execTranslation t s
  | .memoryFaultDetection b w l => Sys2Proof.Machine.execMemoryFaultDetection b w l s
  | .loadArrival b q => Sys2Proof.Machine.execLoadArrival b q s
  | .registerRepair b w l r => Sys2Proof.Machine.execRegisterRepair b w l r s
  | .memoryHoldRelease b w l => Sys2Proof.Machine.execMemoryHoldRelease b w l s
  | .move lv u line => Sys2Proof.Machine.execMove lv u line s
  | .fill lv u line => Sys2Proof.Machine.execFill lv u line s
  | .drop lv u line => Sys2Proof.Machine.execDrop lv u line s
  | .icacheFill c pa => Sys2Proof.Machine.execIcacheFill c pa s
  | .icacheDrop c pa => Sys2Proof.Machine.execIcacheDrop c pa s
  | .copyStart c q => Sys2Proof.Machine.execCopyStart c q s
  | .copyDeliver c q n => Sys2Proof.Machine.execCopyDeliver c q n s
  | .late b q => Sys2Proof.Machine.execLate b q s
  | .matrixStart c q => Sys2Proof.Machine.execMatrixStart c q s
  | .matrixComplete c q => Sys2Proof.Machine.execMatrixComplete c q s
  | .tileClaimTransfer b t => Sys2Proof.Machine.execTileClaimTransfer b t s
  | .tileAutoload c t => Sys2Proof.Machine.execTileAutoload c t s
  | .wakeTime b w l => Sys2Proof.Machine.execWakeTime b w l s
  | .blockCompletion b => Sys2Proof.Machine.execBlockCompletion b s
  | .blockAdmission t => Sys2Proof.Machine.execBlockAdmission t s
  | .resampCollective t => Sys2Proof.Machine.execResampCollective t s
  | .drainEnd b => Sys2Proof.Machine.execDrainEnd b s
  | .relocationResume b => Sys2Proof.Machine.execRelocationResume b s
  | .slotBoundary => Sys2Proof.Machine.execSlotBoundary s
  | .restore b => Sys2Proof.Machine.execRestore b s
  | .migration b => Sys2Proof.Machine.execMigration b s
  | .scanStart die => Sys2Proof.Machine.execScanStart die s
  | .scanEnd c pass => Sys2Proof.Machine.execScanEnd c pass s
  | .coreRetest c p1 p2 => Sys2Proof.Machine.execCoreRetest c p1 p2 s
  | .nodeCommit t => Sys2Proof.Machine.execNodeCommit t s
  | .rollback ts => Sys2Proof.Machine.execRollback ts s
  | .contextEnd x => Sys2Proof.Machine.execContextEnd x s
  | .dieFence die => Sys2Proof.Machine.execDieFence die s
  | .masterElection => Sys2Proof.Machine.execMasterElection s
  | .hardwareUnitFailure u => Sys2Proof.Machine.execHardwareUnitFailure u s
  | .spareSubstitution u => Sys2Proof.Machine.execSpareSubstitution u s
  | .clusterGating k => Sys2Proof.Machine.execClusterGating k s
  | .clusterUngating k => Sys2Proof.Machine.execClusterUngating k s
  | .classReassignment k cls => Sys2Proof.Machine.execClassReassignment k cls s
  | .leaseExpiry x => Sys2Proof.Machine.execLeaseExpiry x s
  | .slotTableCommit => Sys2Proof.Machine.execSlotTableCommit s
  | .slotKindWrite slot kind => Sys2Proof.Machine.execSlotKindWrite slot kind s
  | .rperiodWrite v => Sys2Proof.Machine.execRperiodWrite v s
  | .firmwareRegisterWrite w => Sys2Proof.Machine.execFirmwareRegisterWrite w s
  | .deviceReset => Sys2Proof.Machine.execDeviceReset s
  | .bootRomStart => Sys2Proof.Machine.execBootRomStart s
  | .bootImageVerify => Sys2Proof.Machine.execBootImageVerify s
  | .hbmTraining ok => Sys2Proof.Machine.execHbmTraining ok s
  | .fabricJoin ok dev cyc => Sys2Proof.Machine.execFabricJoin ok dev cyc s
  | .attestationReady => Sys2Proof.Machine.execAttestationReady s
  | .launch h x lpb node => Sys2Proof.Machine.execLaunch h x lpb node s
  | .shapeCreate h x f => Sys2Proof.Machine.execShapeCreate h x f s
  | .shapeFree h x hd => Sys2Proof.Machine.execShapeFree h x hd s
  | .ident h => Sys2Proof.Machine.execIdent h s
  | .ctxnew h root tvec quota => Sys2Proof.Machine.execCtxnew h root tvec quota s
  | .ctxend h x => Sys2Proof.Machine.execCtxend h x s
  | .lease h x dur => Sys2Proof.Machine.execLease h x dur s
  | .telem h x => Sys2Proof.Machine.execTelem h x s
  | .capread h => Sys2Proof.Machine.execCapread h s
  | .keyset h slot dig => Sys2Proof.Machine.execKeyset h slot dig s
  | .attest h nonce => Sys2Proof.Machine.execAttest h nonce s
  | .unknownMessageCode h code => Sys2Proof.Machine.execUnknownMessageCode h code s
  | .hostFabricAccess a => Sys2Proof.Machine.execHostFabricAccess a s
  | .softError e => Sys2Proof.Machine.execSoftError e s
  | .linkFailure k => Sys2Proof.Machine.execLinkFailure k s

end Sys2Proof.Machine
end

