-- ==== Sys2Proof/Machine/Step.lean ====
section
/-! DEFINITION. Sys2Proof/Machine/Step.lean: one step of the machine, which carries out one choice (log 1). -/

namespace Sys2Proof.Machine

open Sys2Proof

/-- The words of a bundle execute in order, each on the block as the bundle found it (R32). -/
def runWords (ws : List Placed) (s : State) : Out :=
  match ws with
  | [] => .next s.endBundle
  | p :: r => match exec p.i (s.atWord p) with
    | .next t => runWords r t
    | .fault e => .fault e
    | .refused e => .refused e

/-- The bundle that `State.begin` made ready: an empty bundle only delays its threads (R31). -/
def runBundle (s : State) : Out :=
  if s.iss.grp.isEmpty then .next s.endBundle
  else match s.iss.words with
    | [] => (match exec .emptyBundle s with
      | .next t => .next t.endBundle
      | .fault e => .fault e
      | .refused e => .refused e)
    | _ :: _ => runWords (inOrder s.iss.words) s

/-- The group at an address issues, if there is one and its core may issue; a miss of the instruction cache fills it
instead (R89, R354). `first`: the warp whose fragment must issue now, if it is one (R91). -/
def issueGroup (c b : Nat) (a : DWord) (first : Option Nat) (wait : Bool) (s : State) : Out :=
  match s.readyGroup c b a first with
  | none => .next s
  | some (_, g, .miss pa) => if g.isEmpty then .next s else exec (.icacheFill c pa) s
  | some (bk, g, f) => runBundle (s.begin c b bk a f g wait)

/-- One choice is carried out. A word of an instruction stream is no event. A group that must issue now goes before any that is
chosen (R91). -/
def perform1 (k : Choice) (s : State) : Out :=
  match k with
  | .event i => if i.family == .event && i.wf then exec i s else .next s
  | .issue c b a wait =>
    let s := s.turnCore c
    (match s.dueOn c with
    | some (c', b', a', w) => if b' = b ∧ a' = a then issueGroup c b a (some w) wait s else issueGroup c' b' a' (some w) false s
    | none => issueGroup c b a none wait s)
  | .tick => (match s.overdue with
    | some (t, c, b, a, w) => issueGroup c b a (some w) false t
    | none => .next s.tick)

/-- Does a choice change the machine? -/
def changesBy (s : State) (k : Choice) : Bool :=
  match perform1 k s with
  | .next t => t != s
  | .fault _ => true
  | .refused _ => true

/-- The machine's own choice where none is given: the first candidate that changes it, else a tick (log 1). -/
def State.choose (s : State) : Choice := (s.candidates.find? (changesBy s)).getD .tick

/-- ONE STEP: the first choice of the agenda, or the machine's own. -/
def step (s : State) : Host.Outcome State Fault Refusal :=
  match s.agenda with
  | k :: r => perform1 k { s with agenda := r }
  | [] => perform1 s.choose s

/-- The machine with an instruction stored where the next step fetches: word W1 of a bundle at address 2^16, in memory
and in core 0's instruction cache, for the one warp of a block of a context, all made by `Machine.loaded`; the
agenda's first choice issues it. -/
def State.withFetchWord (s : State) (_nbits w : Nat) : State :=
  s.loaded (bundleOf (classOf (BitVec.ofNat 64 w)) (BitVec.ofNat 64 w))

end Sys2Proof.Machine
end

