-- ==== Sys2Proof/Safety.lean ====
section
/-! DEFINITION. Sys2Proof/Safety.lean: the terms of the claims: the invariant of the machine, and what a word of a
register may leave unchanged. -/

namespace Sys2Proof.Machine

open Sys2Proof

/-! ### The invariant -/

/-- A bank of the slot table as R14 and R15 leave it: 64 kinds, a maintenance slot among them, a period of 1 to 64. -/
def SlotBank.ok (b : SlotBank) : Bool :=
  b.kinds.length == 64 && b.kinds.contains 1 && decide (1 ≤ b.rperiod) && decide (b.rperiod ≤ 64)

/-- The management plane's part of the invariant: both banks are sound, and so is the period in force (R14–R16). -/
def Mgmt.ok (m : Mgmt) : Bool := m.active.ok && m.shadow.ok && decide (1 ≤ m.period) && decide (m.period ≤ 64)

/-- THE INVARIANT: memory has its canonical form; the slot table has a maintenance slot and a sound rotation period. -/
def State.Inv (s : State) : Prop := Memory.wf s.ms.truth = true ∧ s.mp.ok = true

/-! ### Frames -/

/-- Every byte of memory, in the truth and in every view, reads as before, and so do translations and caches. -/
def MemoryKept (s t : State) : Prop := t.ms = s.ms

/-- A core but for its record of which block last held a row. -/
def Core.bare (k : Core) : Core := { k with holders := [] }

/-- Everything but the issuing block, the cores' row holders and the model's counters is as before. -/
def OnlyBlock (s t : State) : Prop :=
  MemoryKept s t ∧ t.cyc = s.cyc ∧ t.ctxs = s.ctxs ∧ t.cp = s.cp ∧ t.mp = s.mp ∧ t.iss = s.iss ∧
  (∀ b, b ≠ s.iss.blk → t.block? b = s.block? b) ∧ ∀ c, (t.core c).bare = (s.core c).bare

/-- A thread but for the empty marks of its operand file. -/
def Thread.bare (t : Thread) : Thread := { t with oEmpty := 0 }

/-- In the issuing block, all but results in flight, empty marks, and the rows and names that an allocation opens:
every thread's registers, predicates, special registers and address, every scalar register, rejoin register, window byte,
barrier and mailbox. -/
def BlockKept (x y : Block) : Prop :=
  (∀ w l, (y.thread w l).bare = (x.thread w l).bare) ∧ (∀ w, (y.warp w).s = (x.warp w).s) ∧ (∀ w, (y.warp w).j = (x.warp w).j) ∧
  (∀ w, (y.warp w).fmask = (x.warp w).fmask) ∧ y.win = x.win ∧ y.lines = x.lines ∧ y.bars = x.bars ∧ y.boxes = x.boxes ∧
  y.place = x.place ∧ y.lpb = x.lpb ∧ y.ops = x.ops

/-- The issuing block is there, and its bundle has passed its checks. -/
structure Issuing (s : State) (bk : Block) : Prop where
  checked : s.iss.checked = true
  here : s.block? s.iss.blk = some bk

/-- A result of fixed latency in flight: where it lands, its value, and the core cycle in which it does (R4, R95, R96). -/
def Flies (s t : State) (tgt : Tgt) (v : DWord) (lat : Nat) : Prop :=
  ∃ e ∈ t.here.pend, e.tgt = tgt ∧ e.val = v ∧ e.due = some (s.now + lat)

end Sys2Proof.Machine
end

