-- ==== Sys2Proof/Certificates/Slice0/Obligations.lean ====
section
/-! DEFINITION. Sys2Proof/Certificates/Slice0/Obligations.lean: the statements for the provers, with the tables they read. -/

namespace Sys2Proof.Claims

open Sys2Proof Sys2Proof.Machine

/-! ### Tables of the words that write results of fixed latency (R96) -/

/-- An arithmetic word: its destination, sources, latency on a vector lane, what it computes, and whether the scalar
unit runs it. -/
structure Alu where
  d : Reg
  a : Opd
  b : Opd
  c : Opd
  lat : Nat
  f : Word → Word → Word → Word
  scalar : Bool

/-- The arithmetic words of R154–R160 and R181–R188. -/
def aluOf (i : Instr) : Option Alu :=
  match i with
  | .iadd w => some ⟨w.d, .reg w.a, .reg w.b, .reg w.c, 2, (iaddE w.mod), i.scalarUnit⟩
  | .iaddI w => some ⟨w.d, .reg w.a, .imm w.imm, .reg .z, 2, (iaddE 0), i.scalarUnit⟩
  | .iaddPair h => some ⟨h.d, .reg h.d, .reg h.s, .reg .z, 2, (iaddE (h.pmod.setWidth 11)), i.scalarUnit⟩
  | .isub w => some ⟨w.d, .reg w.a, .reg w.b, .reg w.c, 2, (isubE w.mod), i.scalarUnit⟩
  | .isubI w => some ⟨w.d, .reg w.a, .imm w.imm, .reg .z, 2, (isubE 0), i.scalarUnit⟩
  | .isubPair h => some ⟨h.d, .reg h.d, .reg h.s, .reg .z, 2, (isubE (h.pmod.setWidth 11)), i.scalarUnit⟩
  | .imul w => some ⟨w.d, .reg w.a, .reg w.b, .reg w.c, 4, imulE, i.scalarUnit⟩
  | .imulI w => some ⟨w.d, .reg w.a, .imm w.imm, .reg .z, 4, imulE, i.scalarUnit⟩
  | .imulPair h => some ⟨h.d, .reg h.d, .reg h.s, .reg .z, 4, imulE, i.scalarUnit⟩
  | .imulh w => some ⟨w.d, .reg w.a, .reg w.b, .reg w.c, 4, (imulhE w.mod), i.scalarUnit⟩
  | .imulhI w => some ⟨w.d, .reg w.a, .imm w.imm, .reg .z, 4, (imulhE 0), i.scalarUnit⟩
  | .imad w => some ⟨w.d, .reg w.a, .reg w.b, .reg w.c, 4, imadE, i.scalarUnit⟩
  | .imin w => some ⟨w.d, .reg w.a, .reg w.b, .reg w.c, 2, (iminE w.mod), i.scalarUnit⟩
  | .iminI w => some ⟨w.d, .reg w.a, .imm w.imm, .reg .z, 2, (iminE 0), i.scalarUnit⟩
  | .iminPair h => some ⟨h.d, .reg h.d, .reg h.s, .reg .z, 2, (iminE (h.pmod.setWidth 11)), i.scalarUnit⟩
  | .imax w => some ⟨w.d, .reg w.a, .reg w.b, .reg w.c, 2, (imaxE w.mod), i.scalarUnit⟩
  | .imaxI w => some ⟨w.d, .reg w.a, .imm w.imm, .reg .z, 2, (imaxE 0), i.scalarUnit⟩
  | .imaxPair h => some ⟨h.d, .reg h.d, .reg h.s, .reg .z, 2, (imaxE (h.pmod.setWidth 11)), i.scalarUnit⟩
  | .iabs w => some ⟨w.d, .reg w.a, .reg w.b, .reg w.c, 2, (iabsE w.mod), i.scalarUnit⟩
  | .iabsPair h => some ⟨h.d, .reg h.s, .reg .z, .reg .z, 2, (iabsE (h.pmod.setWidth 11)), i.scalarUnit⟩
  | .and w => some ⟨w.d, .reg w.a, .reg w.b, .reg w.c, 2, andE, i.scalarUnit⟩
  | .andI w => some ⟨w.d, .reg w.a, .imm w.imm, .reg .z, 2, andE, i.scalarUnit⟩
  | .andPair h => some ⟨h.d, .reg h.d, .reg h.s, .reg .z, 2, andE, i.scalarUnit⟩
  | .or w => some ⟨w.d, .reg w.a, .reg w.b, .reg w.c, 2, orE, i.scalarUnit⟩
  | .orI w => some ⟨w.d, .reg w.a, .imm w.imm, .reg .z, 2, orE, i.scalarUnit⟩
  | .orPair h => some ⟨h.d, .reg h.d, .reg h.s, .reg .z, 2, orE, i.scalarUnit⟩
  | .xor w => some ⟨w.d, .reg w.a, .reg w.b, .reg w.c, 2, xorE, i.scalarUnit⟩
  | .xorI w => some ⟨w.d, .reg w.a, .imm w.imm, .reg .z, 2, xorE, i.scalarUnit⟩
  | .xorPair h => some ⟨h.d, .reg h.d, .reg h.s, .reg .z, 2, xorE, i.scalarUnit⟩
  | .not w => some ⟨w.d, .reg w.a, .reg w.b, .reg w.c, 2, notE, i.scalarUnit⟩
  | .notPair h => some ⟨h.d, .reg h.s, .reg .z, .reg .z, 2, notE, i.scalarUnit⟩
  | .shl w => some ⟨w.d, .reg w.a, .reg w.b, .reg w.c, 2, shlE, i.scalarUnit⟩
  | .shlI w => some ⟨w.d, .reg w.a, .imm w.imm, .reg .z, 2, shlE, i.scalarUnit⟩
  | .shlPair h => some ⟨h.d, .reg h.d, .reg h.s, .reg .z, 2, shlE, i.scalarUnit⟩
  | .shr w => some ⟨w.d, .reg w.a, .reg w.b, .reg w.c, 2, shrE, i.scalarUnit⟩
  | .shrI w => some ⟨w.d, .reg w.a, .imm w.imm, .reg .z, 2, shrE, i.scalarUnit⟩
  | .shrPair h => some ⟨h.d, .reg h.d, .reg h.s, .reg .z, 2, shrE, i.scalarUnit⟩
  | .sar w => some ⟨w.d, .reg w.a, .reg w.b, .reg w.c, 2, sarE, i.scalarUnit⟩
  | .sarI w => some ⟨w.d, .reg w.a, .imm w.imm, .reg .z, 2, sarE, i.scalarUnit⟩
  | .sarPair h => some ⟨h.d, .reg h.d, .reg h.s, .reg .z, 2, sarE, i.scalarUnit⟩
  | .rotl w => some ⟨w.d, .reg w.a, .reg w.b, .reg w.c, 2, rotlE, i.scalarUnit⟩
  | .rotlI w => some ⟨w.d, .reg w.a, .imm w.imm, .reg .z, 2, rotlE, i.scalarUnit⟩
  | .popc w => some ⟨w.d, .reg w.a, .reg w.b, .reg w.c, 2, popcE, i.scalarUnit⟩
  | .popcPair h => some ⟨h.d, .reg h.s, .reg .z, .reg .z, 2, popcE, i.scalarUnit⟩
  | .clz w => some ⟨w.d, .reg w.a, .reg w.b, .reg w.c, 2, clzE, i.scalarUnit⟩
  | .clzPair h => some ⟨h.d, .reg h.s, .reg .z, .reg .z, 2, clzE, i.scalarUnit⟩
  | .brev w => some ⟨w.d, .reg w.a, .reg w.b, .reg w.c, 2, brevE, i.scalarUnit⟩
  | .bfx w => some ⟨w.d, .reg w.a, .reg w.b, .reg w.c, 2, (bfxE w.mod), i.scalarUnit⟩
  | .bfxI w => some ⟨w.d, .reg w.a, .imm w.imm, .reg .z, 2, (bfxE 0), i.scalarUnit⟩
  | .bfi w => some ⟨w.d, .reg w.a, .reg w.b, .reg w.c, 2, bfiE, i.scalarUnit⟩
  | .lea w => some ⟨w.d, .reg w.a, .reg w.b, .reg w.c, 2, (leaE w.mod), i.scalarUnit⟩
  | .movi w => some ⟨w.d, .reg w.a, .imm w.imm, .reg .z, 2, (fun _ y _ => y), i.scalarUnit⟩
  | .dup w => some ⟨w.d, .reg w.a, .reg w.b, .reg w.c, 2, (fun x _ _ => x), i.scalarUnit⟩
  | .dupPair h => some ⟨h.d, .reg h.s, .reg .z, .reg .z, 2, (fun x _ _ => x), i.scalarUnit⟩
  | .idot4 w => some ⟨w.d, .reg w.a, .reg w.b, .reg w.c, 4, (idot4E w.mod), i.scalarUnit⟩
  | .fadd w => some ⟨w.d, .reg w.a, .reg w.b, .reg w.c, 4, (faddE w.mod), false⟩
  | .faddI w => some ⟨w.d, .reg w.a, .imm w.imm, .imm 0, 4, (faddE 0), false⟩
  | .faddPair h => some ⟨h.d, .reg h.d, .reg h.s, .imm 0, 4, (faddE (h.pmod.setWidth 11)), false⟩
  | .fsub w => some ⟨w.d, .reg w.a, .reg w.b, .reg w.c, 4, (fsubE w.mod), false⟩
  | .fsubI w => some ⟨w.d, .reg w.a, .imm w.imm, .imm 0, 4, (fsubE 0), false⟩
  | .fsubPair h => some ⟨h.d, .reg h.d, .reg h.s, .imm 0, 4, (fsubE (h.pmod.setWidth 11)), false⟩
  | .fmul w => some ⟨w.d, .reg w.a, .reg w.b, .reg w.c, 4, (fmulE w.mod), false⟩
  | .fmulI w => some ⟨w.d, .reg w.a, .imm w.imm, .imm 0, 4, (fmulE 0), false⟩
  | .fmulPair h => some ⟨h.d, .reg h.d, .reg h.s, .imm 0, 4, (fmulE (h.pmod.setWidth 11)), false⟩
  | .ffma w => some ⟨w.d, .reg w.a, .reg w.b, .reg w.c, 4, (ffmaE w.mod), false⟩
  | .fmin w => some ⟨w.d, .reg w.a, .reg w.b, .reg w.c, 4, (fun x y _ => fminmax false (w.mod.getLsbD 0) x y), false⟩
  | .fminI w => some ⟨w.d, .reg w.a, .imm w.imm, .imm 0, 4, (fun x y _ => fminmax false false x y), false⟩
  | .fminPair h => some ⟨h.d, .reg h.d, .reg h.s, .imm 0, 4, (fun x y _ => fminmax false (h.pmod.getLsbD 0) x y), false⟩
  | .fmax w => some ⟨w.d, .reg w.a, .reg w.b, .reg w.c, 4, (fun x y _ => fminmax true (w.mod.getLsbD 0) x y), false⟩
  | .fmaxI w => some ⟨w.d, .reg w.a, .imm w.imm, .imm 0, 4, (fun x y _ => fminmax true false x y), false⟩
  | .fmaxPair h => some ⟨h.d, .reg h.d, .reg h.s, .imm 0, 4, (fun x y _ => fminmax true (h.pmod.getLsbD 0) x y), false⟩
  | .frcp w => some ⟨w.d, .reg w.a, .reg w.b, .reg w.c, 12, (fun x _ _ => specialE 0x67 x), false⟩
  | .frsq w => some ⟨w.d, .reg w.a, .reg w.b, .reg w.c, 12, (fun x _ _ => specialE 0x68 x), false⟩
  | .fsqrt w => some ⟨w.d, .reg w.a, .reg w.b, .reg w.c, 12, (fun x _ _ => specialE 0x69 x), false⟩
  | .fex2 w => some ⟨w.d, .reg w.a, .reg w.b, .reg w.c, 12, (fun x _ _ => specialE 0x6A x), false⟩
  | .flg2 w => some ⟨w.d, .reg w.a, .reg w.b, .reg w.c, 12, (fun x _ _ => specialE 0x6B x), false⟩
  | .fsin w => some ⟨w.d, .reg w.a, .reg w.b, .reg w.c, 12, (fun x _ _ => specialE 0x6C x), false⟩
  | .fcos w => some ⟨w.d, .reg w.a, .reg w.b, .reg w.c, 12, (fun x _ _ => specialE 0x6D x), false⟩
  | .ftnh w => some ⟨w.d, .reg w.a, .reg w.b, .reg w.c, 12, (fun x _ _ => specialE 0x6E x), false⟩
  | .fcvt w => some ⟨w.d, .reg w.a, .reg w.b, .reg w.c, 4, (fcvtE w), false⟩
  | .hadd2 w => some ⟨w.d, .reg w.a, .reg w.b, .reg w.c, 4, (hadd2E w.mod), false⟩
  | .hadd2I w => some ⟨w.d, .reg w.a, .imm w.imm, .imm 0, 4, (hadd2E 0), false⟩
  | .hadd2Pair h => some ⟨h.d, .reg h.d, .reg h.s, .imm 0, 4, (hadd2E (h.pmod.setWidth 11)), false⟩
  | .hmul2 w => some ⟨w.d, .reg w.a, .reg w.b, .reg w.c, 4, (hmul2E w.mod), false⟩
  | .hmul2I w => some ⟨w.d, .reg w.a, .imm w.imm, .imm 0, 4, (hmul2E 0), false⟩
  | .hmul2Pair h => some ⟨h.d, .reg h.d, .reg h.s, .imm 0, 4, (hmul2E (h.pmod.setWidth 11)), false⟩
  | .hfma2 w => some ⟨w.d, .reg w.a, .reg w.b, .reg w.c, 4, (hfma2E w.mod), false⟩
  | .fdot8 w => some ⟨w.d, .reg w.a, .reg w.b, .reg w.c, 4, (fun x y z => fdot8E (w.mod >>> 7).toNat ((w.mod >>> 3) &&& 0xF#11).toNat (rnd3 w.mod) x y z), false⟩
  | .frnd w => some ⟨w.d, .reg w.a, .reg w.b, .reg w.c, 4, (fun x _ _ => frndE (rnd3 w.mod) x), false⟩
  | .frndPair h => some ⟨h.d, .reg h.s, .imm 0, .imm 0, 4, (fun x _ _ => frndE (rnd3 (h.pmod.setWidth 11)) x), false⟩
  | .f2i w => some ⟨w.d, .reg w.a, .reg w.b, .reg w.c, 4, (fun x _ _ => f2iE ((w.mod >>> 3) &&& 0xF#11).toNat (rnd3 w.mod) x), false⟩
  | .i2f w => some ⟨w.d, .reg w.a, .reg w.b, .reg w.c, 4, (fun x _ _ => i2fE ((w.mod >>> 3) &&& 0xF#11).toNat (rnd3 w.mod) x), false⟩
  | _ => none

/-- A result of fixed latency in flight, that lands in its word's last-result register too (R99): `$la`, `$lb` or `$lc` of the
thread by the position of the word; none for the high half of a P word. -/
def FliesLast (s t : State) (tgt : Tgt) (v : DWord) (lat w l : Nat) : Prop :=
  ∃ e ∈ t.here.pend, e.tgt = tgt ∧ e.val = v ∧ e.due = some (s.now + lat) ∧
    e.last = if s.iss.half = .hi then none else some (w, l, s.iss.pos)

/-- All of a block but the threads listed is as before: other threads, all else of every warp, and all outside the warps. -/
def OnlyThreads (x y : Block) (ps : List (Nat × Nat)) : Prop :=
  (∀ w l, (w, l) ∉ ps → y.thread w l = x.thread w l) ∧ (∀ w, { y.warp w with threads := [] } = { x.warp w with threads := [] }) ∧
  { y with warps := [] } = { x with warps := [] }

/-- Rows and names as before: every map, every row's values and reference count. -/
def RowsKept (x y : Block) : Prop :=
  (∀ w, (y.warp w).map = (x.warp w).map) ∧ (∀ r l, (y.row r).val l = (x.row r).val l) ∧ ∀ r, (y.row r).ref = (x.row r).ref

/-- The frame of a word that only writes results: all outside its block, all of its block but results in flight and empty
marks, and rows and names too where no unmapped name is opened. -/
def ResultFrame (s t : State) (bk : Block) (opens : Prop) : Prop :=
  OnlyBlock s t ∧ BlockKept bk t.here ∧ (opens ∨ RowsKept bk t.here)

end Sys2Proof.Claims

open Sys2Proof Sys2Proof.Machine Sys2Proof.Claims

/-- R96, R95, R99, R116: an arithmetic word on the vector lanes completes, and every issuing thread's result of its own lane's
sources is in flight to what its destination names and to its position's last-result register, with the latency of R96. -/
def Obligations.ArithmeticOnLanes : Prop :=
  ∀ (i : Instr) (k : Alu) (s : State) (bk : Block), aluOf i = some k → k.scalar = false → Issuing s bk →
    ∃ t, exec i s = .next t ∧ ResultFrame s t bk (s.open k.d ≠ s) ∧ ∀ p ∈ s.iss.grp,
      FliesLast s t ((s.open k.d).target p.1 p.2 k.d)
        ((k.f (s.val p.1 p.2 k.a) (s.val p.1 p.2 k.b) (s.val p.1 p.2 k.c)).setWidth 64) k.lat p.1 p.2

/-- R152, R96, R99: an integer word on the scalar unit completes, once for each warp of the group, with latency 1, from the sources
of the warp's lowest-numbered issuing lane: its result is in flight to the scalar register, or with `$z` to none, and to the
last-result register of every issuing thread of the warp. -/
def Obligations.ArithmeticOnScalarUnit : Prop :=
  ∀ (i : Instr) (k : Alu) (s : State) (bk : Block), aluOf i = some k → k.scalar = true → Issuing s bk →
    ∃ t, exec i s = .next t ∧ ResultFrame s t bk False ∧ ∀ w ∈ s.warps,
      let v := (k.f (s.val w (s.lowest w) k.a) (s.val w (s.lowest w) k.b) (s.val w (s.lowest w) k.c)).setWidth 64
      (∀ n, k.d = .s n → Flies s t (.scalar w n.toNat) v 1) ∧ (∀ l ∈ s.lanesOf w, FliesLast s t .none v 1 w l) ∧
      (k.d = .z → ∀ e ∈ t.here.pend, e ∉ bk.pend → e.tgt = .none)

namespace Sys2Proof.Claims

open Sys2Proof Sys2Proof.Machine

/-- The other words that write one result in each issuing lane: destination, latency, and lane l of warp w's value. -/
def laneOf (s : State) (i : Instr) : Option (Reg × Nat × (Nat → Nat → Word)) :=
  let x := fun (r : Reg) (w l : Nat) => s.val w l (.reg r)
  match i with
  | .iset w => if i.scalarUnit then none else
      some (w.d, 2, fun v l => if relation (w.mod.getLsbD 3) (w.mod &&& 7#11).toNat (x w.a v l) (x w.b v l) then 0xFFFFFFFF#32 else 0#32)
  | .sel w => if i.scalarUnit then none else
      some (w.d, 2, fun v l => if s.guard v l w.g w.gn then x w.a v l else x w.b v l)
  | .selI w => if i.scalarUnit then none else
      some (w.d, 2, fun v l => if s.guard v l w.g w.gn then x w.a v l else w.imm)
  | .iaddx w => if i.scalarUnit then none else
      some (w.d, 2, fun v l => x w.a v l + (if w.mod.getLsbD 6 then ~~~(x w.b v l) else x w.b v l) +
        (if s.carryIn v l (w.mod &&& 7#11).toNat (w.mod.getLsbD 6) then 1#32 else 0#32))
  | .fset w => some (w.d, 4, fun v l => if fsetRel (w.mod &&& 7#11).toNat (x w.a v l) (x w.b v l) then 0xFFFFFFFF#32 else 0#32)
  | .qswp w => some (w.d, 6, fun v l => x w.a v (l ^^^ ((w.mod &&& 3#11).toNat + 1)))
  | .qbrd w => some (w.d, 6, fun v l => x w.a v (4 * (l / 4) + (w.mod &&& 3#11).toNat))
  | .shfl w => some (w.d, 6, fun v l => x w.a v (shflLane w.mod l (x w.b v l)))
  | .shflI w => some (w.d, 6, fun v l => x w.a v (shflLane 0 l w.imm))
  | .shflx w => some (w.d, 6, fun v l => x w.a v (shflxLane w.mod l (x w.b v l)))
  | .shflxI w => some (w.d, 6, fun v l => x w.a v (shflxLane 0 l w.imm))
  | .vote w => if w.d.isScalar then none else some (w.d, 6, fun v _ => s.voteVal w v)
  | .redw w => if w.d.isScalar then none else
      some (w.d, 6, fun v _ => reduce (w.mod &&& 0xF#11).toNat ((s.lanesOf v).map fun j => x w.a v j))
  | .scanw w => some (w.d, 6, fun v l => reduce (w.mod &&& 0xF#11).toNat
      (((s.lanesOf v).filter fun j => decide (j < l) || (!w.mod.getLsbD 4 && j == l)).map fun j => x w.a v j))
  | .matchW w => if w.d.isScalar then none else
      some (w.d, 6, fun v l => if w.mod.getLsbD 0 then (if s.matchAll w.a v then maskOf (s.lanesOf v) else 0)
        else maskOf ((s.lanesOf v).filter fun j => x w.a v j == x w.a v l))
  | .srd w => if w.d.isScalar then none else
      some (w.d, 1, fun v l =>
        (s.sreg s.iss.core s.snap w.sreg v l >>> (if w.hi then 32 else 0)).setWidth 32)
  | .rand w => if w.d.isScalar then none else
      some (w.d, 4, fun v l => (rand s.snap.lpb.seed (((s.snap.thread v l).uid.setWidth 64 <<< 32) +
        (x w.a v l + w.imm.signExtend 32).setWidth 64) >>> (if w.kind.getLsbD 0 then 32 else 0)).setWidth 32)
  | _ => none

/-- The other words that write a scalar register once for each warp: its number, latency and value. -/
def warpOf (s : State) (i : Instr) : Option (Reg × Nat × (Nat → DWord)) :=
  let x := fun (r : Reg) (w : Nat) => s.val w (s.lowest w) (.reg r)
  let wide := fun (v : Word) => v.setWidth 64
  match i with
  | .iset w => if i.scalarUnit then
      some (w.d, 1, fun v => if relation (w.mod.getLsbD 3) (w.mod &&& 7#11).toNat (x w.a v) (x w.b v) then 0xFFFFFFFF#64 else 0#64)
      else none
  | .sel w => if i.scalarUnit then
      some (w.d, 1, fun v => wide (if s.guard v (s.lowest v) w.g w.gn then x w.a v else x w.b v)) else none
  | .selI w => if i.scalarUnit then
      some (w.d, 1, fun v => wide (if s.guard v (s.lowest v) w.g w.gn then x w.a v else w.imm)) else none
  | .iaddx w => if i.scalarUnit then
      some (w.d, 1, fun v => wide (x w.a v + (if w.mod.getLsbD 6 then ~~~(x w.b v) else x w.b v) +
        (if s.carryIn v (s.lowest v) (w.mod &&& 7#11).toNat (w.mod.getLsbD 6) then 1#32 else 0#32))) else none
  | .vote w => if w.d.isScalar then some (w.d, 6, fun v => wide (s.voteVal w v)) else none
  | .redw w => if w.d.isScalar then
      some (w.d, 6, fun v => wide (reduce (w.mod &&& 0xF#11).toNat ((s.lanesOf v).map fun j => s.val v j (.reg w.a)))) else none
  | .matchW w => if w.d.isScalar then
      some (w.d, 6, fun v => wide (if w.mod.getLsbD 0 then (if s.matchAll w.a v then maskOf (s.lanesOf v) else 0)
        else maskOf ((s.lanesOf v).filter fun j => s.val v j (.reg w.a) == s.val v (s.lowest v) (.reg w.a)))) else none
  | .srd w => if w.d.isScalar then some (w.d, 1, fun v => s.sreg s.iss.core s.snap w.sreg v (s.lowest v)) else none
  | .elect w => some (w.d, 1, fun v => BitVec.ofNat 64 (s.lowest v))
  | .mapq w => some (w.d, 1, fun v => s.snap.mapDesc v w.a)
  | .empq w => some (w.d, 1, fun v => s.snap.emptyMask v w.a)
  | .rand w => if w.d.isScalar then
      some (w.d, 4, fun v => rand s.snap.lpb.seed (((s.snap.thread v (s.lowest v)).uid.setWidth 64 <<< 32) +
        (x w.a v + w.imm.signExtend 32).setWidth 64)) else none
  | _ => none

end Sys2Proof.Claims

/-- R95, R96, R99, R149, R154–R160, R182, R192–R194, R296: the other words of one result per lane complete, with each issuing
thread's result in flight, to its last-result register too. A word that a cross-lane word takes from a lane without a thread is what stands
there (log 124, DESIGN CHOICE). -/
def Sys2Proof.Claims.OtherLaneResults : Prop :=
  ∀ (i : Instr) (d : Reg) (lat : Nat) (f : Nat → Nat → Word) (s : State) (bk : Block), laneOf s i = some (d, lat, f) → Issuing s bk →
    ∃ t, exec i s = .next t ∧ OnlyBlock s t ∧
      ∀ p ∈ s.iss.grp, FliesLast s t ((s.open d).target p.1 p.2 d) ((f p.1 p.2).setWidth 64) lat p.1 p.2

/-- R98, R99, R129, R140, R149, R152, R190, R193: the other words that write a scalar register complete, with one result in flight for
each warp of the group, and to the last-result register of each of its issuing threads; with `$z` to these alone. That the results of ELECT,
MAPQ and EMPQ go to the last-result register is the model's reading (log 40, DEDUCED). -/
def Sys2Proof.Claims.OtherScalarResults : Prop :=
  ∀ (i : Instr) (d : Reg) (lat : Nat) (f : Nat → DWord) (s : State) (bk : Block), warpOf s i = some (d, lat, f) → Issuing s bk →
    ∃ t, exec i s = .next t ∧ OnlyBlock s t ∧ ∀ w ∈ s.warps, (∀ n, d = .s n → Flies s t (.scalar w n.toNat) (f w) lat) ∧
      ∀ l ∈ s.lanesOf w, FliesLast s t .none (f w) lat w l

/-- R185, R189, R178: CVTEF and TOPKI complete with both results of every issuing thread in flight, in one cycle. -/
def Sys2Proof.Claims.TwoResults : Prop :=
  ∀ (w : FWord) (s : State) (bk : Block), Issuing s bk →
    let x := fun (p : Nat × Nat) => s.val p.1 p.2 (.reg w.a)
    let y := fun (p : Nat × Nat) => s.val p.1 p.2 (.reg w.b)
    (∃ t, exec (.cvtef w) s = .next t ∧ OnlyBlock s t ∧ BlockKept bk t.here ∧ ∀ p ∈ s.iss.grp,
      Flies s t ((s.openAll s.warps [w.d, w.c]).target p.1 p.2 w.d) ((cvtefE w (x p) (y p)).1.setWidth 64) 4 ∧
      Flies s t ((s.openAll s.warps [w.d, w.c]).target p.1 p.2 w.c) ((cvtefE w (x p) (y p)).2.setWidth 64) 4) ∧
    ∃ t, exec (.topki w) s = .next t ∧ OnlyBlock s t ∧ BlockKept bk t.here ∧ ∀ p ∈ s.iss.grp,
      let best := topkBetter (w.mod.getLsbD 0) (x p) (y p)
      Flies s t ((s.openAll s.warps [w.d, w.c]).target p.1 p.2 w.d) ((if best then x p else y p).setWidth 64) 6 ∧
      Flies s t ((s.openAll s.warps [w.d, w.c]).target p.1 p.2 w.c) ((if best then y p else x p).setWidth 64) 6

/-- R98, R134, R140, R157, R159, R182: a word that names a predicate has it in flight for every issuing thread: per lane for ISET,
FSET, IADDX and ELECT, and one value of the warp's lowest issuing lane for the integer ones on the scalar unit. -/
def Sys2Proof.Claims.PredicateResults : Prop :=
  ∀ (s : State) (bk : Block), Issuing s bk → ∀ w : FWord,
    let rel := fun (v l : Nat) => relation (w.mod.getLsbD 3) (w.mod &&& 7#11).toNat (s.val v l (.reg w.a)) (s.val v l (.reg w.b))
    let carry := fun (v l : Nat) => decide (2 ^ 32 ≤ iaddxSum (w.mod.getLsbD 6) (s.val v l (.reg w.a)) (s.val v l (.reg w.b))
      (s.carryIn v l (w.mod &&& 7#11).toNat (w.mod.getLsbD 6)))
    let bit := fun (x : Bool) => if x then 1#64 else 0#64
    (∀ k, (w.mod >>> 8).toNat = k + 1 →
      (∃ t, exec (.iset w) s = .next t ∧ MemoryKept s t ∧ ∀ p ∈ s.iss.grp, if (Instr.iset w).scalarUnit then
          Flies s t (.pred p.1 p.2 k) (bit (rel p.1 (s.lowest p.1))) 1 else Flies s t (.pred p.1 p.2 k) (bit (rel p.1 p.2)) 2) ∧
      (∃ t, exec (.fset w) s = .next t ∧ MemoryKept s t ∧ ∀ p ∈ s.iss.grp, Flies s t (.pred p.1 p.2 k)
        (bit (fsetRel (w.mod &&& 7#11).toNat (s.val p.1 p.2 (.reg w.a)) (s.val p.1 p.2 (.reg w.b)))) 4) ∧
      (∃ t, exec (.elect w) s = .next t ∧ MemoryKept s t ∧ ∀ p ∈ s.iss.grp, Flies s t (.pred p.1 p.2 k)
        (if p.2 = s.lowest p.1 then 1 else 0) 1)) ∧
    ∀ k, ((w.mod >>> 3) &&& 7#11).toNat = k + 1 →
      ∃ t, exec (.iaddx w) s = .next t ∧ MemoryKept s t ∧ ∀ p ∈ s.iss.grp, if (Instr.iaddx w).scalarUnit then
        Flies s t (.pred p.1 p.2 k) (bit (carry p.1 (s.lowest p.1))) 1 else Flies s t (.pred p.1 p.2 k) (bit (carry p.1 p.2)) 2

namespace Sys2Proof.Claims

open Sys2Proof Sys2Proof.Machine

/-- The issuing lanes of a warp whose vote is 1: by a predicate, or by a source that is not 0 (R193). -/
def votes (s : State) (w : FWord) (v : Nat) : List Nat :=
  let ps := ((w.mod >>> 4) &&& 7#11).toNat
  (s.lanesOf v).filter fun j => if ps = 0 then decide (s.val v j (.reg w.a) ≠ 0) else (s.snap.thread v j).p.getLsbD (ps - 1)

/-- VOTE's truth value, from the numbers of votes and of issuing lanes (R193). -/
def voteTruth (s : State) (w : FWord) (v : Nat) : Bool :=
  let m := (votes s w v).length
  let n := (s.lanesOf v).length
  match (w.mod &&& 3#11).toNat with
  | 0 => m == n
  | 2 => m == 0 || m == n
  | _ => m != 0

/-- Words that write no predicate. -/
def writesNoPred (i : Instr) : Bool :=
  (aluOf i).isSome || (match i with
    | .qswp _ => true | .qbrd _ => true | .shfl _ => true | .shflI _ => true | .shflx _ => true | .shflxI _ => true | .redw _ => true
    | .scanw _ => true | .sel _ => true | .selI _ => true | .cvtef _ => true | .topki _ => true | .srd _ => true | .mapq _ => true
    | .empq _ => true | .rand _ => true
    | _ => false)

end Sys2Proof.Claims

namespace Sys2Proof.Claims

open Sys2Proof Sys2Proof.Machine

/-- The operations of REDW and SCANW by number, and their identities (R191, R194). -/
def redTable (op : Nat) : (Word → Word → Word) × Word :=
  match op with
  | 0 => (fun x y => x + y, 0)
  | 1 => (fun x y => if x.toInt ≤ y.toInt then x else y, 0x7FFFFFFF)
  | 2 => (fun x y => if x.toInt ≤ y.toInt then y else x, 0x80000000)
  | 3 => (fun x y => if x.toNat ≤ y.toNat then x else y, 0xFFFFFFFF)
  | 4 => (fun x y => if x.toNat ≤ y.toNat then y else x, 0)
  | 5 => (fun x y => x &&& y, 0xFFFFFFFF)
  | 6 => (fun x y => x ||| y, 0)
  | 7 => (fun x y => x ^^^ y, 0)
  | 8 => (fun x y => faddE 0 x y 0, 0x80000000)
  | 9 => (fun x y => fminmax false false x y, 0x7F800000)
  | _ => (fun x y => fminmax true false x y, 0xFF800000)

/-- Is an FP32 pattern a NaN, and the place of another pattern among the numbers in their order, both zeros at 0. -/
def nan32 (x : Word) : Bool := decide (x.toNat % 2 ^ 31 > 0x7F800000)
def place32 (x : Word) : Int := if x.toNat < 2 ^ 31 then (x.toNat : Int) else -((x.toNat % 2 ^ 31 : Nat) : Int)

/-- R149, R150, R340: what SRD reads under each number: for a register of the core or the context that a bundle may write, its value before the
bundle. `%accused` reads 0 in a context that is not the owner (R263). -/
def SpecialRegistersRead : Prop :=
  ∀ (s : State) (c : Nat) (bk : Block) (w l : Nat),
    let r := fun (n : Nat) => s.sreg c bk n w l
    let is := fun (n v : Nat) => r n = BitVec.ofNat 64 v
    let t := bk.thread w l
    is 0x00 l ∧ is 0x01 (l / 4) ∧ is 0x02 (l / 8) ∧ is 0x03 w ∧ is 0x04 (32 * w + l) ∧ is 0x05 bk.blk ∧ is 0x06 bk.handle.toNat ∧
    r 0x07 = bk.lpbAddr ∧ is 0x08 c ∧ is 0x09 (c / 8) ∧ is 0x0A (c / 64) ∧ is 0x0B s.dev ∧ is 0x0C bk.lpb.window ∧ is 0x0D bk.ctx ∧
    is 0x10 s.cyc ∧ is 0x11 (s.cyc / 27200 % 64) ∧ is 0x12 (s.cyc / 1740800) ∧ r 0x14 = t.stall ∧ r 0x15 = t.pstall ∧ is 0x18 t.uid.toNat ∧
    is 0x19 t.par.toNat ∧ (∀ k, Tbl.get? s.cp.tasks bk.task = some k → is 0x1A k.gen.toNat) ∧ r 0x1B = bk.lpb.seed ∧
    is 0x20 s.iss.regs.accown.toNat ∧ is 0x21 (if s.iss.regs.accown = BitVec.ofNat 32 bk.ctx then s.iss.regs.accused.toNat else 0) ∧
    is 0x22 s.iss.regs.mmode.toNat ∧ r 0x28 = s.iss.regs.tvec ∧ is 0x29 t.fcode.toNat ∧ r 0x2A = t.fpc ∧ is 0x2B (bk.warp w).fmask.toNat ∧
    r 0x2C = t.faddr ∧ is 0x30 (s.cluster (c / 8)).cls ∧
    ∀ k, Tbl.get? s.ctxs bk.ctx = some k → is 0x31 ((match k.lease with
      | .none => 0 | .active => 1 | .suspended => 2 | .expired => 3) * 2 ^ 62 + k.leaseEnd % 2 ^ 62)

/-- R129: the fields of MAPQ's answer, and EMPQ's mask, for a mapped name, a pending one and, for MAPQ, an unmapped one. -/
def MapsAreDescribed : Prop :=
  ∀ (bk : Block) (w : Nat) (n : BitVec 8),
    let d := (bk.mapDesc w (.v n)).toNat
    let e := bk.emptyMask w (.v n)
    (bk.mapOf w n = none → d = 2 ^ 31 + n.toNat % 4 * 2 ^ 16) ∧
    (bk.mapOf w n = some .pending → d = 2 ^ 30 + n.toNat % 4 * 2 ^ 16 ∧ e = 0xFFFFFFFF) ∧
    ∀ r, bk.mapOf w n = some (.row r) → r < 4096 → (bk.row r).ref < 16 →
      d % 4096 = r ∧ d / 4096 % 16 = (bk.row r).ref ∧ d / 2 ^ 16 % 4 = n.toNat % 4 ∧ d / 2 ^ 18 = 0 ∧
      ∀ i, e.getLsbD i = (decide (i < 32) && (bk.row r).empty.getLsbD i)

/-- R191, R192: the lane from which SHFL and SHFLX take lane l's word, with segments of W lanes and y the source's value. -/
def ShufflesTakeTheirLane : Prop :=
  ∀ (m : BitVec 11) (l : Nat) (y : Word), (m &&& 7#11).toNat ≤ 4 → l < 32 →
    let W := 32 / 2 ^ (m &&& 7#11).toNat
    let x := l ^^^ (y.toNat % 32)
    shflLane m l y = l / W * W + y.toNat % W ∧
    ((m >>> 3) &&& 3#11 = 0#11 → shflxLane m l y = if x / W = l / W then x else l) ∧
    ((m >>> 3) &&& 3#11 = 1#11 → shflxLane m l y = if y.toNat ≤ l % W then l - y.toNat else l) ∧
    ((m >>> 3) &&& 3#11 = 2#11 → shflxLane m l y = if l % W + y.toNat < W then l + y.toNat else l)

/-- R153, R157, R182, R193, R194: REDW and SCANW combine the values one by one; VOTE's result is the mask of the votes, or all ones or 0 by its
truth; ISET's relations are those of signed or unsigned numbers, and FSET's those of numbers in their order, but for NaN. -/
def ReductionsVotesAndRelations : Prop :=
  (∀ op, op ≤ 10 → reduce op [] = (redTable op).2 ∧ ∀ x r, reduce op (x :: r) = r.foldl (redTable op).1 x) ∧
  (∀ (s : State) (w : FWord) (v : Nat), (s.lanesOf v).Nodup → (∀ j ∈ s.lanesOf v, j < 32) →
    s.voteVal w v = if w.mod &&& 3#11 = 3#11 then maskOf (votes s w v) else if voteTruth s w v then 0xFFFFFFFF else 0) ∧
  (∀ (ls : List Nat) (j : Nat), j < 32 → (maskOf ls).getLsbD j = decide (j ∈ ls)) ∧
  (∀ x y : Word, (∀ u, relation u 0 x y = decide (x = y) ∧ relation u 1 x y = decide (x ≠ y)) ∧
    relation true 2 x y = decide (x.toNat < y.toNat) ∧ relation true 3 x y = decide (x.toNat ≤ y.toNat) ∧
    relation true 4 x y = decide (y.toNat < x.toNat) ∧ relation true 5 x y = decide (y.toNat ≤ x.toNat) ∧
    relation false 2 x y = decide (x.toInt < y.toInt) ∧ relation false 3 x y = decide (x.toInt ≤ y.toInt) ∧
    relation false 4 x y = decide (y.toInt < x.toInt) ∧ relation false 5 x y = decide (y.toInt ≤ x.toInt)) ∧
  ∀ x y : Word, if nan32 x || nan32 y then
      (List.range 8).map (fsetRel · x y) = [false, true, false, false, false, false, false, true]
    else (List.range 8).map (fsetRel · x y) = [decide (place32 x = place32 y), decide (place32 x ≠ place32 y),
      decide (place32 x < place32 y), decide (place32 x ≤ place32 y), decide (place32 y < place32 x), decide (place32 y ≤ place32 x), true, false]

end Sys2Proof.Claims

/-- R98, R190, R193: VOTE and MATCH.all that name a predicate have their truth value in flight to it, for every issuing thread of the warp, and
hold the threads of the group for the latency. -/
def Sys2Proof.Claims.VoteAndMatchPredicates : Prop :=
  ∀ (s : State) (bk : Block) (w : FWord) (k : Nat), Issuing s bk → (w.mod >>> 8).toNat = k + 1 → (∀ v, (s.lanesOf v).Nodup) →
    (∀ p ∈ s.iss.grp, p.2 < 32) →
    (∃ t, exec (.vote w) s = .next t ∧ OnlyBlock s t ∧ ∀ p ∈ s.iss.grp,
      Flies s t (.pred p.1 p.2 k) (if voteTruth s w p.1 then 1 else 0) 6 ∧ s.now + 6 ≤ (t.here.thread p.1 p.2).ready) ∧
    (w.mod.getLsbD 0 = true → ∃ t, exec (.matchW w) s = .next t ∧ OnlyBlock s t ∧ ∀ p ∈ s.iss.grp,
      Flies s t (.pred p.1 p.2 k) (if ∀ j ∈ s.lanesOf p.1, s.val p.1 j (.reg w.a) = s.val p.1 (s.lowest p.1) (.reg w.a) then 1 else 0) 6 ∧
      s.now + 6 ≤ (t.here.thread p.1 p.2).ready)

/-- R134, R190: the words without a predicate destination, SHFL and the other exchanges among them, put no predicate in flight. -/
def Sys2Proof.Claims.OtherWordsWriteNoPredicate : Prop :=
  ∀ (s : State) (bk : Block) (i : Instr), Issuing s bk → writesNoPred i = true →
    ∃ t, exec i s = .next t ∧ ∀ e ∈ t.here.pend, e ∉ bk.pend → ∀ v l k, e.tgt ≠ .pred v l k
namespace Sys2Proof.Claims

open Sys2Proof Sys2Proof.Machine

/-- The issuing group has the one thread in lane l of warp w, and its block is there. -/
structure Alone (s : State) (bk : Block) (w l : Nat) : Prop where
  issuing : Issuing s bk
  grp : s.iss.grp = [(w, l)]

/-- A transfer by a guard to a destination of each thread: BRA, BR and JMPI (R136). -/
def branchOf (s : State) (i : Instr) : Option (BitVec 3 × Bool × (Nat → Nat → DWord)) :=
  match i with
  | .bra w => some (w.g, w.gn, fun _ _ => s.iss.addr + (w.imm.signExtend 64 <<< 5))
  | .br w => some (w.g, w.gn, fun v l => s.snap.addrOf v l w.a)
  | .jmpi w => some (w.g, w.gn, fun v l => s.snap.addrOf v l w.a + ((s.val v l (.reg w.b)).setWidth 64 <<< 5))
  | _ => none

/-- Every thread of a block but those of a list is as before. -/
def OthersKept (x y : Block) (ps : List (Nat × Nat)) : Prop := ∀ w l, (w, l) ∉ ps → y.thread w l = x.thread w l

end Sys2Proof.Claims

/-- R136, R138: BRA, BR and JMPI complete: each issuing thread whose guard is true continues at its own destination, and nothing else
changes. -/
def Obligations.Branches : Prop :=
  ∀ (i : Instr) (g : BitVec 3) (gn : Bool) (dest : Nat → Nat → DWord) (s : State) (bk : Block),
    branchOf s i = some (g, gn, dest) → Issuing s bk → s.iss.grp.Nodup →
    ∃ t, exec i s = .next t ∧ OnlyBlock s t ∧ OnlyThreads bk t.here s.iss.grp ∧ ∀ p ∈ s.iss.grp, t.here.thread p.1 p.2 =
        if s.guard p.1 p.2 g gn then
          { bk.thread p.1 p.2 with pc := dest p.1 p.2, from? := some s.iss.addr } else bk.thread p.1 p.2

/-- R137: CALL and CALLI with `$z` push the address of the next bundle on the return stack of each thread whose guard is true, and continue at
the destination; with a false guard they, RET too, change nothing. -/
def Sys2Proof.Claims.CallsPush : Prop :=
  ∀ (s : State) (bk : Block) (w l : Nat), Alone s bk w l →
    let idle := fun (i : Instr) => ∃ t, exec i s = .next t ∧ OnlyBlock s t ∧ t.here = bk
    (∀ x : IWord, x.d = .z → s.guard w l x.g x.gn = true → ∃ t, exec (.call x) s = .next t ∧ OnlyBlock s t ∧ OnlyThreads bk t.here [(w, l)] ∧
      t.here.thread w l = { bk.thread w l with stack := (s.iss.addr + 32) :: (bk.thread w l).stack, pc := s.iss.addr + (x.imm.signExtend 64 <<< 5), from? := some s.iss.addr }) ∧
    (∀ x : FWord, x.d = .z → s.guard w l x.g x.gn = true → ∃ t, exec (.calli x) s = .next t ∧ OnlyBlock s t ∧ OnlyThreads bk t.here [(w, l)] ∧
      t.here.thread w l = { bk.thread w l with stack := (s.iss.addr + 32) :: (bk.thread w l).stack, pc := s.snap.addrOf w l x.a, from? := some s.iss.addr }) ∧
    (∀ x : IWord, s.guard w l x.g x.gn = false → idle (.call x)) ∧
    ∀ x : FWord, s.guard w l x.g x.gn = false → idle (.calli x) ∧ idle (.ret x)

/-- R99, R133, R137: CALL and CALLI with a link put the address of the next bundle in flight to it, one scalar register or a pair of the
operand file, and continue at the destination. That its low half is the word's result in the last-result register too is the model's reading
(log 37). -/
def Sys2Proof.Claims.CallsLink : Prop :=
  ∀ (s : State) (bk : Block) (w l : Nat), Alone s bk w l → s.iss.half = .whole →
    let ret := s.iss.addr + 32
    let linked := fun (i : Instr) (d : Reg) (dest : DWord) =>
      let goes := fun (t : State) => exec i s = .next t ∧ OnlyBlock s t ∧ (t.here.thread w l).pc = dest ∧
        (t.here.thread w l).from? = some s.iss.addr ∧ (t.here.thread w l).stack = (bk.thread w l).stack
      (∀ n : BitVec 6, d = .s n → ∃ t, goes t ∧ Flies s t (.scalar w n.toNat) ret 1 ∧
        FliesLast s t .none ((ret.setWidth 32).setWidth 64) 1 w l) ∧
      ∀ n : BitVec 3, d = .o n → ∃ t, goes t ∧ FliesLast s t (.oreg w n.toNat l) ((ret.setWidth 32).setWidth 64) 1 w l ∧
        Flies s t (.oreg w (n + 1).toNat l) (((ret >>> 32).setWidth 32).setWidth 64) 1
    (∀ x : IWord, s.guard w l x.g x.gn = true → linked (.call x) x.d (s.iss.addr + (x.imm.signExtend 64 <<< 5))) ∧
    ∀ x : FWord, s.guard w l x.g x.gn = true → linked (.calli x) x.d (s.snap.addrOf w l x.a)

/-- R137: RET completes: with `$z` it pops the return stack as it stood before the bundle, with an address operand it leaves the
stack alone. -/
def Sys2Proof.Claims.Returns : Prop :=
  ∀ (s : State) (bk : Block) (w l : Nat) (x : FWord), Alone s bk w l → s.guard w l x.g x.gn = true →
    ∃ t, exec (.ret x) s = .next t ∧ OnlyBlock s t ∧ OnlyThreads bk t.here [(w, l)] ∧
      t.here.thread w l =
        if x.a = .z then { bk.thread w l with stack := (bk.thread w l).stack.tail, pc := (s.snap.thread w l).stack.headD 0, from? := some s.iss.addr }
        else { bk.thread w l with pc := s.snap.addrOf w l x.a, from? := some s.iss.addr }

/-- R143, R31: NOP, YIELD and an empty bundle have no effect beyond the issue itself. -/
def Sys2Proof.Claims.NopsDoNothing : Prop :=
  ∀ (s : State) (w : FWord), s.iss.checked = true →
    exec (.nop w) s = .next s ∧ exec (.yield w) s = .next s ∧ exec .emptyBundle s = .next s

/-- R143, R339: HINT completes and leaves every register, every byte and every address alone; the advice of the warp is kept (a field of
the model's). -/
def Sys2Proof.Claims.HintsAdvise : Prop :=
  ∀ (s : State) (bk : Block) (w l : Nat) (x : FWord), Alone s bk w l →
    ∃ t, exec (.hint x) s = .next t ∧ OnlyBlock s t ∧ { t.here with warps := [] } = { bk with warps := [] } ∧
      (∀ v, v ≠ w → t.here.warp v = bk.warp v) ∧ t.here.warp w = { bk.warp w with hint := x.mod.setWidth 2 }

/-- R142: SLEEPC and NAPTO set the wake time of each issuing thread, and change nothing else. That 1 + the stall is converted to chip cycles as one count
and SLEEPC's own count is not is the model's reading (log 16, DEDUCED). -/
def Sys2Proof.Claims.Sleeps : Prop :=
  ∀ (s : State) (bk : Block), Issuing s bk → s.iss.grp.Nodup →
    (∀ x : FWord, ∃ t, exec (.sleepc x) s = .next t ∧ OnlyBlock s t ∧ OnlyThreads bk t.here s.iss.grp ∧ ∀ p ∈ s.iss.grp,
      t.here.thread p.1 p.2 = { bk.thread p.1 p.2 with nap := false, wake := s.cyc + s.cycles (1 + s.iss.stall) + (s.val p.1 p.2 (.reg x.b)).toNat }) ∧
    (∀ x : IWord, ∃ t, exec (.sleepcI x) s = .next t ∧ OnlyBlock s t ∧ OnlyThreads bk t.here s.iss.grp ∧ ∀ p ∈ s.iss.grp,
      t.here.thread p.1 p.2 = { bk.thread p.1 p.2 with nap := false, wake := s.cyc + s.cycles (1 + s.iss.stall) + x.imm.toNat }) ∧
    ∀ x : FWord, ∃ t, exec (.napto x) s = .next t ∧ OnlyBlock s t ∧ OnlyThreads bk t.here s.iss.grp ∧ ∀ p ∈ s.iss.grp,
      t.here.thread p.1 p.2 = { bk.thread p.1 p.2 with nap := true, wake := (s.val64 p.1 p.2 x.a).toNat }

/-- R141: EXIT ends the issuing thread: its lane is vacant, it holds nothing and waits on no future. -/
def Obligations.ExitEnds : Prop :=
  ∀ (s : State) (bk : Block) (w l : Nat) (x : FWord), Alone s bk w l →
    ∃ t, exec (.exit x) s = .next t ∧ MemoryKept s t ∧ (t.here.thread w l).live = false ∧ (t.here.thread w l).holds = [] ∧ (t.here.thread w l).kept = [] ∧
      ∀ (n : Nat) (f : Future), Tbl.get? t.cp.futures n = some f → (s.iss.blk, w, l) ∉ f.waiters

/-- R144, R145: TRAP, BKPT and SYSC enter the handler of a thread at user level that owes no translation: the code, the address of the next
bundle, the zero-extended immediate and the mask are written, the level becomes supervisor, and control goes to the vector. -/
def Obligations.TrapsEnter : Prop :=
  ∀ (s : State) (bk : Block) (w l : Nat) (x : IWord) (k : Ctx), Alone s bk w l → Tbl.get? s.ctxs bk.ctx = some k →
    (bk.thread w l).level = .user → bk.untranslated w l = false → s.reqUntranslated (bk.core?.getD 0) s.iss.blk w l = false →
    (bk.thread w l).memFault = none →
    let entered := fun (n : Nat) (t : State) =>
      OnlyBlock s t ∧ (t.here.warp w).fmask = maskOf [l] ∧ t.here.thread w l =
        { bk.thread w l with fcode := BitVec.ofNat 32 (n + (if (bk.thread w l).recorded.isSome then 512 else 0)), fpc := s.iss.addr + 32, faddr := x.imm.setWidth 64, level := .supervisor, pc := (k.tvec &&& ~~~0xFFF#64) + BitVec.ofNat 64 (64 * n), from? := none, since := none, ready := max (bk.thread w l).ready (s.nowOf s.iss.blk + 1), kept := (bk.thread w l).holds, holds := [] }
    (∃ t, exec (.trap x) s = .next t ∧ entered 0x1A t) ∧ (∃ t, exec (.bkpt x) s = .next t ∧ entered 0x19 t) ∧
    ∃ t, exec (.sysc x) s = .next t ∧ entered 0x18 t

/-- R146: ERET with no recorded operation restores the level in pl and continues at `%fpc`. That the holds which the handler's entry interrupted
stand again is the model's reading (log 51). Other threads are as before, but that R195's holds of the warp wait for this thread no longer. -/
def Sys2Proof.Claims.EretReturns : Prop :=
  ∀ (s : State) (bk : Block) (w l : Nat) (x : FWord), Alone s bk w l → (s.snap.thread w l).fcode.getLsbD 9 = false →
    ∃ t, exec (.eret x) s = .next t ∧ MemoryKept s t ∧ t.ctxs = s.ctxs ∧ t.mp = s.mp ∧ t.cp = s.cp ∧
      { t.here with warps := [] } = { bk with warps := [] } ∧
      (∀ v m, (v, m) ≠ (w, l) → { t.here.thread v m with holds := [], kept := [] } = { bk.thread v m with holds := [], kept := [] }) ∧
      (∀ v m h, (v, m) ≠ (w, l) → (∀ y a, h ≠ .cross y a) → (h ∈ (t.here.thread v m).holds ↔ h ∈ (bk.thread v m).holds)) ∧
      (∀ h, (∀ y a, h ≠ .cross y a) → (h ∈ (t.here.thread w l).holds ↔ h ∈ (bk.thread w l).holds ∨ h ∈ (bk.thread w l).kept)) ∧
      (∀ m y a, .cross y a ∈ (t.here.thread w m).holds → y.getLsbD l = false) ∧
      (t.here.thread w l).kept = [] ∧ (t.here.thread w l).pc = (s.snap.thread w l).fpc ∧
      (t.here.thread w l).level = (if (s.snap.thread w l).fcode.getLsbD 8 then .supervisor else .user) ∧
      (t.here.thread w l).stack = (bk.thread w l).stack ∧ (t.here.thread w l).o = (bk.thread w l).o ∧ (t.here.thread w l).p = (bk.thread w l).p

/-- R146, R106: ERET with a recorded operation and without `.drop` has it performed again: its held accesses of the thread await translation
once more, rp becomes 0, and the thread continues at the resume address. -/
def Sys2Proof.Claims.EretReplays : Prop :=
  ∀ (s : State) (bk : Block) (w l op : Nat) (x : FWord), Alone s bk w l → (s.snap.thread w l).fcode.getLsbD 9 = true →
    (bk.thread w l).recorded = some op → x.mod.getLsbD 0 = false →
    ∃ t, exec (.eret x) s = .next t ∧ MemoryKept s t ∧ t.here.win = bk.win ∧ t.here.pend = bk.pend ∧
      (t.here.thread w l).pc = (s.snap.thread w l).resume ∧
      (t.here.thread w l).fcode.getLsbD 9 = false ∧ (t.here.thread w l).recorded = none ∧
      ∀ o ∈ bk.ops, ∀ a ∈ o.held, a.w = w → a.lane = l → ∃ q ∈ t.here.ops, q.id = o.id ∧ { a with again := true } ∈ q.todo ∧ a ∉ q.held

/-- R146, R106: ERET with `.drop` discards the recorded operation: what it had still to do for the thread is gone without touching memory or
the window, and each of its results of the thread is 0; the thread continues at the resume address with rp 0. That the zeros land at the start of
the next core cycle is the model's choice (log 44). -/
def Sys2Proof.Claims.EretDrops : Prop :=
  ∀ (s : State) (bk : Block) (w l op : Nat) (o : MemOp) (x : FWord), Alone s bk w l → (s.snap.thread w l).fcode.getLsbD 9 = true →
    (bk.thread w l).recorded = some op → x.mod.getLsbD 0 = true → bk.ops.find? (·.id == op) = some o →
    ∃ t, exec (.eret x) s = .next t ∧ MemoryKept s t ∧ t.here.win = bk.win ∧ (t.here.thread w l).pc = (s.snap.thread w l).resume ∧
      (t.here.thread w l).fcode.getLsbD 9 = false ∧ (t.here.thread w l).recorded = none ∧
      (∀ q ∈ t.here.ops, q.id = op → ∀ a ∈ q.held ++ q.parked, ¬ (a.w = w ∧ a.lane = l)) ∧
      (∀ p ∈ bk.pend, p.op = op → p.forThread w l = true → (∃ a ∈ o.held, a.w = w ∧ a.lane = l) →
        { p with val := 0, due := some (s.nowOf s.iss.blk + 1) } ∈ t.here.pend) ∧
      ∀ p ∈ bk.pend, p.op ≠ op → p ∈ t.here.pend

/-- R145: taking a fault at user level writes the fault's registers and continues at the vector; the rest of the thread is
kept, and so are memory and every other thread. That the holds of the thread are set aside until ERET is the model's reading (log 51, DEDUCED). -/
def Sys2Proof.Claims.TakingAFault : Prop :=
  ∀ (s : State) (b w l : Nat) (bk : Block) (k : Ctx) (e : Entry), s.block? b = some bk → Tbl.get? s.ctxs bk.ctx = some k →
    (bk.thread w l).level = .user →
    ∃ y, (s.takeFault b w l e).block? b = some y ∧ (s.takeFault b w l e).ms = s.ms ∧ (s.takeFault b w l e).ctxs = s.ctxs ∧
      OthersKept bk y [(w, l)] ∧ (y.warp w).fmask = e.fmask ∧ y.thread w l =
        { bk.thread w l with fcode := BitVec.ofNat 32 (e.code.num + (if (bk.thread w l).recorded.isSome then 512 else 0)), fpc := e.fpc, faddr := e.faddr, level := .supervisor, pc := (k.tvec &&& ~~~0xFFF#64) + BitVec.ofNat 64 (64 * e.code.num), from? := none, since := none, ready := max (bk.thread w l).ready (s.nowOf b + 1), kept := (bk.thread w l).holds, holds := [] }

/-- R147: a fault raised at supervisor level is not delivered: the context's end begins, with its record, and no thread changes. -/
def Sys2Proof.Claims.SupervisorFaultEndsTheContext : Prop :=
  ∀ (s : State) (b w l : Nat) (bk : Block) (k : Ctx) (e : Entry), s.block? b = some bk → Tbl.get? s.ctxs bk.ctx = some k →
    (bk.thread w l).level = .supervisor → k.ending = none →
    (s.takeFault b w l e).blocks = s.blocks ∧
      Tbl.get? (s.takeFault b w l e).ctxs bk.ctx = some { k with ending := some (e.code.num, e.fpc, e.faddr) }

/-- R94, R139: JSET loads the mask of rejoin register k of the warp, and clears from its arrived set every lane not held at a JWAIT on it; no
other rejoin register changes, and no thread goes on in the JSET's own cycle. As the next core cycle begins the release condition is evaluated
against the new mask: where every lane of it has arrived or is vacant, the held threads go on and the arrived set is cleared. -/
def Sys2Proof.Claims.JsetLoadsTheMask : Prop :=
  (∀ (s : State) (bk : Block) (w l : Nat), Alone s bk w l → (Tbl.keys (bk.warp w).threads).Nodup → (∀ n ∈ Tbl.keys (bk.warp w).threads, n < 32) →
    let did := fun (i : Instr) (k : Nat) (m : Word) => ∃ t, exec i s = .next t ∧ OnlyBlock s t ∧
      (∀ v n, t.here.thread v n = bk.thread v n) ∧ (∀ v, v ≠ w → t.here.warp v = bk.warp v) ∧
      (∀ j, j ≠ k → (t.here.warp w).rejoin j = (bk.warp w).rejoin j) ∧ (t.here.warp w).jset = (bk.warp w).jset ++ [k] ∧
      ((t.here.warp w).rejoin k).mask = m ∧ ∀ n < 32, ((t.here.warp w).rejoin k).arrived.getLsbD n =
        (((bk.warp w).rejoin k).arrived.getLsbD n && (bk.thread w n).atJwait k)
    (∀ x : FWord, did (.jset x) (rejoinNo x.a) (if x.mod.getLsbD 0 then maskOf [l] else s.val w l (.reg x.b))) ∧
    ∀ x : IWord, did (.jsetI x) (rejoinNo x.a) x.imm) ∧
  ∀ (s : State) (c b w k : Nat) (bk : Block), s.block? b = some bk → bk.place = .core c → bk.pend = [] → Tbl.keys bk.warps = [w] →
    (bk.warp w).jset = [k] → (bk.warp w).waiting k ≠ 0 →
    let r := (bk.warp w).rejoin k
    let full := ∀ n < 32, r.mask.getLsbD n = true → r.arrived.getLsbD n = true ∨ (bk.thread w n).live = false
    ∃ y, (s.landCore c).block? b = some y ∧ (y.warp w).jset = [] ∧
      (full → ((y.warp w).rejoin k).arrived = 0 ∧ ∀ n, Hold.jwait k ∉ (y.thread w n).holds) ∧
      (¬ full → (y.warp w).rejoin k = r ∧ ∀ n, y.thread w n = bk.thread w n)

/-- R94, R139: JWAIT holds the issuing thread where its lane is in the mask and another live lane of the mask has not arrived;
outside the mask the thread goes on as it was. -/
def Sys2Proof.Claims.JwaitHolds : Prop :=
  ∀ (s : State) (bk : Block) (w l : Nat) (x : FWord), Alone s bk w l → s.snap.warp w = bk.warp w → l < 32 →
    let k := rejoinNo x.a
    let r := (bk.warp w).rejoin k
    (r.mask.getLsbD l = true → ∀ m < 32, m ≠ l → r.mask.getLsbD m = true → r.arrived.getLsbD m = false → (bk.thread w m).live = true →
      ∃ t, exec (.jwait x) s = .next t ∧ OnlyBlock s t ∧ OthersKept bk t.here [(w, l)] ∧
        t.here.thread w l = { bk.thread w l with holds := (bk.thread w l).holds ++ [.jwait k] } ∧
        ((t.here.warp w).rejoin k).arrived.getLsbD l = true) ∧
    (r.mask.getLsbD l = false → (∀ m, (bk.thread w m).heldBy (· == .jwait k) = false) →
      ∃ t, exec (.jwait x) s = .next t ∧ OnlyBlock s t ∧ ∀ v m, t.here.thread v m = bk.thread v m)

namespace Sys2Proof.Claims

open Sys2Proof Sys2Proof.Machine

/-- R94, R139, R141: the last arrival releases: a JWAIT of a lane of the mask, where every other lane of it has arrived or is vacant, lets every thread
held on the register go on, its own among them, and clears the arrived set; so does an EXIT, for each register on which some thread is held. A lane
in which no thread stands is vacant (log 43, DEDUCED). -/
def LastArrivalsRelease : Prop :=
  ∀ (s : State) (bk : Block) (w l : Nat) (x : FWord), Alone s bk w l → s.snap.warp w = bk.warp w → l < 32 → (bk.thread w l).live = true →
    let others := fun (k : Nat) => ∀ m < 32, m ≠ l → ((bk.warp w).rejoin k).mask.getLsbD m = true →
      ((bk.warp w).rejoin k).arrived.getLsbD m = true ∨ (bk.thread w m).live = false
    let freed := fun (t : State) (k : Nat) => (t.here.warp w).rejoin k = { (bk.warp w).rejoin k with arrived := 0 } ∧
      ∀ m, Hold.jwait k ∉ (t.here.thread w m).holds ∧ Hold.jwait k ∉ (t.here.thread w m).kept
    (let k := rejoinNo x.a
     ((bk.warp w).rejoin k).mask.getLsbD l = true → others k → ∃ t, exec (.jwait x) s = .next t ∧ OnlyBlock s t ∧ freed t k ∧
      (∀ v, v ≠ w → t.here.warp v = bk.warp v) ∧ (∀ j, j ≠ k → (t.here.warp w).rejoin j = (bk.warp w).rejoin j) ∧
      ∀ m, m ≠ l → (bk.thread w m).heldBy (· == .jwait k) = false → t.here.thread w m = bk.thread w m) ∧
    ∀ k < 8, others k → (∃ m < 32, m ≠ l ∧ (bk.thread w m).atJwait k = true) → ∃ t, exec (.exit x) s = .next t ∧ MemoryKept s t ∧ freed t k

end Sys2Proof.Claims

/-- A 64-bit register after SWR from source a with value v: all of it from a scalar register, the half that `.hi` names from any other
source, `$z` with them (R149). -/
def Sys2Proof.Claims.written (x : FWord) (v old : DWord) : DWord :=
  match x.a with
  | .s _ => v
  | _ => if x.hi then (v <<< 32) ||| (old &&& 0xFFFFFFFF#64) else (old &&& 0xFFFFFFFF00000000#64) ||| (v &&& 0xFFFFFFFF#64)

/-- R149, R150: SWR to a register held by the thread is seen by its next bundle: from a scalar register all 64 bits, from a per-lane source or
`$z` the half that `.hi` names, and bits above the register's width are ignored. That `%fpc` is written with the resume address while an
operation is recorded is R146. What `$z` writes, and which lane's value a group writes (log 35), and the bits of `%fcode` that R145 does not name (log 36),
are the model's readings (DEDUCED). -/
def Sys2Proof.Claims.SwrWritesThreadRegisters : Prop :=
  ∀ (s : State) (bk : Block) (w l : Nat) (x : FWord), Alone s bk w l →
    let f := written x (s.val64 w l x.a)
    let th := bk.thread w l
    let did := fun (y : Thread) => ∃ t, exec (.swr x) s = .next t ∧ OnlyBlock s t ∧ OnlyThreads bk t.here [(w, l)] ∧ t.here.thread w l = y
    (x.sreg = 0x14 → did { th with stall := f th.stall }) ∧ (x.sreg = 0x15 → did { th with pstall := f th.pstall }) ∧
    (x.sreg = 0x29 → did { th with fcode := (f (th.fcode.setWidth 64)).setWidth 32 &&& 0x3FF#32 }) ∧
    (x.sreg = 0x2A → (s.snap.thread w l).rp = false → did { th with fpc := f th.fpc }) ∧
    (x.sreg = 0x2A → (s.snap.thread w l).rp = true → did { th with fpc := f th.fpc, resume := f th.fpc }) ∧
    (x.sreg = 0x2C → did { th with faddr := f th.faddr })

/-- R149, R150: SWR to a register held by the warp, the core or the context, from the warp's lowest issuing lane, and what it leaves alone. That
`$z` writes 0 (log 35), and that a write of `%accown` which changes the owner clears every tile that no resident block of the new owner claims (log 132),
are the model's readings (DEDUCED). -/
def Sys2Proof.Claims.SwrWritesWideRegisters : Prop :=
  ∀ (s : State) (bk : Block) (w l : Nat) (x : FWord) (k : Ctx), Alone s bk w l → Tbl.get? s.ctxs s.snap.ctx = some k →
    let f := written x (s.val64 w l x.a)
    let c := s.iss.core
    let own := (f ((s.core c).accown.setWidth 64)).setWidth 32
    let rest := fun (t : State) => MemoryKept s t ∧ t.cyc = s.cyc ∧ t.cp = s.cp ∧ t.mp = s.mp
    let only := fun (t : State) (y : Ctx) => rest t ∧ t.blocks = s.blocks ∧ t.cores = s.cores ∧ Tbl.get? t.ctxs s.snap.ctx = some y ∧
      ∀ z, z ≠ s.snap.ctx → Tbl.get? t.ctxs z = Tbl.get? s.ctxs z
    (x.sreg = 0x20 → own = (s.core c).accown → exec (.swr x) s = .next s) ∧
    (x.sreg = 0x20 → own ≠ (s.core c).accown → ∃ t, exec (.swr x) s = .next t ∧ rest t ∧ t.ctxs = s.ctxs ∧ t.blocks = s.blocks ∧
      (∀ d, d ≠ c → t.core d = s.core d) ∧ (t.core c).accown = own ∧ (t.core c).matQ = (s.core c).matQ ∧
      (t.core c).copyQ = (s.core c).copyQ ∧
      ∀ j, (t.core c).tile j = if j ∈ s.claimedBy c own.toNat then (s.core c).tile j else .zero) ∧
    (x.sreg = 0x22 → ∃ t, exec (.swr x) s = .next t ∧ only t { k with mmode := (f (k.mmode.setWidth 64)).setWidth 32 }) ∧
    (x.sreg = 0x28 → ∃ t, exec (.swr x) s = .next t ∧ only t { k with tvec := f k.tvec }) ∧
    (x.sreg = 0x2B → ∃ t, exec (.swr x) s = .next t ∧ OnlyBlock s t ∧ { t.here with warps := [] } = { bk with warps := [] } ∧
      (∀ u, u ≠ w → t.here.warp u = bk.warp u) ∧
      t.here.warp w = { bk.warp w with fmask := (f ((bk.warp w).fmask.setWidth 64)).setWidth 32 })


namespace Sys2Proof.Claims

open Sys2Proof Sys2Proof.Machine

/-! ### The rename map and the Pantry -/

/-- The issuing group's threads are all of warp w. -/
structure OneWarp (s : State) (bk : Block) (w : Nat) : Prop where
  issuing : Issuing s bk
  warps : s.warps = [w]

/-- The frame of a map edit: registers, results in flight, memory and all other blocks are as before; the names listed and the
rows listed may differ. -/
def EditFrame (s t : State) (bk : Block) (names : List (Nat × BitVec 8)) (rows : Nat → Prop) : Prop :=
  OnlyBlock s t ∧ BlockKept bk t.here ∧ t.here.pend = bk.pend ∧
  (∀ v n, (v, n) ∉ names → t.here.mapOf v n = bk.mapOf v n) ∧ ∀ q, ¬ rows q → t.here.row q = bk.row q

/-- A row with one reference less. -/
def dropRef (r : Row) : Row := { r with ref := r.ref - 1 }

end Sys2Proof.Claims

/-- R115, R117, R127: RNEW maps its name to the lowest-numbered free row of the name's bank, with one reference and every lane full; with
`.z` every lane is 0; the row the name mapped to loses a reference. -/
def Sys2Proof.Claims.RnewMapsAFreeRow : Prop :=
  ∀ (s : State) (bk : Block) (w r : Nat) (n : BitVec 8) (x : FWord), OneWarp s bk w → x.d = .v n →
    s.freeRow s.iss.core (n.toNat % 4) = some r → bk.mapOf w n ≠ some (.row r) →
    ∃ t, exec (.rnew x) s = .next t ∧
      EditFrame s t bk [(w, n)] (fun q => q = r ∨ bk.mapOf w n = some (.row q)) ∧
      t.here.mapOf w n = some (.row r) ∧ (t.here.row r).ref = 1 ∧ (t.here.row r).empty = 0 ∧
      (x.mod.getLsbD 0 = true → ∀ l, (t.here.row r).val l = 0) ∧
      (x.mod.getLsbD 0 = false → Tbl.get? (s.core s.iss.core).holders r = some s.iss.blk →
        ∀ l, (t.here.row r).val l = (bk.row r).val l) ∧
      (Tbl.get? (s.core s.iss.core).holders r ≠ some s.iss.blk → ∀ l, (t.here.row r).val l = 0) ∧
      ∀ q, bk.mapOf w n = some (.row q) → t.here.row q = dropRef (bk.row q)

/-- R117, R127: RFREE unmaps its name and releases the row. -/
def Sys2Proof.Claims.RfreeUnmaps : Prop :=
  ∀ (s : State) (bk : Block) (w r : Nat) (n : BitVec 8) (x : FWord), OneWarp s bk w → x.a = .v n → bk.mapOf w n = some (.row r) →
    ∃ t, exec (.rfree x) s = .next t ∧ EditFrame s t bk [(w, n)] (· = r) ∧ t.here.mapOf w n = none ∧
      t.here.row r = dropRef (bk.row r)

/-- R127: RMOV, RSWAP and RALIAS move, exchange and share rows between names of a warp; RMOV and RALIAS of a name onto itself change
nothing. (Of two map words of one bundle that name one name: log 107.) -/
def Sys2Proof.Claims.NamesMove : Prop :=
  ∀ (s : State) (bk : Block) (w : Nat) (d n : BitVec 8) (x : FWord), OneWarp s bk w → x.d = .v d → x.a = .v n →
    let old := bk.mapOf w d
    (∀ r, d ≠ n → s.mapped w x.a = some (.row r) →
      (bk.mapOf w n = some (.row r) →
        ∃ t, exec (.rmov x) s = .next t ∧ EditFrame s t bk [(w, d), (w, n)] (fun q => old = some (.row q)) ∧
        t.here.mapOf w d = some (.row r) ∧ t.here.mapOf w n = none ∧ ∀ q, old = some (.row q) → t.here.row q = dropRef (bk.row q)) ∧
      ∃ t, exec (.ralias x) s = .next t ∧ EditFrame s t bk [(w, d)] (fun q => q = r ∨ old = some (.row q)) ∧
        t.here.mapOf w d = some (.row r) ∧
        t.here.row r = (if old = some (.row r) then bk.row r else { bk.row r with ref := (bk.row r).ref + 1 }) ∧
        ∀ q, q ≠ r → old = some (.row q) → t.here.row q = dropRef (bk.row q)) ∧
    (d = n → exec (.rmov x) s = .next s ∧ exec (.ralias x) s = .next s) ∧
    (s.mapped w x.d = bk.mapOf w d → s.mapped w x.a = bk.mapOf w n →
      ∃ t, exec (.rswap x) s = .next t ∧ EditFrame s t bk [(w, d), (w, n)] (fun _ => False) ∧ t.here.mapOf w n = bk.mapOf w d ∧
        t.here.mapOf w d = bk.mapOf w n)

/-- R130: SETE marks lanes of the name's row empty, those of the issuing threads or all; it cancels nothing that is pending. -/
def Sys2Proof.Claims.SeteMarksLanes : Prop :=
  ∀ (s : State) (bk : Block) (w r : Nat) (n : BitVec 8) (x : FWord), OneWarp s bk w → x.a = .v n → s.mapped w x.a = some (.row r) →
    ∃ t, exec (.sete x) s = .next t ∧ EditFrame s t bk [] (· = r) ∧
      t.here.row r = { bk.row r with empty :=
        (bk.row r).empty ||| (if x.mod.getLsbD 0 then 0xFFFFFFFF#32 else maskOf (s.lanesOf w)) }

/-- R124, R128: GIVE sends its row to mailbox m: to the oldest taker, whose fragment is released; else into the empty box; else the giver's
fragment waits, held. Without `.k` the name is unmapped, unless a taker of its own warp takes the row under it; with `.k` the row gains a
reference. No other name changes but the taker's. -/
def Sys2Proof.Claims.GiveSendsTheRow : Prop :=
  ∀ (s : State) (bk : Block) (w r : Nat) (n : BitVec 8) (x : FWord), OneWarp s bk w → x.a = .v n → s.mapped w x.a = some (.row r) →
    bk.mapOf w n = some (.row r) →
    let m := mailboxOf s.snap w (s.lowest w) x
    let box := bk.mailbox m
    ∃ t, exec (.give x) s = .next t ∧ OnlyBlock s t ∧ t.here.win = bk.win ∧ t.here.pend = bk.pend ∧
      (∀ k, k ≠ m → t.here.mailbox k = bk.mailbox k) ∧ (∀ q, q ≠ r → t.here.row q = bk.row q) ∧
      t.here.row r = (if x.mod.getLsbD 6 then { bk.row r with ref := (bk.row r).ref + 1 } else bk.row r) ∧
      (∀ v k, (∀ d2 f2 rest, box.takers ≠ (v, d2, f2) :: rest ∨ k ≠ BitVec.ofNat 8 d2) →
        t.here.mapOf v k = if v = w ∧ k = n ∧ x.mod.getLsbD 6 = false then none else bk.mapOf v k) ∧
      (∀ w2 d2 f2 rest, box.takers = (w2, d2, f2) :: rest → t.here.mailbox m = { box with takers := rest } ∧
        t.here.mapOf w2 (BitVec.ofNat 8 d2) = some (.row r) ∧
        ∀ v l, (t.here.thread v l).holds = if v = w2 ∧ f2.getLsbD l = true then (bk.thread v l).holds.erase (.pantry m) else (bk.thread v l).holds) ∧
      (box.takers = [] → box.box = none → t.here.mailbox m = { box with box := some r } ∧ ∀ v l, t.here.thread v l = bk.thread v l) ∧
      ∀ q, box.takers = [] → box.box = some q →
        t.here.mailbox m = { box with givers := box.givers ++ [(r, w, maskOf (s.lanesOf w))] } ∧
        ∀ l ∈ s.lanesOf w, .pantry m ∈ (t.here.thread w l).holds

/-- R124, R128: TAKE receives the row of a full box, and the oldest waiting giver's row refills it; an empty box leaves the name pending and the
fragment held. The row the name mapped to before is released. -/
def Sys2Proof.Claims.TakeReceivesTheRow : Prop :=
  ∀ (s : State) (bk : Block) (w : Nat) (n : BitVec 8) (x : FWord), OneWarp s bk w → x.d = .v n →
    let m := mailboxOf s.snap w (s.lowest w) x
    let box := bk.mailbox m
    ∃ t, exec (.take x) s = .next t ∧ OnlyBlock s t ∧ t.here.win = bk.win ∧ t.here.pend = bk.pend ∧
      (∀ k, k ≠ m → t.here.mailbox k = bk.mailbox k) ∧
      (∀ v j, (v, j) ≠ (w, n) → t.here.mapOf v j = bk.mapOf v j) ∧
      (∀ q, t.here.row q = if bk.mapOf w n = some (.row q) then dropRef (bk.row q) else bk.row q) ∧
      (∀ r, box.box = some r → box.givers = [] →
        t.here.mapOf w n = some (.row r) ∧ t.here.mailbox m = { box with box := none } ∧ ∀ v l, t.here.thread v l = bk.thread v l) ∧
      (∀ r r2 w2 f2 rest, box.box = some r → box.givers = (r2, w2, f2) :: rest →
        t.here.mapOf w n = some (.row r) ∧ t.here.mailbox m = { box with box := some r2, givers := rest } ∧
        ∀ v l, (t.here.thread v l).holds = if v = w2 ∧ f2.getLsbD l = true then (bk.thread v l).holds.erase (.pantry m) else (bk.thread v l).holds) ∧
      (box.box = none → t.here.mapOf w n = some .pending ∧
        t.here.mailbox m = { box with takers := box.takers ++ [(w, n.toNat, maskOf (s.lanesOf w))] } ∧
        ∀ l ∈ s.lanesOf w, .pantry m ∈ (t.here.thread w l).holds)

namespace Sys2Proof.Claims

open Sys2Proof Sys2Proof.Machine

/-! ### What the integer words compute, in the manual's own arithmetic (R154–R156) -/

/-- The integer a source stands for (R154). -/
def intOf (sg : Bool) (x : Word) : Int := if sg then (x.toNat : Int) else x.toInt

/-- R154's last step: clamped to the format's limits, or taken modulo 2^32. -/
def finish (m : BitVec 11) (e : Int) : Word :=
  if m.getLsbD 1 then
    if m.getLsbD 0 then (if e < 0 then 0#32 else if e ≥ 4294967296 then 0xFFFFFFFF#32 else BitVec.ofInt 32 e)
    else (if e < -2147483648 then 0x80000000#32 else if e ≥ 2147483648 then 0x7FFFFFFF#32 else BitVec.ofInt 32 e)
  else BitVec.ofInt 32 e

/-- The manual's formula of an integer word, from x, y and z. -/
def formula (i : Instr) : Option (Word → Word → Word → Word) :=
  let shl := fun (x y _z : Word) => if y.toNat ≥ 32 then 0#32 else BitVec.ofNat 32 (x.toNat * 2 ^ y.toNat)
  let shr := fun (x y _z : Word) => if y.toNat ≥ 32 then 0#32 else BitVec.ofNat 32 (x.toNat / 2 ^ y.toNat)
  let sar := fun (x y _z : Word) => BitVec.ofInt 32 (x.toInt / 2 ^ min y.toNat 31)
  let rotl := fun (x y _z : Word) =>
    BitVec.ofNat 32 (x.toNat * 2 ^ (y.toNat % 32) + x.toNat / 2 ^ (32 - y.toNat % 32))
  let field := fun (x y : Word) => x.toNat / 2 ^ (y.toNat % 256) % 2 ^ min (y.toNat / 256 % 256) (32 - y.toNat % 256)
  let noField := fun (y : Word) => y.toNat % 256 ≥ 32 ∨ y.toNat / 256 % 256 = 0
  let bfx := fun (sg : Bool) (x y _z : Word) =>
    if noField y then 0#32
    else
      let w := min (y.toNat / 256 % 256) (32 - y.toNat % 256)
      if !sg && decide (2 ^ (w - 1) ≤ field x y) then BitVec.ofInt 32 ((field x y : Int) - 2 ^ w) else BitVec.ofNat 32 (field x y)
  let bfi := fun (x y z : Word) =>
    if noField y then z
    else
      let p := y.toNat % 256
      let w := min (y.toNat / 256 % 256) (32 - p)
      BitVec.ofNat 32 (z.toNat / 2 ^ (p + w) * 2 ^ (p + w) + x.toNat % 2 ^ w * 2 ^ p + z.toNat % 2 ^ p)
  match i with
  | .iadd w => some fun x y _ => finish w.mod (intOf (w.mod.getLsbD 0) x + intOf (w.mod.getLsbD 0) y)
  | .isub w => some fun x y _ => finish w.mod (intOf (w.mod.getLsbD 0) x - intOf (w.mod.getLsbD 0) y)
  | .iaddI _ => some fun x y _ => BitVec.ofInt 32 (x.toInt + y.toInt)
  | .isubI _ => some fun x y _ => BitVec.ofInt 32 (x.toInt - y.toInt)
  | .imul _ => some fun x y _ => BitVec.ofNat 32 (x.toNat * y.toNat)
  | .imulh w => some fun x y _ => BitVec.ofInt 32 (intOf (w.mod.getLsbD 0) x * intOf (w.mod.getLsbD 0) y / 2 ^ 32)
  | .imad _ => some fun x y z => BitVec.ofNat 32 (x.toNat * y.toNat + z.toNat)
  | .imin w => some fun x y _ => if intOf (w.mod.getLsbD 0) x ≤ intOf (w.mod.getLsbD 0) y then x else y
  | .imax w => some fun x y _ => if intOf (w.mod.getLsbD 0) y ≤ intOf (w.mod.getLsbD 0) x then x else y
  | .iabs w => some fun x _ _ =>
      if x.toInt = -2147483648 then (if w.mod.getLsbD 1 then 0x7FFFFFFF#32 else 0x80000000#32)
      else BitVec.ofInt 32 (if x.toInt < 0 then -x.toInt else x.toInt)
  | .shl _ => some shl
  | .shr _ => some shr
  | .sar _ => some sar
  | .rotl _ => some rotl
  | .bfx w => some (bfx (w.mod.getLsbD 0))
  | .bfi _ => some bfi
  | .lea w => some fun x y _ => BitVec.ofNat 32 (x.toNat + y.toNat * 2 ^ (w.mod.toNat % 8))
  | _ => none

end Sys2Proof.Claims

/-- R154–R156: what the arithmetic, shift and bit-field words compute is the manual's formula over integers. -/
def Sys2Proof.Claims.IntegerFormulas : Prop :=
  ∀ (i : Instr) (k : Alu) (f : Word → Word → Word → Word), aluOf i = some k → formula i = some f → ∀ x y z, k.f x y z = f x y z

/-- R155: NOT, POPC, CLZ and BREV bit by bit, and the three logic words. -/
def Sys2Proof.Claims.BitFormulas : Prop :=
  ∀ x y z : Word, (∀ i < 32, (brevE x y z).getLsbD i = x.getLsbD (31 - i)) ∧ (∀ i < 32, (notE x y z).getLsbD i = !x.getLsbD i) ∧
    (∀ i < 32, (andE x y z).getLsbD i = (x.getLsbD i && y.getLsbD i)) ∧ (∀ i < 32, (orE x y z).getLsbD i = (x.getLsbD i || y.getLsbD i)) ∧
    (∀ i < 32, (xorE x y z).getLsbD i = (x.getLsbD i != y.getLsbD i)) ∧
    (x.toNat < 2 ^ (32 - (clzE x y z).toNat)) ∧ (x ≠ 0 → 2 ^ (31 - (clzE x y z).toNat) ≤ x.toNat) ∧
    (popcE x y z).toNat = ((List.range 32).map fun i => x.toNat / 2 ^ i % 2).foldl (· + ·) 0

namespace Sys2Proof.Claims

open Sys2Proof Sys2Proof.Machine

/-! ### Words that act through the memory engine and the master distributor -/

/-- The registers, the use of the last-result register, and the accesses of a word that joins its block's operations (R106, R208, R291). -/
def joinOf (s : State) (i : Instr) : Option (List Reg × Bool × List Access) :=
  let task := fun (d : Reg) (as : List Access) (quiet : Bool) => some (if d.isScalar then [d] else d.group 1, !(d == .z) || quiet, as)
  match i with
  | .ldg w => some (if w.d.isScalar then [w.d] else w.d.group w.regs, true, s.loadAccesses w)
  | .stg w => some ([], false, s.storeAccesses w)
  | .pref w => some ([], false, s.loadAccesses w)
  | .amo w => some (w.d.group 1, true, s.atomicAccesses w)
  | .amos w => some ([], false, s.atomicAccesses w)
  | .acas w => some (w.d.group 1, true, s.atomicAccesses w)
  | .rctr w => some (w.d.group 1, true, s.counterAccesses w)
  | .rsnap w => some (w.d.group 1, true, s.counterAccesses w)
  | .cflsh w => if w.kind.getLsbD 2 then none else some ([], false, s.loadAccesses w)
  | .spawn w => task w.d (s.iss.grp.map fun p => s.accessOf p.1 p.2 (globalAddr (s.addr p.1 p.2 w.a) 0 w.imm) [] 0) true
  | .tnext w => task w.d (s.taskAccesses w.d fun v l => s.accessOf v l 0 [] 0) false
  | .ftnew w => task w.d (s.taskAccesses w.d fun v l => s.accessOf v l 0 (toBytes 8 (s.val v l (.reg w.b)).toNat) 0) false
  | .ftful w => task w.d (s.iss.grp.map fun p => s.handleAccess w (fun v l => if w.b.isScalar then toBytes 8 (s.val64 v l w.b).toNat
      else toBytes 8 (s.val v l (.reg w.b)).toNat) p.1 p.2) false
  | .ftget w => task w.d (s.taskAccesses w.d (s.handleAccess w fun _ _ => [])) false
  | .ftwait w => task w.d (s.taskAccesses w.d (s.handleAccess w fun _ _ => [])) true
  | .ftdrop w => task w.d (s.iss.grp.map fun p => s.handleAccess w (fun _ _ => []) p.1 p.2) false
  | _ => none

/-- An operation has joined: it stands last among its block's operations with its accesses untranslated, memory is untouched, and a result
without a value is in flight for every access and register. -/
def Joined (s t : State) (bk : Block) (i : Instr) (regs : List Reg) (as : List Access) : Prop :=
  OnlyBlock s t ∧ (∃ o, t.here.ops = bk.ops ++ [o] ∧ o.id = s.seq ∧ o.i = i ∧ o.pc = s.iss.addr ∧ o.issued = s.cyc ∧ o.todo = as ∧
    o.held = [] ∧ o.parked = [] ∧ o.arrive = none) ∧ t.here.win = bk.win ∧
  (scalarResult i = false → ∀ a ∈ as, ∀ r ∈ regs, ∃ e ∈ t.here.pend, e.op = s.seq ∧ e.due = none ∧
    e.tgt = (s.openAll (warpsOf (as.map fun a => (a.w, a.lane))) regs).target a.w a.lane r) ∧
  (scalarResult i = true → ∀ a ∈ as, ∃ e ∈ t.here.pend, e.op = s.seq ∧ e.due = none ∧
    e.tgt = s.target a.w (s.lowest a.w) (regs.headD .z))

end Sys2Proof.Claims

namespace Sys2Proof.Claims

open Sys2Proof Sys2Proof.Machine

/-! ### Local memory -/

/-- The k-th 32-bit word of a list of bytes, least significant byte first. -/
def wordAt (bs : List Byte) (k : Nat) : Word := BitVec.ofNat 32 (ofBytes ((bs.drop (4 * k)).take 4))

/-- A thread that issues now has an earlier memory word that awaits its step. -/
def Lag (s : State) (bk : Block) : Prop := ∃ p ∈ s.iss.grp, bk.untranslated p.1 p.2 = true

/-- A byte of a window after bytes are written from an offset. -/
def overlaid (bk : Block) (off : Nat) (bs : List Byte) (a : Nat) : Byte :=
  if off ≤ a ∧ a < off + bs.length then bs.getD (a - off) 0 else bk.winByte a

end Sys2Proof.Claims

/-- R97, R198, R207–R209: LDL and LDK put the bytes at each thread's offset in flight to its registers, word by word, and change no byte. R19, R21:
beside an earlier word of its bundle that awaits a step, or that has emptied its line, LDL joins its block's operations instead (log 22,
DEDUCED). -/
def Sys2Proof.Claims.LocalLoads : Prop :=
  ∀ (s : State) (bk : Block) (x : MWord), Issuing s bk → x.d.isScalar = false →
    let regs := x.d.group x.regs
    let now := ¬ Lag s bk ∧ ∀ p ∈ s.iss.grp, bk.lineEmpty (s.localOff x p.1 p.2) = false
    (¬ now → ∃ t, exec (.ldl x) s = .next t ∧ Joined s t bk (.ldl x) regs (s.iss.grp.map fun p => s.accessOf p.1 p.2 (s.localOff x p.1 p.2) [] 0)) ∧
    (now → ∃ t, exec (.ldl x) s = .next t ∧ OnlyBlock s t ∧ BlockKept bk t.here ∧ ∀ p ∈ s.iss.grp, ∀ k r, regs[k]? = some r →
      Flies s t ((s.openAll s.warps regs).target p.1 p.2 r) ((wordAt (bk.winRead (s.localOff x p.1 p.2) x.bytes) k).setWidth 64)
        (localLat (s.iss.grp.map fun q => s.localOff x q.1 q.2) x.bytes)) ∧
    (now → x.d = .z → ∃ t, exec (.ldl x) s = .next t ∧ OnlyBlock s t ∧ BlockKept bk t.here ∧ ∀ p ∈ s.iss.grp,
      FliesLast s t .none ((wordAt (bk.winRead (s.localOff x p.1 p.2) x.bytes) 0).setWidth 64)
        (localLat (s.iss.grp.map fun q => s.localOff x q.1 q.2) x.bytes) p.1 p.2) ∧
    (x.d = .z → ∃ t, exec (.ldk x) s = .next t ∧ OnlyBlock s t ∧ BlockKept bk t.here ∧ ∀ p ∈ s.iss.grp,
      FliesLast s t .none ((wordAt ((List.range x.bytes).map fun i => s.snap.lpb.bytes.getD (s.plainOff x p.1 p.2 + i) 0) 0).setWidth 64)
        (localLat (s.iss.grp.map fun q => s.plainOff x q.1 q.2) x.bytes) p.1 p.2) ∧
    ∃ t, exec (.ldk x) s = .next t ∧ OnlyBlock s t ∧ BlockKept bk t.here ∧ ∀ p ∈ s.iss.grp, ∀ k r, regs[k]? = some r →
      Flies s t ((s.openAll s.warps regs).target p.1 p.2 r)
        ((wordAt ((List.range x.bytes).map fun i => s.snap.lpb.bytes.getD (s.plainOff x p.1 p.2 + i) 0) k).setWidth 64)
        (localLat (s.iss.grp.map fun q => s.plainOff x q.1 q.2) x.bytes)

/-- R98, R207, R209: LDK of a scalar register puts one value for each warp in flight, with latency 8. -/
def Sys2Proof.Claims.LocalLoadsOfScalars : Prop :=
  ∀ (s : State) (bk : Block) (x : MWord) (n : BitVec 6), Issuing s bk → x.d = .s n →
    ∃ t, exec (.ldk x) s = .next t ∧ OnlyBlock s t ∧ ∀ w ∈ s.warps, Flies s t (.scalar w n.toNat)
      (BitVec.ofNat 64 (ofBytes ((List.range x.bytes).map fun i => s.snap.lpb.bytes.getD (s.plainOff x w (s.lowest w) + i) 0))) 8

/-- R198, R209: STL writes the data group's bytes at its offset, and no other byte of the window; a thread whose guard is false writes
nothing. R19: beside an earlier word of its bundle that awaits a step it joins its block's operations instead (log 22, DEDUCED). -/
def Sys2Proof.Claims.LocalStores : Prop :=
  ∀ (s : State) (bk : Block) (w l : Nat) (x : MWord), Alone s bk w l →
    (Lag s bk → s.guard w l x.g x.gn = true → ∃ t, exec (.stl x) s = .next t ∧
      Joined s t bk (.stl x) [] [s.accessOf w l (s.plainOff x w l) (s.dataOf w l x.b x.bytes) 0]) ∧
    (¬ Lag s bk ∨ s.guard w l x.g x.gn = false → ∃ t, exec (.stl x) s = .next t ∧ OnlyBlock s t ∧ { t.here with win := [] } = { bk with win := [] } ∧
      ∀ a, t.here.winByte a = if s.guard w l x.g x.gn then overlaid bk (s.plainOff x w l) (s.dataOf w l x.b x.bytes) a else bk.winByte a)

/-- R213, R214: AMOL reads the word at its offset, writes the operation's new value there and nowhere else, and puts the old value in
flight. R19, R21: beside an earlier word of its bundle that awaits a step, or that has emptied its line, it joins its block's operations
instead (log 22, DEDUCED). -/
def Sys2Proof.Claims.LocalAtomics : Prop :=
  ∀ (s : State) (bk : Block) (w l : Nat) (x : MWord) (d : Reg), Alone s bk w l → s.guard w l x.g x.gn = true → x.d.group 1 = [d] →
    let off := s.plainOff x w l
    let old := wordAt (bk.winRead off 4) 0
    (Lag s bk ∨ bk.lineEmpty off = true → ∃ t, exec (.amol x) s = .next t ∧
      Joined s t bk (.amol x) [d] [s.accessOf w l off (toBytes 4 (s.val w l (.reg x.b)).toNat) 0]) ∧
    (¬ Lag s bk → bk.lineEmpty off = false → ∃ t, exec (.amol x) s = .next t ∧ OnlyBlock s t ∧
      (∀ a, t.here.winByte a = overlaid bk off (toBytes 4 (atomicOp x.kind.toNat old (s.val w l (.reg x.b))).toNat) a) ∧
      FliesLast s t ((s.openAll (warpsOf [(w, l)]) [d]).target w l d) (old.setWidth 64) 8 w l)

/-- R213, R214: AMOL with `$z` writes the window alike, and its old value is in flight to the last-result register alone; a thread whose guard
is false does nothing. -/
def Sys2Proof.Claims.LocalAtomicsOfZ : Prop :=
  ∀ (s : State) (bk : Block) (w l : Nat) (x : MWord), Alone s bk w l →
    let off := s.plainOff x w l
    let old := wordAt (bk.winRead off 4) 0
    (s.guard w l x.g x.gn = false → exec (.amol x) s = .next s) ∧
    (s.guard w l x.g x.gn = true → ¬ Lag s bk → bk.lineEmpty off = false → x.d = .z → ∃ t, exec (.amol x) s = .next t ∧ OnlyBlock s t ∧ RowsKept bk t.here ∧
      (∀ a, t.here.winByte a = overlaid bk off (toBytes 4 (atomicOp x.kind.toNat old (s.val w l (.reg x.b))).toNat) a) ∧
      FliesLast s t .none (old.setWidth 64) 8 w l)

namespace Sys2Proof.Claims

open Sys2Proof Sys2Proof.Machine

/-- R19, R21, R97, R209, R213, R214: a local word that joined its block's operations for one thread takes its one step by its event: STL writes
its bytes; AMOL and LDL wait for their line to be full, then AMOL writes the new value, and the old or the loaded word lands 8 core cycles on.
No other byte changes. -/
def LocalWordsActLater : Prop :=
  ∀ (s : State) (b c : Nat) (bk : Block) (o : MemOp) (a : Access), s.block? b = some bk → bk.core? = some c → bk.ops = [o] → o.todo = [a] →
    o.held = [] → o.parked = [] →
    let run := exec (.translation (.mem b o.id)) s
    let did := fun (bs : List Byte) (pend : List Pending) => ∃ t y, run = .next t ∧ t.ms = s.ms ∧ t.cores = s.cores ∧ t.block? b = some y ∧
      y.ops = [] ∧ y.pend = pend ∧ (∀ k, y.winByte k = overlaid bk a.addr bs k) ∧ ∀ v l, (y.thread v l).pc = (bk.thread v l).pc
    let flight := fun (p : Pending) (v : Word) => [{ p with val := v.setWidth 64, due := some (s.coreNow c + 8) }]
    (∀ x, o.i = .stl x → (∀ p ∈ bk.pend, p.op ≠ o.id) → did a.data bk.pend) ∧
    (∀ x p, o.i = .amol x → bk.pend = [p] → p.op = o.id → p.due = none → p.forThread a.w a.lane = true →
      let old := wordAt (bk.winRead a.addr 4) 0
      (bk.lineEmpty a.addr = true → ∃ t, run = .next t ∧ t.block? b = some bk) ∧
      (bk.lineEmpty a.addr = false → did (toBytes 4 (atomicOp x.kind.toNat old (BitVec.ofNat 32 (ofBytes a.data))).toNat) (flight p old))) ∧
    ∀ x p, o.i = .ldl x → 0 < x.bytes → x.bytes ≤ 4 → bk.pend = [p] → p.op = o.id → p.due = none → p.forThread a.w a.lane = true →
      (bk.lineEmpty a.addr = true → ∃ t, run = .next t ∧ t.block? b = some bk) ∧
      (bk.lineEmpty a.addr = false → did [] (flight p (wordAt (bk.winRead a.addr x.bytes) 0)))

end Sys2Proof.Claims

/-- R213: what the operations of the atomics compute, and the kinds that are none of them. -/
def Obligations.AtomicOperations : Prop :=
  ∀ v y : Word, atomicOp 0 v y = BitVec.ofNat 32 (v.toNat + y.toNat) ∧ (atomicOp 1 v y).toInt = min v.toInt y.toInt ∧
    (atomicOp 2 v y).toInt = max v.toInt y.toInt ∧ (atomicOp 3 v y).toNat = min v.toNat y.toNat ∧
    (atomicOp 4 v y).toNat = max v.toNat y.toNat ∧ atomicOp 5 v y = (v &&& y) ∧ atomicOp 6 v y = (v ||| y) ∧
    atomicOp 7 v y = (v ^^^ y) ∧ atomicOp 8 v y = y ∧ atomicOp 9 v y = faddE 0 v y 0 ∧
    ∀ w : MWord, 10 ≤ w.kind.toNat → (Instr.amo w).wf = false ∧ (Instr.amol w).wf = false ∧ (Instr.amos w).wf = false

/-- R106, R204, R208, R291: a word of the memory engine or of the master distributor joins its block's operations. It performs at once where its translations are at hand and nothing older of its threads waits, else by its
event (log 58, DESIGN CHOICE). -/
def Sys2Proof.Claims.OperationsJoin : Prop :=
  ∀ (s : State) (bk : Block) (i : Instr) (regs : List Reg) (last : Bool) (as : List Access), joinOf s i = some (regs, last, as) →
    Issuing s bk → as ≠ [] → (∀ o ∈ bk.ops, o.id ≠ s.seq) →
    ∃ t, Joined s t bk i regs as ∧
      exec i s = .next (if t.atOnce i s.seq as then t.perform s.iss.blk s.seq else t)

/-- R209, R43: a word of the memory engine whose threads all have a false guard, or that has no thread, does nothing. -/
def Sys2Proof.Claims.NoAccessNoEffect : Prop :=
  ∀ (s : State) (i : Instr) (regs : List Reg) (last : Bool), joinOf s i = some (regs, last, []) → s.iss.checked = true →
    exec i s = .next s

namespace Sys2Proof.Claims

open Sys2Proof Sys2Proof.Machine

/-- The least hold of PHASE on core c's path (R355): 600 where a byte that it publishes at `.sys` is homed on another device. -/
def phaseHold (s : State) (c sc : Nat) : Nat :=
  let away := (List.range 3).any fun lv => (unpublished (s.ms.view c lv) fun _ => true).any fun a => decide (a / 2 ^ 44 ≠ s.dev)
  match sc with
  | 0 => 0
  | 1 => 8
  | 2 => 32
  | _ => if away then 600 else 32

/-- The lines that the views on core c's path hold, view by view (R355). -/
def linesOn (s : State) (c : Nat) : Nat :=
  let held := fun (lv : Nat) => (((s.ms.view c lv).map fun x => x.1 / 128).dedup).length
  held 0 + held 1 + held 2

/-- A word without result that has joined its block's operations, one access for each thread of the group, each held for it; nothing else has
changed. -/
def Waiting (s t : State) (bk : Block) (i : Instr) : Prop :=
  OnlyBlock s t ∧ (∃ o, t.here.ops = bk.ops ++ [o] ∧ o.id = s.seq ∧ o.i = i ∧ o.held = [] ∧ o.parked = [] ∧
    o.todo.map (fun a => (a.w, a.lane)) = s.iss.grp) ∧ t.here.win = bk.win ∧ t.here.pend = bk.pend ∧ RowsKept bk t.here ∧
  ∀ p ∈ s.iss.grp, .scalar s.seq ∈ (t.here.thread p.1 p.2).holds

end Sys2Proof.Claims

/-- R22, R210, R355: PHASE publishes and refreshes the issuing core's path to its scope, and holds its threads for the least time from then on; R19:
beside an earlier word of its bundle that awaits a step it waits first (log 22, DEDUCED). That it holds them for exactly that least
time is the model's choice (log 56, DEDUCED). -/
def Sys2Proof.Claims.PhasePublishesAndRefreshes : Prop :=
  ∀ (s : State) (bk : Block) (x : MWord), Issuing s bk → s.iss.grp ≠ [] →
    let sc := MWord.scope x
    (Lag s bk → ∃ t, exec (.phase x) s = .next t ∧ Waiting s t bk (.phase x)) ∧
    (¬ Lag s bk → ∃ t, exec (.phase x) s = .next t ∧ t.ms = (s.ms.publish s.dev s.iss.core sc).refresh s.iss.core sc ∧ t.cyc = s.cyc ∧ t.ctxs = s.ctxs ∧
      t.cp = s.cp ∧ t.cores = s.cores ∧ (∀ b, b ≠ s.iss.blk → t.block? b = s.block? b) ∧ RowsKept bk t.here ∧ t.here.pend = bk.pend ∧
      (0 < sc → ∀ p ∈ s.iss.grp, .until (s.cyc + phaseHold s s.iss.core sc) ∈ (t.here.thread p.1 p.2).holds))

namespace Sys2Proof.Claims

open Sys2Proof Sys2Proof.Machine

/-- R19, R22, R210, R217, R218, R355: PHASE, CFLSH `.all` and TLBI that waited take their one step by their event, with the same effect, and their
threads are held for the least time from then on. -/
def OrderingWordsActLater : Prop :=
  ∀ (s : State) (b c : Nat) (bk : Block) (o : MemOp), s.block? b = some bk → bk.core? = some c → bk.ops = [o] → o.todo ≠ [] →
    o.held = [] → o.parked = [] → (∀ p ∈ bk.pend, p.op ≠ o.id) → (∀ v l, Hold.ftwait o.id ∉ (bk.thread v l).holds) →
    let run := exec (.translation (.mem b o.id)) s
    let did := fun (t : State) (n : Nat) => t.cores = s.cores ∧ t.cp = s.cp ∧ t.cyc = s.cyc ∧ (∀ k, k ≠ b → t.block? k = s.block? k) ∧
      ∃ y, t.block? b = some y ∧ y.ops = [] ∧ y.win = bk.win ∧ y.pend = bk.pend ∧ ∀ v l, .scalar o.id ∈ (bk.thread v l).holds → 0 < n →
        .until (s.cyc + n) ∈ (y.thread v l).holds
    (∀ x, o.i = .phase x → let sc := MWord.scope x
      ∃ t, run = .next t ∧ t.ms = (s.ms.publish s.dev c sc).refresh c sc ∧ t.ctxs = s.ctxs ∧ did t (phaseHold s c sc)) ∧
    (∀ x, o.i = .cflsh x → x.kind.getLsbD 2 = true → let sc := MWord.scope x
      ∃ t, run = .next t ∧ t.ms.truth = (s.ms.publish s.dev c sc).truth ∧ did t (phaseHold s c sc + linesOn s c)) ∧
    ∀ x, o.i = .tlbi x → ∃ t, run = .next t ∧ t.ms.truth = s.ms.truth ∧ t.ms.v = s.ms.v ∧ t.ms.g = s.ms.g ∧ t.ms.d = s.ms.d ∧
      t.ctxs = s.ctxs ∧ did t 64

end Sys2Proof.Claims

/-- R17, R22: after a publication to level s no byte below it is unpublished, and after the refresh that follows the levels below hold no byte. A
byte that stood unpublished below s has arrived, with the value of the lowest level that held it so: at level s, or in the truth where that lies at
s or below. -/
def Sys2Proof.Claims.PublicationReachesItsLevel : Prop :=
  ∀ (m : MemSys) (dev c sc lv : Nat), lv < sc → lv < 3 → (∀ k < 3, Tbl.risingFrom none (m.view c k) = true) →
    unpublished ((m.publish dev c sc).view c lv) (fun _ => true) = [] ∧ ((m.publish dev c sc).refresh c sc).view c lv = [] ∧
    ∀ pa b, sc ≤ 3 → lv < truthLevel dev pa → Tbl.get? (m.view c lv) pa = some b → b.unpub = true →
      (∀ k < lv, ∀ y, Tbl.get? (m.view c k) pa = some y → y.unpub = false) →
      (truthLevel dev pa ≤ sc → Memory.read (m.publish dev c sc).truth pa = b.val) ∧
      (sc < truthLevel dev pa → ∃ y, Tbl.get? ((m.publish dev c sc).view c sc) pa = some y ∧ y.val = b.val)

/-- R211: FENCEL completes for every group: a thread no earlier request of whose warp is in a queue, or unstarted there, goes on at once,
and any other is held for those requests. -/
def Sys2Proof.Claims.FencelHolds : Prop :=
  ∀ (s : State) (bk : Block) (x : MWord), Issuing s bk → s.iss.grp.Nodup →
    let rs := fun (w : Nat) => s.fenceReqs s.iss.blk w s.iss.core (x.kind.getLsbD 0)
    ((∀ p ∈ s.iss.grp, rs p.1 = []) → exec (.fencel x) s = .next s) ∧
    ∃ t, exec (.fencel x) s = .next t ∧ OnlyBlock s t ∧ OnlyThreads bk t.here s.iss.grp ∧ ∀ p ∈ s.iss.grp,
      t.here.thread p.1 p.2 = if rs p.1 = [] then bk.thread p.1 p.2
        else { bk.thread p.1 p.2 with holds := (bk.thread p.1 p.2).holds ++ [.fencel (x.kind.getLsbD 0) (rs p.1)] }

/-- R211: the requests FENCEL waits for are those of the warp in its core's two queues; without `.done` only the unstarted ones. Requests that
came with the block and have no room in the queue yet count with them (log 141, the model's choice). -/
def Sys2Proof.Claims.FencelWaitsForRequests : Prop :=
  ∀ (s : State) (b w c q : Nat) (done : Bool), q ∈ s.fenceReqs b w c done ↔
    (∃ r, (r ∈ (s.core c).copyQ ∧ r.b = b ∨ ∃ bk, s.block? b = some bk ∧ r ∈ bk.carried) ∧ r.id = q ∧ r.w = w ∧
      (done = false → r.state ≠ .started)) ∨
    ∃ r ∈ (s.core c).matQ, r.id = q ∧ r.b = b ∧ r.w = w ∧ (done = false → r.start = none)

/-- R217, R355: CFLSH with `.all` completes, where no earlier word of its bundle awaits a step, and else waits first (R19; log 22, DEDUCED): of the views on the core's path below its scope nothing is left, their unpublished bytes gone to
the level of the scope; memory is what the publication leaves, and the threads are held for PHASE's least time and 1 for each line held; at scope
`.sys` the instruction caches are empty too. -/
def Sys2Proof.Claims.FlushesCompletely : Prop :=
  ∀ (s : State) (bk : Block) (x : MWord), Issuing s bk → s.iss.grp ≠ [] → x.kind.getLsbD 2 = true →
    let sc := MWord.scope x
    let c := s.iss.core
    let n := phaseHold s c sc + linesOn s c
    (Lag s bk → ∃ t, exec (.cflsh x) s = .next t ∧ Waiting s t bk (.cflsh x)) ∧
    (¬ Lag s bk → ∃ t, exec (.cflsh x) s = .next t ∧ t.ms.truth = (s.ms.publish s.dev c sc).truth ∧ t.cyc = s.cyc ∧ t.cp = s.cp ∧ t.cores = s.cores ∧
      (sc ≠ 3 → t.ctxs = s.ctxs) ∧ RowsKept bk t.here ∧ t.here.win = bk.win ∧ t.here.pend = bk.pend ∧
      (∀ lv, lv < sc → lv < 3 → (∀ k < 3, Tbl.risingFrom none (s.ms.view c k) = true) → t.ms.view c lv = []) ∧
      (0 < n → ∀ p ∈ s.iss.grp, .until (s.cyc + n) ∈ (t.here.thread p.1 p.2).holds) ∧
      (sc = 3 → t.ms.icache = []))

/-- R218, R355: TLBI completes for every group: no translation that it covers is left in any core's TLB, of an address and the context, of a context,
or any at all; every other stays; memory and the views are as before, and the threads are held for 64 chip cycles. Beside an earlier word of its
bundle that awaits a step it waits first (R19; log 22, DEDUCED). That no address is out of its range is the model's reading (log 126, DEDUCED). -/
def Sys2Proof.Claims.TranslationsAreDropped : Prop :=
  ∀ (s : State) (bk : Block) (x : MWord), Issuing s bk → s.iss.grp ≠ [] →
    let covered := fun (e : TlbEnt) => match MWord.scope x with
      | 2 => True
      | 1 => ∃ w ∈ s.warps, e.ctx = if x.b = .z then s.snap.ctx else (s.val64 w (s.lowest w) x.b).toNat % 2 ^ 32
      | _ => ∃ p ∈ s.iss.grp, e.ctx = s.snap.ctx ∧ globalAddr (s.addr p.1 p.2 x.a) 0 x.imm / 2 ^ e.bits = e.va / 2 ^ e.bits
    (Lag s bk → ∃ t, exec (.tlbi x) s = .next t ∧ Waiting s t bk (.tlbi x)) ∧
    (¬ Lag s bk → ∃ t, exec (.tlbi x) s = .next t ∧ t.ms.truth = s.ms.truth ∧ t.ms.v = s.ms.v ∧ t.ms.g = s.ms.g ∧ t.ms.d = s.ms.d ∧
      t.ms.icache = s.ms.icache ∧ t.ms.staged = s.ms.staged ∧ t.cyc = s.cyc ∧ t.ctxs = s.ctxs ∧ t.cp = s.cp ∧ t.cores = s.cores ∧
      (∀ b, b ≠ s.iss.blk → t.block? b = s.block? b) ∧ OnlyThreads bk t.here s.iss.grp ∧
      (∀ c e, e ∈ Tbl.getD t.ms.tlb c [] ↔ e ∈ Tbl.getD s.ms.tlb c [] ∧ ¬ covered e) ∧
      ∀ p ∈ s.iss.grp, .until (s.cyc + 64) ∈ (t.here.thread p.1 p.2).holds)

/-- R292: BAR and BARA arrive, where no earlier memory word of the warp awaits its step: BAR holds its thread in the generation's barrier; the
first arrival fixes the count; the last one releases every thread held there and begins the next generation. That an arrival waits for such a word is the
model's reading (log 131, DEDUCED). -/
def Sys2Proof.Claims.BarriersArrive : Prop :=
  ∀ (s : State) (bk : Block) (w l : Nat) (x : MWord), Alone s bk w l → bk.untranslated w l = false →
    let id := barId x
    let b := bk.barrier id
    let count := if b.arrived = 0 then (if x.b = .z then none else some (s.val w l (.reg x.b)).toNat) else b.expect
    let last : Bool := match count with
      | some k => decide (k ≤ b.arrived + 1)
      | none => decide (bk.live.length ≤ b.arrived + 1)
    let after : Barrier := if last then { gen := b.gen + 1, arrived := 0, expect := none } else { gen := b.gen, arrived := b.arrived + 1, expect := count }
    (∃ t, exec (.bar x) s = .next t ∧ OnlyBlock s t ∧ t.here.win = bk.win ∧ t.here.pend = bk.pend ∧ t.here.barrier id = after ∧
      (last = false → OthersKept bk t.here [(w, l)] ∧
        t.here.thread w l = { bk.thread w l with holds := (bk.thread w l).holds ++ [.bar id b.gen] }) ∧
      (last = true → ∀ v m, (t.here.thread v m).holds = (bk.thread v m).holds.filter fun h => !h.onBarrier id)) ∧
    (∃ t, exec (.bara x) s = .next t ∧ OnlyBlock s t ∧ t.here.win = bk.win ∧ t.here.barrier id = after ∧
      (∀ n, x.d = .s n → Flies s t (.scalar w n.toNat) (b.gen.setWidth 64) 1) ∧ FliesLast s t .none (b.gen.setWidth 64) 1 w l ∧
      (last = false → ∀ v m, t.here.thread v m = bk.thread v m) ∧
      (last = true → ∀ v m, (t.here.thread v m).holds = (bk.thread v m).holds.filter fun h => !h.onBarrier id))

/-- R292: a thread that arrives while an earlier memory word of its own awaits its step arrives with an operation of its own, after it, and is
held until then, with BARA too: the model's reading (log 131, DEDUCED). -/
def Sys2Proof.Claims.BarriersWaitForMemory : Prop :=
  ∀ (s : State) (bk : Block) (w l : Nat) (x : MWord), Alone s bk w l → bk.untranslated w l = true →
    let n := if x.b = .z then 0 else (s.val w l (.reg x.b)).toNat
    let joined := fun (t : State) (i : Instr) => OnlyBlock s t ∧ t.here.bars = bk.bars ∧ t.here.win = bk.win ∧
      .scalar s.seq ∈ (t.here.thread w l).holds ∧ ∃ o, t.here.ops = bk.ops ++ [o] ∧ o.id = s.seq ∧ o.i = i ∧ o.held = [] ∧ o.parked = [] ∧
        o.todo = [s.accessOf w l 0 (toBytes 4 n) 0]
    (∃ t, exec (.bar x) s = .next t ∧ joined t (.bar x)) ∧ ∃ t, exec (.bara x) s = .next t ∧ joined t (.bara x)

/-- R292: BARW holds its thread while the barrier is still in the generation it names. -/
def Sys2Proof.Claims.BarwWaits : Prop :=
  ∀ (s : State) (bk : Block) (w l : Nat) (x : MWord), Alone s bk w l →
    let g := (bk.barrier (barId x)).gen
    (s.val w l (.reg x.a) ≠ g → exec (.barw x) s = .next s) ∧
    (s.val w l (.reg x.a) = g → ∃ t, exec (.barw x) s = .next t ∧ OnlyBlock s t ∧ OnlyThreads bk t.here [(w, l)] ∧
      t.here.thread w l = { bk.thread w l with holds := (bk.thread w l).holds ++ [.bar (barId x) g] })

/-- R299: RESAMP parks every issuing thread with its weight and its u, held until the population's collective. -/
def Sys2Proof.Claims.ResampArrives : Prop :=
  ∀ (s : State) (bk : Block) (x : MWord), Issuing s bk → s.iss.grp ≠ [] →
    ∃ t, exec (.resamp x) s = .next t ∧ OnlyBlock s t ∧ (∀ p ∈ s.iss.grp, .resamp s.seq ∈ (t.here.thread p.1 p.2).holds) ∧
      ∃ o, t.here.ops = bk.ops ++ [o] ∧ o.id = s.seq ∧ o.i = .resamp x ∧ o.todo = [] ∧ o.parked = s.iss.grp.map fun p =>
        s.accessOf p.1 p.2 0 (toBytes 4 (s.val p.1 p.2 (.reg x.a)).toNat) (s.val p.1 p.2 (.reg x.b))

/-- R19, R90: only the oldest untranslated access of a
thread may translate. -/
def Sys2Proof.Claims.TranslationsKeepProgramOrder : Prop :=
  ∀ (s : State) (b q : Nat) (bk : Block), s.block? b = some bk → bk.inLine q = false →
    exec (.translation (.mem b q)) s = .next s

namespace Sys2Proof.Claims

open Sys2Proof Sys2Proof.Machine

/-! ### Copy requests, byte barriers and the matrix engine -/

/-- The destination register of a word that makes a copy request. -/
def copyDest (i : Instr) : Option Reg :=
  match i with
  | .cpyl w => some w.d | .bcpy w => some w.d | .bcpym w => some w.d | .bcpyg w => some w.d | .bcpya w => some w.d
  | .bcpyq w => some w.d
  | _ => none

/-- The box operation of a box word, with its promise, zero-fill and output choices (R239–R243). -/
def boxOf (i : Instr) : Option (BoxOp × MWord × Bool × Nat) :=
  match i with
  | .bcpy w => some (if (w.kind &&& 3#4) = 0 then .ld else if (w.kind &&& 3#4) = 1 then .st else .bb, w, w.kind.getLsbD 2, 0)
  | .bcpym w => some (.mcast, w, w.kind.getLsbD 2, 0)
  | .bcpyg w => some (.gather, w, w.kind.getLsbD 2, 0)
  | .bcpya w => some (.accum, w, w.kind.getLsbD 2, 0)
  | .bcpyq w => some (.quant, w, w.kind.getLsbD 2, if w.kind.getLsbD 0 then 3 else 9)
  | _ => none

/-- A thread of warp w that issues now has an earlier memory word that awaits translation. -/
def Lags (s : State) (bk : Block) (w : Nat) : Prop := ∃ l ∈ s.lanesOf w, bk.untranslated w l = true

/-- A local access of warp w has joined its block's operations, for each issuing lane at the offset and with the number given. -/
def LocalJoins (s t : State) (bk : Block) (w : Nat) (i : Instr) (off n : Nat) : Prop :=
  ∃ o, t.here.ops = bk.ops ++ [o] ∧ o.id = s.seq ∧ o.i = i ∧ o.held = [] ∧ o.parked = [] ∧
    o.todo = (s.lanesOf w).map fun l => s.accessOf w l off (toBytes 4 n) 0

/-- Every block's windows and rows are as before. -/
def WindowsKept (s t : State) : Prop :=
  ∀ b, (t.block? b).map (·.win) = (s.block? b).map (·.win) ∧ (t.block? b).map (·.rows) = (s.block? b).map (·.rows)

end Sys2Proof.Claims

/-- R222, R224, R232: a copy word's request joins the end of its core's queue, the window lines it writes are empty in every window
from then on, its promise is in flight to its destination, and no byte has moved; for CPYL, where no live lane fails its checks (R238). -/
def Sys2Proof.Claims.CopyRequestsJoin : Prop :=
  ∀ (s : State) (bk : Block) (w : Nat) (i : Instr) (d : Reg), copyDest i = some d → OneWarp s bk w → (∀ x, i = .cpyl x → s.cpylRefused x w = false) →
    ∃ t r, exec i s = .next t ∧ MemoryKept s t ∧ WindowsKept s t ∧ t.cyc = s.cyc ∧ t.ctxs = s.ctxs ∧ t.cp = s.cp ∧ t.mp = s.mp ∧
      (t.core s.iss.core).copyQ = (s.core s.iss.core).copyQ ++ [r] ∧ (∀ c, c ≠ s.iss.core → t.core c = s.core c) ∧
      r.id = s.seq ∧ r.b = s.iss.blk ∧ r.w = w ∧ r.lanes = maskOf (s.lanesOf w) ∧ r.pc = s.iss.addr ∧ r.issued = s.cyc ∧
      r.promise = r.deadline ∧ r.state ≠ .started ∧
      (∀ n, d = .s n → Flies s t (.scalar w n.toNat) (promiseWord r.promise) 1) ∧
      ∀ p ∈ r.parts, ∀ b off, p.dst = .win b off → ∀ line ∈ linesOf off p.n, ∀ y, t.block? b = some y →
        (Tbl.get? y.lines line).isSome

/-- R238: what CPYL copies for one lane: b's bytes between the window and global memory, or within the window, by its direction; a length of
0 copies nothing; where a live lane's word is ill-formed or leaves the window, no lane's request is made. -/
def Sys2Proof.Claims.CpylCopiesPerLane : Prop :=
  ∀ (s : State) (bk : Block) (w l : Nat) (x : MWord), Alone s bk w l →
    let dir := (x.kind >>> 2).toNat
    let y := s.val w l (.reg x.b)
    let g := globalAddr (s.addr w l x.a) 0 x.imm
    (s.cpylRefused x w = true → exec (.cpyl x) s = .next s) ∧
    (s.cpylRefused x w = false → ∃ t r, exec (.cpyl x) s = .next t ∧ (t.core s.iss.core).copyQ = (s.core s.iss.core).copyQ ++ [r] ∧
      (cpylLen y = 0 → r.parts = [] ∧ r.state = .queued) ∧
      (cpylLen y ≠ 0 → ∃ p, r.parts = [p] ∧ p.n = cpylLen y ∧ p.lane = l ∧ p.done = false ∧ p.dropped = false ∧
        (dir = 0 → p.src = some (.glob g) ∧ p.dst = .win s.iss.blk (cpylOff y) ∧ r.state = .untranslated) ∧
        (dir = 1 → p.src = some (.win s.iss.blk (cpylOff y)) ∧ p.dst = .glob g ∧ r.state = .untranslated) ∧
        (dir = 2 → p.src = some (.win s.iss.blk (s.plainOff x w l)) ∧ p.dst = .win s.iss.blk (cpylOff y) ∧ r.state = .queued)))

namespace Sys2Proof.Claims

/-- The n bytes at an offset of a descriptor. -/
def bytesAt (bs : List Byte) (off n : Nat) : Nat := ofBytes ((bs.drop off).take n)

/-- R228: the fields of a box descriptor, each at its offset. -/
def DescriptorsAreRead : Prop :=
  ∀ bs : List Byte, let x := Box.ofBytes bs
    (∀ k < 4, x.ok k = (BitVec.ofNat 32 (bytesAt bs (4 * k) 4)).toInt ∧ x.ek k = bytesAt bs (0x10 + 2 * k) 2) ∧
    x.loff = bytesAt bs 0x18 4 ∧ x.p1 = bytesAt bs 0x1C 4 ∧ x.p2 = bytesAt bs 0x20 4 ∧ x.p3 = bytesAt bs 0x24 4 ∧ x.bar = bytesAt bs 0x28 4 ∧
    x.aux0 = bytesAt bs 0x2C 4 ∧ x.aux1 = bytesAt bs 0x30 8 ∧ x.aux2 = bytesAt bs 0x38 8

/-- R229, R239–R243: the parts of a box request for each element (i0, i1, i2, i3): its window bytes at Win and its global bytes at Glob, where it is In the
shape; BCPYG leaves dimension 1 of the address to its index i1, `.bb` copies from the issuer's window to the target's, BCPYQ lays its elements out by 1 byte
and has a scale byte for each 32 of them. Elements not In have no source, and as destinations no part. That BCPYA lays its elements out by the shape's
width is the model's reading (log 110, DEDUCED). -/
def BoxElementsHaveTheirPlaces : Prop :=
  ∀ (x : Box) (r : Shape) (own : Nat) (ts : List Nat) (i0 i1 i2 i3 : Nat), i0 < x.ek 0 → i1 < x.ek 1 → i2 < x.ek 2 → i3 < x.ek 3 → r.dims ≤ 4 →
    let z := if r.fmt = 0 ∨ r.fmt = 7 ∨ r.fmt = 8 then 4 else if r.fmt = 1 ∨ r.fmt = 2 then 2 else 1
    let i := fun k => if k = 0 then i0 else if k = 1 then i1 else if k = 2 then i2 else i3
    let j := i0 + x.ek 0 * (i1 + x.ek 1 * (i2 + x.ek 2 * i3))
    let win := fun (n : Nat) => x.loff + n * i0 + x.p1 * i1 + x.p2 * i2 + x.p3 * i3
    let coord := fun (k : Nat) => x.ok k + (i k : Int)
    let into := fun (k : Nat) => 0 ≤ coord k ∧ coord k < (r.extents.getD k 0 : Int)
    let glob := fun (g : Bool) => Side.glob (((r.base : Int) + z * (((List.range r.dims).filter fun k => !(g && k == 1)).map fun k =>
      coord k * r.strides.getD k 0).sum) % 2 ^ 64).toNat
    let has := fun (op : BoxOp) (sh : Option Shape) (src : Option Side) (dst : Side) (n : Nat) =>
      ∃ p ∈ boxParts op x sh own ts, p.j = j ∧ p.src = src ∧ p.dst = dst ∧ p.n = n ∧ p.dropped = false ∧ p.done = false
    let lacks := fun (op : BoxOp) => ∀ p ∈ boxParts op x (some r) own ts, p.j ≠ j
    ((∀ k < r.dims, into k) → has .ld (some r) (some (glob false)) (.win own (win z)) z ∧ has .st (some r) (some (.win own (win z))) (glob false) z ∧
      has .accum (some r) (some (.win own (win z))) (glob false) z ∧ has .quant (some r) (some (glob false)) (.win own (win 1)) 1 ∧
      ∀ t ∈ ts, has .mcast (some r) (some (glob false)) (.win t (win z)) z) ∧
    ((∃ k < r.dims, ¬ into k) → has .ld (some r) none (.win own (win z)) z ∧ lacks .st ∧ lacks .accum ∧
      has .quant (some r) none (.win own (win 1)) 1 ∧ ∀ t ∈ ts, has .mcast (some r) none (.win t (win z)) z) ∧
    ((∀ k < r.dims, k ≠ 1 → into k) → ∃ p ∈ boxParts .gather x (some r) own ts, p.j = j ∧ p.src = some (glob true) ∧ p.dst = .win own (win z) ∧ p.n = z ∧
      p.row = i1) ∧
    (∀ t ∈ ts, has .bb none (some (.win own (x.aux0 + (win 4 - x.loff)))) (.win t (win 4)) 4) ∧
    (x.ek 0 % 32 = 0 → ∃ p ∈ boxParts .quant x (some r) own ts, p.src = none ∧ p.n = 1 ∧
      p.dst = .win own (x.aux0 + i0 / 32 + x.ek 0 / 32 * (i1 + x.ek 1 * (i2 + x.ek 2 * i3))))

end Sys2Proof.Claims

/-- R228, R229, R239–R243: a box word's request has the elements of its descriptor, read from the window at issue, on the shape its
handle names. -/
def Sys2Proof.Claims.BoxRequestsFollowTheirDescriptor : Prop :=
  ∀ (s : State) (bk : Block) (w : Nat) (i : Instr) (op : BoxOp) (x : MWord) (zf : Bool) (out : Nat), boxOf i = some (op, x, zf, out) →
    OneWarp s bk w →
    let box := Box.ofBytes (s.snap.winRead (s.plainOff x w (s.lowest w)) 64)
    let sh := if op == .bb then none else s.cp.shape? s.snap.ctx (s.val w (s.lowest w) (.reg x.b))
    ∃ t r, exec i s = .next t ∧ (t.core s.iss.core).copyQ = (s.core s.iss.core).copyQ ++ [r] ∧
      r.parts = boxParts op box sh s.iss.blk ((box.targets op s.snap.blk).map fun q => bkey s.snap.task q) ∧
      r.kind = boxKind op box sh zf out ∧ r.bar = (if box.bar = 0xFFFFFFFF then none else some box.bar) ∧
      (r.hasGlobal = false → r.state = .queued) ∧ (r.hasGlobal = true → r.state = .untranslated)

/-- R235, R236: BBINI writes a byte barrier's 16 bytes: rem, count and the next generation; with `.add` it adds to rem and writes the
count. Beside a memory word of its bundle that awaits translation it joins its block's operations instead, after that word: the model's reading of
R19 (log 22, DEDUCED). -/
def Sys2Proof.Claims.BbiniWritesTheBarrier : Prop :=
  ∀ (s : State) (bk : Block) (w : Nat) (x : MWord), OneWarp s bk w →
    let off := s.plainOff x w (s.lowest w)
    let n := (s.val w (s.lowest w) (.reg x.b)).toNat
    let rem := ofBytes (bk.winRead off 8)
    let gen := ofBytes (bk.winRead (off + 12) 4)
    ∃ t, exec (.bbini x) s = .next t ∧ OnlyBlock s t ∧ (∀ v m, t.here.thread v m = bk.thread v m) ∧ RowsKept bk t.here ∧ t.here.pend = bk.pend ∧
      (Lags s bk w → t.here.win = bk.win ∧ LocalJoins s t bk w (.bbini x) off n) ∧
      (¬ Lags s bk w → t.here.ops = bk.ops ∧ ∀ a, t.here.winByte a = overlaid bk off (if x.kind.getLsbD 0 then toBytes 8 ((rem + n) % 2 ^ 64) ++ toBytes 4 n
        else toBytes 8 n ++ toBytes 4 n ++ toBytes 4 ((gen + 1) % 2 ^ 32)) a)

/-- R236: BBWT passes with the barrier's rem where rem is not positive, and otherwise holds the issuing threads of the warp, and also beside a memory
word of its bundle that awaits translation: the model's reading of R19 (log 22, DEDUCED). -/
def Sys2Proof.Claims.BbwtWaits : Prop :=
  ∀ (s : State) (bk : Block) (w : Nat) (x : MWord), OneWarp s bk w →
    let off := s.plainOff x w (s.lowest w)
    ∃ t, exec (.bbwt x) s = .next t ∧ OnlyBlock s t ∧ t.here.win = bk.win ∧
      (bk.remOf off ≤ 0 → ¬ Lags s bk w → ∀ n, x.d = .s n → Flies s t (.scalar w n.toNat) (BitVec.ofInt 64 (bk.remOf off)) 1) ∧
      (0 < bk.remOf off ∨ Lags s bk w → t.here.pend = bk.pend ∧ ∀ l ∈ s.lanesOf w, .bbwt off x.d s.iss.pos ∈ (t.here.thread w l).holds)

/-- R237: LNEMP marks lines empty from the one at its offset up, or full with `.full`, and changes no byte. Beside a memory word of its bundle
that awaits translation it joins its block's operations instead: the model's reading of R19 (log 22, DEDUCED). -/
def Sys2Proof.Claims.LnempMarksLines : Prop :=
  ∀ (s : State) (bk : Block) (w : Nat) (x : MWord), OneWarp s bk w →
    let line := s.plainOff x w (s.lowest w) / 128
    let n := if x.b = .z then 1 else (s.val w (s.lowest w) (.reg x.b)).toNat
    ∃ t, exec (.lnemp x) s = .next t ∧ OnlyBlock s t ∧ t.here.win = bk.win ∧ (∀ v m, t.here.thread v m = bk.thread v m) ∧
      RowsKept bk t.here ∧ t.here.pend = bk.pend ∧
      (Lags s bk w → t.here.lines = bk.lines ∧ LocalJoins s t bk w (.lnemp x) (s.plainOff x w (s.lowest w)) n) ∧
      (¬ Lags s bk w → t.here.ops = bk.ops ∧ ∀ k, Tbl.get? t.here.lines k =
        if line ≤ k ∧ k < line + n then (if x.kind.getLsbD 0 then none else some ((Tbl.get? bk.lines k).getD [])) else Tbl.get? bk.lines k)

namespace Sys2Proof.Claims

open Sys2Proof Sys2Proof.Machine

/-- A word that makes a matrix request, its M-form fields, whether it claims its tile, and what it asks (R249, R252, R259, R260, R262). -/
def matOf (s : State) (w : Nat) (i : Instr) : Option (MWord × Bool × MatKind) :=
  let a := fun (x : MWord) => (s.val64 w (s.lowest w) x.a).toNat
  match i with
  | .mma x => some (x, true, mmaKind x (a x % 2 ^ 32) (a x / 2 ^ 32) none)
  | .mmau x => s.snap.unfold.map fun u => (x, true, mmaKind x 0 (a x % 2 ^ 21) (some (u, 16 * (a x / 2 ^ 24 % 2 ^ 16), a x / 2 ^ 40)))
  | .accz x => some (x, true, .accz (MWord.ver16 x))
  | .accld x => some (x, true, .accld (s.val w (s.lowest w) (.reg x.a)).toNat (MWord.ver16 x))
  | .accst x => some (x, false, .accst x.kind.toNat (s.val w (s.lowest w) (.reg x.a)).toNat ((x.imm >>> 12) &&& 7#20).toNat)
  | _ => none

end Sys2Proof.Claims

/-- R248, R249, R259, R260, R262, R265: a matrix word's request joins the end of its core's matrix queue; an unclaimed tile it is to change is
claimed for the block; the tile's elements and version wait for the request's steps. -/
def Obligations.MatrixRequestsJoin : Prop :=
  ∀ (s : State) (bk : Block) (w : Nat) (i : Instr) (x : MWord) (claims : Bool) (k : MatKind), matOf s w i = some (x, claims, k) →
    OneWarp s bk w →
    ∃ t r, exec i s = .next t ∧ MemoryKept s t ∧ (∀ b, (t.block? b).map (·.win) = (s.block? b).map (·.win)) ∧
      t.cyc = s.cyc ∧ t.ctxs = s.ctxs ∧ t.cp = s.cp ∧ (∀ c, c ≠ s.iss.core → t.core c = s.core c) ∧
      (t.core s.iss.core).matQ = (s.core s.iss.core).matQ ++ [r] ∧ (t.core s.iss.core).copyQ = (s.core s.iss.core).copyQ ∧
      r.id = s.seq ∧ r.b = s.iss.blk ∧ r.w = w ∧ r.lanes = maskOf (s.lanesOf w) ∧ r.kind = k ∧ r.tile = tileNum x ∧ r.start = none ∧
      (t.core s.iss.core).tile (tileNum x) =
        (if claims && ((s.core s.iss.core).tile (tileNum x)).claim.isNone then
          { (s.core s.iss.core).tile (tileNum x) with claim := some s.iss.blk } else (s.core s.iss.core).tile (tileNum x)) ∧
      t.mp.tokensUsed = s.mp.tokensUsed + (if r.token then 1 else 0)

/-- R258: ACCVQ puts the tile's version, and whether it is busy or claimed by another block, in flight to its destination. -/
def Obligations.AccvqDescribes : Prop :=
  ∀ (s : State) (bk : Block) (w : Nat) (x : MWord) (n : BitVec 6), OneWarp s bk w → x.d = .s n →
    let q := s.core s.iss.core
    let tile := q.tile (tileNum x)
    ∃ t, exec (.accvq x) s = .next t ∧ OnlyBlock s t ∧ BlockKept bk t.here ∧ Flies s t (.scalar w n.toNat) (BitVec.ofNat 64 (tile.ver.toNat +
      (if q.matQ.any (·.tile == tileNum x) then 65536 else 0) +
      (if tile.claim.isSome && tile.claim != some s.iss.blk then 131072 else 0))) 1

/-- R261: UNFCF keeps the unfolding configuration its descriptor gives, and changes nothing else. -/
def Sys2Proof.Claims.UnfcfConfigures : Prop :=
  ∀ (s : State) (bk : Block) (w : Nat) (x : MWord) (u : Unfold), OneWarp s bk w →
    s.unfoldOf s.snap (s.plainOff x w (s.lowest w)) (s.val w (s.lowest w) (.reg x.b)) = .ok u →
    ∃ t, exec (.unfcf x) s = .next t ∧ OnlyBlock s t ∧ t.here = { bk with unfold := some u }

/-- R264: ACCSV saves the tiles of its mask that blocks of the owner claim into their blocks' save areas once the matrix queue is empty, and holds
its threads 64 core cycles and 256 for each tile; until the queue is empty they wait. The owner and the mask for `$z` are those from before the
bundle. That the hold is counted in core cycles (log 56) and that the tiles stay claimed (log 57) are the model's readings (DEDUCED). -/
def Sys2Proof.Claims.AccsvSaves : Prop :=
  ∀ (s : State) (bk : Block) (w l : Nat) (x : MWord), Alone s bk w l →
    let c := s.iss.core
    let m := if x.b = .z then s.iss.regs.accused.toNat else (s.val w l (.reg x.b)).toNat % 65536
    let own := s.iss.regs.accown
    let ts := (List.range 16).filter fun k => m.testBit k && (match ((s.core c).tile k).claim with
      | some b => (s.block? b).any fun y => own == BitVec.ofNat 32 y.ctx
      | none => false)
    ((s.core c).matQ = [] → own = 0 → ∃ t, exec (.accsv x) s = .next t ∧ OnlyBlock s t ∧ OnlyThreads bk t.here [(w, l)] ∧
      t.here.thread w l = { bk.thread w l with holds := (bk.thread w l).holds ++ [.untilCore (s.now + 64)] }) ∧
    ((s.core c).matQ = [] → own ≠ 0 → ∃ t, exec (.accsv x) s = .next t ∧ MemoryKept s t ∧ t.cores = s.cores ∧
      .untilCore (s.now + 64 + 256 * ts.length) ∈ (t.here.thread w l).holds ∧
      ∀ k ∈ ts, ∀ b, ((s.core c).tile k).claim = some b →
        ∃ y, t.block? b = some y ∧ Tbl.get? y.saved k = some { (s.core c).tile k with claim := none }) ∧
    ((s.core c).matQ ≠ [] → ∃ t, exec (.accsv x) s = .next t ∧ OnlyBlock s t ∧ OthersKept bk t.here [(w, l)] ∧
      t.here.thread w l = { bk.thread w l with holds := (bk.thread w l).holds ++ [.accsv (BitVec.ofNat 32 m)] })

/-- R264: ACCRS loads the saved tiles of its mask into unclaimed tiles of the core, claimed for their block, where the sectors of the save area can be
read and no block on its way there claims the number (log 112, DESIGN CHOICE); here for the only block there. It clears the tiles' saved bits and leaves
the save area's tiles as they are; it holds its threads 64 core cycles and 256 for each tile loaded (log 56, DEDUCED). -/
def Sys2Proof.Claims.AccrsLoads : Prop :=
  ∀ (s : State) (bk : Block) (w l : Nat) (x : MWord), Alone s bk w l → s.blocksOn s.iss.core = [(s.iss.blk, bk)] → bk.ctx = s.snap.ctx →
    let c := s.iss.core
    let m := if x.b = .z then 65535 else (s.val w l (.reg x.b)).toNat % 65536
    ∃ t, exec (.accrs x) s = .next t ∧ MemoryKept s t ∧
      .untilCore (s.now + 64 + 256 * (bk.saved.length - t.here.saved.length)) ∈ (t.here.thread w l).holds ∧
      (∀ off < 65536, t.here.saveArea off = bk.saveArea off) ∧
      ∀ k < 16, ∀ y, Tbl.get? bk.saved k = some y → ((s.core c).tile k).claim = none →
        bk.trunkFault (headSector :: tileSectors k) = none → s.claimComing c k s.iss.blk = false →
        (m.testBit k = true → (t.core c).tile k = { y with claim := some s.iss.blk, stamp := s.now } ∧ Tbl.get? t.here.saved k = none) ∧
        (m.testBit k = false → (t.core c).tile k = (s.core c).tile k ∧ Tbl.get? t.here.saved k = some y)

/-- R264: ACCOWN hands the tiles of its core to the issuer's context: a tile that no resident block of it claims is cleared, the switch latch opens,
and `%accused` names the tiles kept; its thread does not issue for 16 core cycles (log 56, DEDUCED). -/
def Sys2Proof.Claims.AccownHandsOver : Prop :=
  ∀ (s : State) (bk : Block) (w l : Nat) (x : MWord), Alone s bk w l →
    let c := s.iss.core
    let mine := s.claimedBy c s.snap.ctx
    ∃ t, exec (.accown x) s = .next t ∧ MemoryKept s t ∧ (t.core c).accown = BitVec.ofNat 32 s.snap.ctx ∧ (t.core c).latch = none ∧
      (∀ k < 16, (t.core c).accused.getLsbD k = decide (k ∈ mine)) ∧
      (∀ k, (t.core c).tile k = if k ∈ mine then (s.core c).tile k else .zero) ∧ (∀ d, d ≠ c → t.core d = s.core d) ∧
      OnlyThreads bk t.here [(w, l)] ∧ t.here.thread w l = { bk.thread w l with ready := max (bk.thread w l).ready (s.now + 16) }

namespace Sys2Proof.Claims

open Sys2Proof Sys2Proof.Machine

/-! ### The events of threads -/

/-- Everything but blocks, cores and the model's counters is as before; of blocks, only block b may differ. -/
def OnlyAt (s t : State) (b : Nat) : Prop :=
  MemoryKept s t ∧ t.cyc = s.cyc ∧ t.ctxs = s.ctxs ∧ t.cp = s.cp ∧ t.mp = s.mp ∧ ∀ d, d ≠ b → t.block? d = s.block? d

/-- R4, R95: in the last core cycle of a chip cycle, a result of a block on the core that is due lands: its place has its value, its lane is full,
and it is no longer in flight; a result that is not due stays in flight. Of two results for one lane that land in one core cycle, the value of the
one issued later remains. -/
def ResultLands : Prop :=
  ∀ (s : State) (b c : Nat) (bk : Block) (p : Pending), s.block? b = some bk → bk.core? = some c → s.moreCycles c = false → bk.pend = [p] →
    ∃ t y, exec (.resultLanding b) s = .next t ∧ OnlyAt s t b ∧ t.cores = s.cores ∧ t.block? b = some y ∧ y.win = bk.win ∧
      (∀ d, p.due = some d → d ≤ s.coreNow c → y.pend = [] ∧
        (∀ r l, p.tgt = .row r l → (y.row r).val l = p.val.setWidth 32 ∧ (l < 32 → (y.row r).empty.getLsbD l = false)) ∧
        (∀ w n l, p.tgt = .oreg w n l → Tbl.getD (y.thread w l).o n 0 = p.val.setWidth 32) ∧
        (∀ w n, p.tgt = .scalar w n → Tbl.getD (y.warp w).s n 0 = p.val) ∧
        (∀ w l k, p.tgt = .pred w l k → k < 7 → (y.thread w l).p.getLsbD k = (p.val != 0)) ∧
        ∀ w l, (p.last = some (w, l, 1) → (y.thread w l).la = p.val.setWidth 32) ∧
          (p.last = some (w, l, 2) → (y.thread w l).lb = p.val.setWidth 32) ∧
          (p.last = some (w, l, 3) → (y.thread w l).lc = p.val.setWidth 32)) ∧
      ((p.due = none ∨ ∃ d, p.due = some d ∧ s.coreNow c < d) → y = bk) ∧
      ∀ (q : Pending) (d r l e : Nat) (bk' : Block) (s' : State), s'.block? b = some bk' → bk'.core? = some e → s'.moreCycles e = false →
        bk'.pend = [p, q] ∨ bk'.pend = [q, p] →
        p.tgt = .row r l → q.tgt = .row r l → p.due = some d → q.due = some d → d ≤ s'.coreNow e → p.seq < q.seq →
        ∃ t' z, exec (.resultLanding b) s' = .next t' ∧ t'.block? b = some z ∧ z.pend = [] ∧ (z.row r).val l = q.val.setWidth 32

/-- R144, R145, R234, R315: a pending trap, or a LATE, enters its handler once nothing of the thread stands before it; a block on the
move takes its LATE where it arrives. That a held thread enters at once, and its holds are set aside, is the model's reading (log 51, DEDUCED). -/
def TrapsAndLatesEnter : Prop :=
  ∀ (s : State) (b w l c : Nat) (bk : Block) (k : Ctx), s.block? b = some bk → bk.core? = some c → Tbl.get? s.ctxs bk.ctx = some k →
    (bk.thread w l).live = true → (bk.thread w l).level = .user → (bk.thread w l).memFault = none →
    (∀ e, (bk.thread w l).trap = some e → (bk.thread w l).recorded = none → bk.untranslated w l = false →
      s.reqUntranslated c b w l = false →
      ∃ t y, exec (.handlerEntry b w l) s = .next t ∧ OnlyAt s t b ∧ t.block? b = some y ∧ OthersKept bk y [(w, l)] ∧
        y.thread w l = { bk.thread w l with trap := none }.enter k.tvec e (s.coreNow c)) ∧
    ∀ p r, (bk.thread w l).trap = none → bk.pausing = false → (bk.thread w l).lates = p :: r →
      ∃ t y, exec (.handlerEntry b w l) s = .next t ∧ OnlyAt s t b ∧ t.block? b = some y ∧ OthersKept bk y [(w, l)] ∧
        (y.thread w l).lates = r ∧ (y.thread w l).level = .supervisor ∧ (y.thread w l).fpc = (bk.thread w l).pc ∧
        (y.thread w l).faddr = p ∧ (y.thread w l).pc = vector k.tvec .late

/-- R106: a thread takes the memory fault found for it: its operation is recorded, with the address where it stood as the resume
address, and it enters its handler; that a held thread does so at once, and its holds are set aside, is the model's reading (log 51, DEDUCED). -/
def MemoryFaultsAreTaken : Prop :=
  ∀ (s : State) (b w l c id : Nat) (bk : Block) (k : Ctx) (e : Entry), s.block? b = some bk → bk.core? = some c →
    Tbl.get? s.ctxs bk.ctx = some k → (bk.thread w l).live = true → (bk.thread w l).level = .user → bk.drain = none →
    (bk.thread w l).memFault = some (id, e) → e.code ≠ .regue → e.code ≠ .memue → e.code ≠ .integrity →
    ∃ t y, exec (.memoryFaultDetection b w l) s = .next t ∧ OnlyAt s t b ∧ t.block? b = some y ∧ OthersKept bk y [(w, l)] ∧
      (y.warp w).fmask = e.fmask ∧ y.thread w l =
        { bk.thread w l with memFault := none, recorded := some id, resume := (bk.thread w l).pc }.enter k.tvec e (s.coreNow c)

/-- R4, R95, R353: an operation with nothing left to do delivers its result no sooner than its least time, and is over; the result lands at the
start of the first core cycle that begins in the next chip cycle or later. -/
def LoadsArrive : Prop :=
  ∀ (s : State) (b c q a : Nat) (bk : Block) (o : MemOp) (p : Pending), s.block? b = some bk → bk.core? = some c → bk.ops = [o] → o.id = q →
    o.arrive = some a → o.todo = [] → o.held = [] → o.parked = [] → bk.pend = [p] → p.op = q → p.due = none →
    (a ≤ s.cyc + 1 → ∃ t y, exec (.loadArrival b q) s = .next t ∧ OnlyAt s t b ∧ t.block? b = some y ∧ y.ops = [] ∧
      y.pend = [{ p with due := some (s.coreCycleAt c (s.cyc + 1)) }]) ∧
    (s.cyc + 1 < a → exec (.loadArrival b q) s = .next s)

/-- R192, R324: a register word with a parity error that a fragment reads, its own or another lane's, is restored from the warp's replay queue; a
fragment that reads it waits 24 core cycles, and the context's count of corrected errors rises. -/
def RegistersAreRepaired : Prop :=
  ∀ (s : State) (b w l c : Nat) (r : Reg) (v : Word) (bk : Block) (k : Ctx), s.block? b = some bk → bk.core? = some c →
    Tbl.get? s.ctxs bk.ctx = some k → l < 32 →
    let reads := fun (a : DWord) => ∃ m ∈ bk.fragment w a, ∃ p ∈ (s.fetch c bk w (bk.fragment w a) a).words, (l, r) ∈ wordsRead bk p w m
    (∃ a ∈ bk.addressesOf w, reads a) → bk.errAt w l r = true → bk.replayOf w l r = some v →
    ∃ t y, exec (.registerRepair b w l r) s = .next t ∧ t.ms = s.ms ∧ t.block? b = some y ∧ y.errAt w l r = false ∧
      (y.read w l r).setWidth 32 = v ∧ (∃ a, reads a ∧ ∀ m ∈ bk.fragment w a, s.coreNow c + 24 ≤ (y.thread w m).ready) ∧
      (Tbl.get? t.ctxs bk.ctx).map (·.corrected) = some (k.corrected + 1)

/-- R4, R142, R210, R211, R264, R314, R355: a hold that ends at a chip cycle, or a core cycle, ends then and no sooner; FENCEL's ends when no request that it waits for is in
its way; a sleep ends at its wake time, but a NAPTO's not while its block is on the move. -/
def HoldsEndByTime : Prop :=
  ∀ (s : State) (b w l c : Nat) (bk : Block), s.block? b = some bk → bk.core? = some c →
    let freed := fun (t : State) => ∃ y, exec (.memoryHoldRelease b w l) s = .next t ∧ OnlyAt s t b ∧
      t.block? b = some y ∧ OthersKept bk y [(w, l)] ∧ y.thread w l = { bk.thread w l with holds := [] }
    (∀ n, (bk.thread w l).holds = [.until n] → (n ≤ s.cyc → ∃ t, freed t) ∧
      (s.cyc < n → exec (.memoryHoldRelease b w l) s = .next s)) ∧
    (∀ n, (bk.thread w l).holds = [.untilCore n] → (n ≤ s.coreNow c → ∃ t, freed t) ∧
      (s.coreNow c < n → exec (.memoryHoldRelease b w l) s = .next s)) ∧
    (∀ done rs, (bk.thread w l).holds = [.fencel done rs] →
      let stays := (∃ r ∈ (s.core c).copyQ, r.id ∈ rs ∧ (done = true ∨ r.state ≠ .started)) ∨
        (∃ r ∈ (s.core c).matQ, r.id ∈ rs ∧ (done = true ∨ r.start = none)) ∨ ∃ r ∈ bk.carried, r.id ∈ rs
      (¬ stays → ∃ t, freed t) ∧ (stays → exec (.memoryHoldRelease b w l) s = .next s)) ∧
    ∃ t y, exec (.wakeTime b w l) s = .next t ∧ OnlyAt s t b ∧ t.block? b = some y ∧ OthersKept bk y [(w, l)] ∧
      y.thread w l = if (bk.thread w l).wake ≤ s.cyc ∧ ((bk.thread w l).nap = false ∨ bk.pausing = false)
        then { bk.thread w l with wake := 0, nap := false } else bk.thread w l

/-! ### Views -/

/-- Everything but the memory system is as before. -/
def OnlyMemory (s t : State) : Prop :=
  t.cyc = s.cyc ∧ t.cores = s.cores ∧ t.blocks = s.blocks ∧ t.ctxs = s.ctxs ∧ t.cp = s.cp ∧ t.mp = s.mp

/-- Everything but the memory system and the byte counters of context x, if there is one, is as before. -/
def OnlyMemoryOf (s t : State) (x : Option Nat) : Prop :=
  t.cyc = s.cyc ∧ t.cores = s.cores ∧ t.blocks = s.blocks ∧ t.cp = s.cp ∧ t.mp = s.mp ∧
  ∀ z, (some z ≠ x → Tbl.get? t.ctxs z = Tbl.get? s.ctxs z) ∧
    (Tbl.get? t.ctxs z).map (fun k => { k with acct := [] }) = (Tbl.get? s.ctxs z).map fun k => { k with acct := [] }

/-- R20, R21: Move takes every unpublished byte of its line to the next level, or to the truth where that is next, and leaves a clean copy;
no other byte changes at either level. (Where a byte of another node lies unpublished at the next level, that one moves on first: log 144, DEDUCED.) R220: a
line that leaves its level is a writeback of 128 bytes; which context it is charged to is open (log 21). -/
def MovesPublish : Prop :=
  ∀ (s : State) (lv : ViewLevel) (u line : Nat),
    let c := viewCore lv u
    let k := viewNum lv
    let x := Config.evictor (lineOf line) s.cyc
    let dirty := ∃ a y, lineOf a = lineOf line ∧ Tbl.get? (s.ms.view c k) a = some y ∧ y.unpub = true
    let moves := fun a x => lineOf a = lineOf line ∧ Tbl.get? (s.ms.view c k) a = some x ∧ x.unpub = true ∧ k < truthLevel s.dev a
    Tbl.risingFrom none (s.ms.view c k) = true →
    (∀ a x y, moves a x → Tbl.get? (s.ms.view c (k + 1)) a = some y → y.unpub = true → y.node = x.node) →
    ∃ t, exec (.move lv u line) s = .next t ∧ OnlyMemoryOf s t (some x) ∧ (¬ dirty → t.ctxs = s.ctxs) ∧
      (dirty → ∀ y, Tbl.get? s.ctxs x = some y → Tbl.get? t.ctxs x = some { y with acct := y.acct.set 3 (y.acct.getD 3 0 + 128) }) ∧
      (∀ a x, moves a x → Tbl.get? (t.ms.view c k) a = some { x with unpub := false } ∧
        (truthLevel s.dev a ≤ k + 1 → Memory.read t.ms.truth a = x.val) ∧
        (k + 1 < truthLevel s.dev a → Tbl.get? (t.ms.view c (k + 1)) a = some x ∧ Memory.read t.ms.truth a = Memory.read s.ms.truth a)) ∧
      ∀ a, (∀ x, ¬ moves a x) → Tbl.get? (t.ms.view c k) a = Tbl.get? (s.ms.view c k) a ∧
        Tbl.get? (t.ms.view c (k + 1)) a = Tbl.get? (s.ms.view c (k + 1)) a ∧ Memory.read t.ms.truth a = Memory.read s.ms.truth a

/-- R20, R21, R352: Fill makes the absent bytes of a line clean copies of the next level's, but for those of a sector that cannot be read, and
Drop removes the clean ones; neither touches an unpublished byte, another line, or the truth. -/
def FillsAndDrops : Prop :=
  ∀ (s : State) (lv : ViewLevel) (u line : Nat),
    let c := viewCore lv u
    let k := viewNum lv
    (k < truthLevel s.dev line → ∃ t, exec (.fill lv u line) s = .next t ∧ OnlyMemory s t ∧ t.ms.truth = s.ms.truth ∧
      ∀ a, Tbl.get? (t.ms.view c k) a = if lineOf a = lineOf line then
          (match Tbl.get? (s.ms.view c k) a with
            | some x => some x
            | none => if truthLevel s.dev a ≤ k + 1 ∧ s.ms.readable s.dev a = false then none
                      else (s.ms.at s.dev c (k + 1) a).map fun x => { x with unpub := false })
        else Tbl.get? (s.ms.view c k) a) ∧
    (truthLevel s.dev line ≤ k → exec (.fill lv u line) s = .next s) ∧
    (Tbl.risingFrom none (s.ms.view c k) = true → ∃ t, exec (.drop lv u line) s = .next t ∧ OnlyMemory s t ∧ t.ms.truth = s.ms.truth ∧
      ∀ a x, Tbl.get? (s.ms.view c k) a = some x → Tbl.get? (t.ms.view c k) a =
        if lineOf a = lineOf line ∧ x.unpub = false then none else some x)

/-- R352, R354: the instruction cache takes a bundle from the truth, where its sectors can be read, keeps it whatever is stored there later,
and may drop a line. R220: what home slices read for it and for its address's walk is charged to the context that missed. -/
def InstructionCache : Prop :=
  ∀ (s : State) (c pa : Nat),
    let bad := s.ms.sectorFault s.dev ((List.range 32).map (pa + ·))
    (bad = none → ∃ t, exec (.icacheFill c pa) s = .next t ∧ OnlyMemoryOf s t ((s.misser c pa).map (·.1)) ∧ t.ms.truth = s.ms.truth ∧
      t.cachedBundle c pa = some (BitVec.ofNat 256 (ofBytes (Memory.reads s.ms.truth pa 32))) ∧
      ∀ a, a ≠ pa → t.cachedBundle c a = s.cachedBundle c a) ∧
    (bad ≠ none → exec (.icacheFill c pa) s = .next s) ∧
    ∃ t, exec (.icacheDrop c pa) s = .next t ∧ OnlyMemory s t ∧ t.ms.truth = s.ms.truth ∧
      ∀ a, t.cachedBundle c a = if lineOf a = lineOf pa then none else s.cachedBundle c a

/-! ### What an access of a scope reads and writes (R17, R21, R23) -/

/-- The byte that an access of scope `sc` by core c finds at an address: below its scope only unpublished bytes count, the lowest first; from
its scope up any byte counts, and the truth is last. -/
def byteFor (m : MemSys) (dev c sc a : Nat) : Byte :=
  match (List.range (truthLevel dev a)).findSome? fun k => (Tbl.get? (m.view c k) a).filter fun x => x.unpub || decide (sc ≤ k) with
  | some x => x.val
  | none => Memory.read m.truth a

/-- The views of a core's path are tables, and hold no provisional byte unpublished at these addresses. -/
structure PlainPath (m : MemSys) (c : Nat) (pas : List Nat) : Prop where
  rising : ∀ k, Tbl.risingFrom none (m.view c k) = true
  plain : ∀ a ∈ pas, ∀ k x, Tbl.get? (m.view c k) a = some x → x.unpub = true → x.node = none

/-- R21: a load of a scope answers, for each address, the byte its scope finds; it changes neither the truth nor an unpublished byte. -/
def LoadsReadByScope : Prop :=
  ∀ (m : MemSys) (dev c sc : Nat) (pas : List Nat), sc ≤ 3 → PlainPath m c pas →
    (m.load dev c sc pas).2.1.map (·.val) = pas.map (byteFor m dev c sc) ∧ (m.load dev c sc pas).1.truth = m.truth ∧
    ∀ k a x, Tbl.get? (m.view c k) a = some x → x.unpub = true → Tbl.get? ((m.load dev c sc pas).1.view c k) a = some x

/-- What bytes written at a scope leave: at their scope's level they lie unpublished, or in the truth where that is no higher; below it every
copy is clean; they are what this core finds at that scope, and what every core that shares the level finds unless it holds an unpublished
byte of its own there; no other address changes. -/
def WrittenAt (m n : MemSys) (dev c sc : Nat) (pas : List Nat) (bs : List Byte) : Prop :=
  (∀ a v, (a, v) ∈ pas.zip bs →
    (truthLevel dev a ≤ sc → Memory.read n.truth a = v) ∧
    (sc < truthLevel dev a → Memory.read n.truth a = Memory.read m.truth a ∧
      ∃ x, Tbl.get? (n.view c sc) a = some x ∧ x.val = v ∧ x.unpub = true) ∧
    (∀ k x, k < sc → k < truthLevel dev a → Tbl.get? (n.view c k) a = some x → x.unpub = false) ∧
    byteFor n dev c sc a = v ∧
    ∀ c2, 2 ≤ sc ∨ (sc = 1 ∧ clusterOf c2 = clusterOf c) → (∀ k x, k < sc → Tbl.get? (n.view c2 k) a = some x → x.unpub = false) →
      byteFor n dev c2 sc a = v) ∧
  ∀ a, a ∉ pas → Memory.read n.truth a = Memory.read m.truth a ∧ ∀ sc2, byteFor n dev c sc2 a = byteFor m dev c sc2 a

/-- R21: a store of a scope writes its bytes at that scope; a store of scope 0 stays in V(c). That no other byte changes its place, the rest of its
lines included, is the model's reading (log 105, DEDUCED). -/
def StoresWriteAtScope : Prop :=
  ∀ (m : MemSys) (dev c sc : Nat) (pas : List Nat) (bs : List Byte), sc ≤ 3 → PlainPath m c pas → pas.Nodup → bs.length = pas.length →
    WrittenAt m (m.store dev c sc pas bs none) dev c sc pas bs

/-- R23: the read and the write of an atomic of a scope: the old value is what its scope finds, and the new value is written there. That the
rest of its line stays where it is is the model's reading (log 105, DEDUCED). -/
def AtomicsActAtScope : Prop :=
  ∀ (m : MemSys) (dev c sc : Nat) (pas : List Nat) (f : Word → Word), sc ≤ 3 → PlainPath m c pas → pas.Nodup → pas.length = 4 →
    let old : Word := BitVec.ofNat 32 (ofBytes (pas.map (byteFor m dev c sc)))
    (m.rmw dev c sc pas f none).2 = old ∧ WrittenAt m (m.rmw dev c sc pas f none).1 dev c sc pas (toBytes 4 (f old).toNat)

/-! ### Translation and performing (R106, R204, R209) -/

/-- The operation with one access that a TRANSLATION event finds: the oldest of its thread, whose address translates, on
bytes that hold no provisional version, of no poisoned sector that it would write in part. -/
structure Ready (s : State) (b c : Nat) (bk : Block) (o : MemOp) (a : Access) (pas : List Nat) : Prop where
  here : s.block? b = some bk
  core : bk.core? = some c
  found : bk.ops.find? (·.id == o.id) = some o
  line : bk.inLine o.id = true
  one : o.todo = [a]
  goes : s.xlat c bk.ctx o.i a = .ok pas
  plain : ∀ pa ∈ pas, ∀ v ∈ s.versions c pa, v = none
  node : s.nodeTag bk.task = none
  whole : s.tears o.i pas pas = false

/-- Two memory systems hold the same bytes: the truth, the value and state of every byte of every view, and the versions staged. -/
def SameBytes (m n : MemSys) : Prop :=
  m.truth = n.truth ∧ m.staged = n.staged ∧ m.sectors = n.sectors ∧ m.tlb = n.tlb ∧ m.icache = n.icache ∧
  ∀ c k a, (Tbl.get? (m.view c k) a).map (fun x => (x.val, x.unpub, x.node)) = (Tbl.get? (n.view c k) a).map fun x => (x.val, x.unpub, x.node)

/-- R21, R206, R209, R353: a load performs by the load step of its scope, and its result has the bytes that the step answers; a store
performs by the store step (of the bytes of its footprint alone: log 105, DEDUCED). -/
def LoadsAndStoresPerform : Prop :=
  ∀ (s : State) (b c : Nat) (bk : Block) (o : MemOp) (a : Access) (pas : List Nat) (x : MWord), Ready s b c bk o a pas →
    let m := (s.cached c bk.ctx a.addr).ms
    (o.i = .ldg x → x.d.isScalar = false → ∀ p, bk.pend = [p] → p.op = o.id → p.due = none → p.forThread a.w a.lane = true →
      ∃ t y, exec (.translation (.mem b o.id)) s = .next t ∧ t.ms = (m.load s.dev c (MWord.scope x) pas).1 ∧ t.block? b = some y ∧
        y.win = bk.win ∧
        y.pend = [{ p with val := (wordAt ((m.load s.dev c (MWord.scope x) pas).2.1.map (·.val)) 0).setWidth 64 }]) ∧
    (o.i = .stg x → ∃ t y, exec (.translation (.mem b o.id)) s = .next t ∧
      SameBytes t.ms (m.store s.dev c (MWord.scope x) pas a.data none) ∧ t.block? b = some y ∧ y.win = bk.win)

/-- R212, R213, R214, R23: an atomic (of data given by its word) performs by one read-modify-write, with the publication of `.rel` before it and the
refresh of `.acq` after it, and its result is the old value; AMOS has none. -/
def AtomicsPerform : Prop :=
  ∀ (s : State) (b c : Nat) (bk : Block) (o : MemOp) (a : Access) (pas : List Nat) (x : MWord), Ready s b c bk o a pas →
    let sc := MWord.ascope x
    let m := (s.cached c bk.ctx a.addr).ms
    let m := if MWord.rel x then m.publish s.dev c sc else m
    let y := BitVec.ofNat 32 (ofBytes a.data)
    let leaves := fun (f : Word → Word) (acq : Bool) (t : State) (z : Block) =>
      exec (.translation (.mem b o.id)) s = .next t ∧ t.block? b = some z ∧ z.win = bk.win ∧
        SameBytes t.ms (if acq then (m.rmw s.dev c sc pas f none).1.refresh c sc else (m.rmw s.dev c sc pas f none).1)
    let did := fun (f : Word → Word) => ∀ p, bk.pend = [p] → p.op = o.id → p.due = none → p.forThread a.w a.lane = true →
      ∃ t z, leaves f (MWord.acq x) t z ∧ z.pend = [{ p with val := (m.rmw s.dev c sc pas f none).2.setWidth 64 }]
    (o.i = .amo x → did fun v => atomicOp x.kind.toNat v y) ∧
    (o.i = .acas x → did fun v => if v = a.cmp then y else v) ∧
    (o.i = .amos x → ∃ t z, leaves (fun v => atomicOp x.kind.toNat v y) false t z ∧ z.pend = bk.pend)

/-- R106, R352: an access whose translation fails leaves memory alone; its thread has the fault to take, with the operation and the
address, and the access is held. Where the walker cannot read a table, the context ends. -/
def FailedTranslationsAreFound : Prop :=
  ∀ (s : State) (b c : Nat) (bk : Block) (o : MemOp) (a : Access) (x : MWord) (u : Ctx), s.block? b = some bk → bk.core? = some c →
    bk.ops.find? (·.id == o.id) = some o → bk.inLine o.id = true → o.todo = [a] → o.i = .stg x ∨ (o.i = .ldg x ∧ x.d.isScalar = false) →
    Tbl.get? s.ctxs bk.ctx = some u →
    (∀ e, s.walkBad c bk.ctx a.addr = none → s.xlat c bk.ctx o.i a = .error e → e ≠ .integrity →
      (bk.thread a.w a.lane).live = true → (bk.thread a.w a.lane).memFault = none → (bk.thread a.w a.lane).recorded = none →
      ∃ t y, exec (.translation (.mem b o.id)) s = .next t ∧ t.ms.truth = s.ms.truth ∧ t.ms.v = s.ms.v ∧ t.ms.g = s.ms.g ∧ t.ms.d = s.ms.d ∧
        t.block? b = some y ∧ y.win = bk.win ∧
        (y.thread a.w a.lane).memFault = some (o.id, { code := e, fpc := o.pc, faddr := BitVec.ofNat 64 a.addr, fmask := maskOf [a.lane] }) ∧
        ∃ q ∈ y.ops, q.id = o.id ∧ q.todo = [] ∧ a ∈ q.held) ∧
    ∀ e, s.walkBad c bk.ctx a.addr = some e →
      ∃ t z, exec (.translation (.mem b o.id)) s = .next t ∧ t.ms = s.ms ∧ t.blocks = s.blocks ∧ Tbl.get? t.ctxs bk.ctx = some z ∧
        z.ending = some (u.ending.getD (e.num, o.pc, BitVec.ofNat 64 a.addr))

/-- R19, R223: a copy request whose bytes all translate waits to start, once no earlier operation of its threads awaits translation. -/
def RequestsTranslate : Prop :=
  ∀ (s : State) (c : Nat) (r : CopyReq) (bk : Block) (p p' : Part), (s.core c).copyQ = [r] → r.state = .untranslated → r.owed = false →
    r.kind = .plain → r.parts = [p] → s.block? r.b = some bk →
    (bk.opsBefore r = [] → s.xlatPart c bk.ctx r p = .ok p' →
      ∃ t, exec (.translation (.req c r.id)) s = .next t ∧ t.blocks = s.blocks ∧ t.ms.truth = s.ms.truth ∧ t.cyc = s.cyc ∧
        (t.core c).copyQ = [{ r with state := .queued, again := false, parts := [p'] }]) ∧
    (bk.opsBefore r ≠ [] → exec (.translation (.req c r.id)) s = .next s)

/-! ### The engines' steps -/

/-- R19, R26, R238: Start reads a window source whole; nothing is delivered yet. -/
def CopiesStart : Prop :=
  ∀ (s : State) (c off o d : Nat) (r : CopyReq) (bk : Block) (p : Part), (s.core c).copyQ = [r] → r.state = .queued → r.kind = .plain →
    r.owed = false → r.parts = [p] → s.block? r.b = some bk → s.ctxEnding bk.ctx = false → bk.opsBefore r = [] → p.dropped = false →
    p.src = some (.win r.b off) → p.dst = .win d o → p.spa = [] → p.dpa = [] → 0 < p.n →
    ∃ t, exec (.copyStart c r.id) s = .next t ∧ t.blocks = s.blocks ∧ t.ms.truth = s.ms.truth ∧ t.cyc = s.cyc ∧
      (t.core c).copyQ = [{ r with state := .started, again := false, parts := [{ p with data := bk.winRead off p.n }] }]

/-- R26, R224, R229: Deliver writes some of the bytes that Start read, any that are not delivered yet, to the destination window and nowhere
else; a line becomes full, and the request leaves the queue, with the last byte. -/
def CopiesDeliver : Prop :=
  ∀ (s : State) (c e b off mask : Nat) (r : CopyReq) (bk y : Block) (p : Part), (s.core c).copyQ = [r] → r.state = .started → r.parts = [p] →
    r.kind = .plain → r.bar = none → s.block? r.b = some bk → s.block? b = some y → y.place = .core e → y.drain = none → p.done = false →
    p.dropped = false → p.dst = .win b off → p.data.length = p.n → p.dpa = [] → p.got < 2 ^ p.n →
    let all := ∀ i, i < p.n → p.got.testBit i = true ∨ mask.testBit i = true
    ∃ t z, exec (.copyDeliver c r.id ⟨0, mask⟩) s = .next t ∧ t.ms = s.ms ∧ t.cyc = s.cyc ∧ t.block? b = some z ∧
      (∀ a, z.winByte a = if off ≤ a ∧ a < off + p.n ∧ p.got.testBit (a - off) = false ∧ mask.testBit (a - off) = true
        then p.data.getD (a - off) 0 else y.winByte a) ∧
      (∀ d, d ≠ b → t.block? d = s.block? d) ∧
      (all → (t.core c).copyQ = [] ∧ ∀ line ∈ linesOf off p.n, Tbl.get? y.lines line = some [r.id] → Tbl.get? z.lines line = none) ∧
      (¬ all → (∃ g, (t.core c).copyQ = [{ r with parts := [{ p with got := g }] }] ∧
          ∀ i, g.testBit i = (p.got.testBit i || (decide (i < p.n) && mask.testBit i))) ∧
        ∀ i, i < p.n → p.got.testBit i = false → mask.testBit i = false →
          Tbl.get? z.lines ((off + i) / 128) = Tbl.get? y.lines ((off + i) / 128))

/-- R234, R314: a request with a promise that has passed raises LATE, once, in the live threads of its warp, while no block that it
concerns is on the move. -/
def PromisesMissed : Prop :=
  ∀ (s : State) (c b d p : Nat) (r : CopyReq) (bk : Block), s.block? b = some bk → bk.core? = some c → (s.core c).copyQ = [r] → r.b = b →
    bk.pausing = false → (∀ p ∈ r.parts, ∀ d o z, p.dst = .win d o → s.block? d = some z → z.pausing = false) →
    (bk.liveLanes r.w).Nodup → r.lt = true → r.late = false → r.deadline = some d → r.promise = some p → d ≤ s.cyc →
    ∃ t y, exec (.late b r.id) s = .next t ∧ t.ms = s.ms ∧ (t.core c).copyQ = [{ r with late := true }] ∧ t.block? b = some y ∧
      ∀ l ∈ bk.liveLanes r.w, (y.thread r.w l).lates = (bk.thread r.w l).lates ++ [BitVec.ofNat 64 p]

/-- R254, R255, R266: a matrix request starts when the engine is free, what it reads is there, and no request before it in its core's queue
is in its way; it then holds the engine for its occupancy. -/
def MatrixStarts : Prop :=
  ∀ (s : State) (c q : Nat) (r : MatReq) (before : List MatReq) (bk : Block), s.findMat c q = some (r, before) → r.start = none →
    (s.core c).matBusy ≤ s.coreNow c → s.block? r.b = some bk → (∀ p ∈ r.winReads, ∀ n ∈ linesOf p.1 p.2, Tbl.get? bk.lines n = none) →
    (∀ e ∈ before, e.blocks r = false ∧ (r.score = true ∨ e.start.isSome = true)) →
    ∃ t, exec (.matrixStart c q) s = .next t ∧ t.blocks = s.blocks ∧ t.ms = s.ms ∧ (t.core c).tiles = (s.core c).tiles ∧
      (t.core c).matBusy = s.coreNow c + r.occupancy ∧
      (t.core c).matQ = (s.core c).matQ.map fun x =>
        if x.id = q then { x with start := some (s.coreNow c), image := r.imageOf bk ((s.core c).tile r.tile).els } else x

/-- The scale byte that row or column i of quarter q has from its lane's registers for a block, 0x7F where that lane has none (R176, R253). -/
def laneScale (r : MatReq) (second : Bool) (q i blk : Nat) : Nat :=
  match Tbl.get? r.scales (8 * q + i / 2) with
  | none => 0x7F
  | some p => (if second then p.2 else p.1).toNat / 2 ^ (8 * (2 * (i % 2) + blk)) % 256

/-- R174, R176, R251–R253: an element of a tile after the groups of an MMA or MMAU: each rounds once, after its scales (matGroup). -/
def groups (r : MatReq) (f : Nat) (full : Bool) (bs q i j : Nat) (prods : Nat → List (Fp × Fp)) (scaleA : Nat → Nat) (x : Word) : Word :=
  let one := fun (acc : Word) (n : Nat) => matGroup acc (prods n) (if f < 4 then some (scaleA n, laneScale r true q j (if full then n else bs)) else none)
  if full then one (one x 0) 1 else one x 0

/-- R174–R176, R251–R253, R259, R260: what a matrix request computes, or has for its destination: ACCZ zeros; ACCLD the window's words, row by row; ACCST
the tile's words or their BF16; and MMA, in the quadrant of each quarter whose lanes all take part, the products of the rows of A and the columns of B,
group by group, elsewhere what was there. That lanes which do not take part have scale 0x7F is the model's choice (log 166, DESIGN CHOICE). -/
def TilesAreComputed : Prop :=
  ∀ (r : MatReq) (bk : Block) (els : Tbl Word) (i j : Nat), Tbl.risingFrom none els = true → i < 32 → j < 32 →
    let image := r.imageOf bk els
    (∀ v, r.kind = .accz v → elem image i j = 0) ∧
    (∀ off v, r.kind = .accld off v → elem image i j = BitVec.ofNat 32 (ofBytes (bk.winRead (off + 128 * i + 4 * j) 4))) ∧
    (∀ dst off g, r.kind = .accst dst off g → image = els) ∧
    ((tileBytes els).drop (128 * i + 4 * j)).take 4 = toBytes 4 (elem els i j).toNat ∧
    ((tileHalves els).drop (64 * i + 2 * j)).take 2 = toBytes 2 (convertCode 1 .rn false (f32.val (elem els i j).toNat)) ∧
    ∀ f full ao bo bs, r.kind = .mma f full ao bo bs none → f < 6 →
      let q := 2 * (i / 16) + j / 16
      let z := if f < 4 then 1 else 2
      let g := if f < 4 then 32 else 16
      let rb := if full then 64 else 32
      let val := fun (off : Nat) => matVal ([9, 3, 4, 6, 1, 2].getD f 0) (ofBytes (bk.winRead off z))
      ((∃ m < 8, r.lanes.getLsbD (8 * q + m) = false) → elem image i j = elem els i j) ∧
      ((∀ m < 8, r.lanes.getLsbD (8 * q + m) = true) → elem image i j = groups r f full bs q (i % 16) (j % 16)
        (fun n => (List.range g).map fun e => (val (ao + rb * i + z * (g * n + e)), val (bo + rb * j + z * (g * n + e))))
        (fun n => laneScale r false q (i % 16) (if full then n else bs)) (elem els i j))

/-- R253, R261, R262: MMAU computes as MMA does, with the elements of the unfolded activation for A: pixel p0 + row, K index k0 + k; positions past the
pixels or the K range count for nothing, padded ones hold the pad value. With a scale shape the scale of a row is the byte of its group's first position, and
0x7F where that is padded. -/
def ActivationsAreUnfolded : Prop :=
  ∀ (r : MatReq) (bk : Block) (els : Tbl Word) (i j f ao bo bs k0 p0 : Nat) (full : Bool) (u : Unfold), Tbl.risingFrom none els = true →
    i < 32 → j < 32 → f < 6 → r.kind = .mma f full ao bo bs (some (u, k0, p0)) → u.shape.fmt = [9, 3, 4, 6, 1, 2].getD f 0 →
    let q := 2 * (i / 16) + j / 16
    (∀ m < 8, r.lanes.getLsbD (8 * q + m) = true) →
    let z := if f < 4 then 1 else 2
    let g := if f < 4 then 32 else 16
    let rb := if full then 64 else 32
    let val := fun (code : Nat) => matVal ([9, 3, 4, 6, 1, 2].getD f 0) code
    let ext := fun (n : Nat) => u.shape.extents.getD n 0
    let st := fun (n : Nat) => (u.shape.strides.getD n 0).toNat
    let p := p0 + i
    let c := fun (k : Nat) => k % ext 0
    let x := fun (k : Nat) => ((p % u.ow * u.sw : Nat) : Int) - u.pw + ((k / ext 0 % u.kw * u.dw : Nat) : Int)
    let y := fun (k : Nat) => ((p / u.ow * u.sh : Nat) : Int) - u.ph + ((k / ext 0 / u.kw * u.dh : Nat) : Int)
    let past := fun (k : Nat) => decide (p ≥ u.ow * u.oh) || decide (k ≥ ext 0 * u.kw * u.kh)
    let padded := fun (k : Nat) => !(decide (0 ≤ x k) && decide (x k < ext 1) && decide (0 ≤ y k) && decide (y k < ext 2))
    let a := fun (k : Nat) => if padded k then val (if z = 1 then u.pad % 256 else u.pad)
      else val (ofBytes (bk.winRead (u.aoff + z * (c k * st 0 + (x k).toNat * st 1 + (y k).toNat * st 2)) z))
    let prods := fun (n : Nat) => ((List.range g).filter fun e => !past (k0 + (g * n + e))).map fun e =>
      (a (k0 + (g * n + e)), val (ofBytes (bk.winRead (bo + rb * j + z * (g * n + e)) z)))
    let gives := fun (scaleA : Nat → Nat) => elem (r.imageOf bk els) i j = groups r f full bs q (i % 16) (j % 16) prods scaleA (elem els i j)
    (u.scale = 0 → gives fun n => laneScale r false q (i % 16) (if full then n else bs)) ∧
    ∀ sh, u.scale ≠ 0 → u.scaleShape = some sh →
      let off := fun (n : Nat) => let k := k0 + g * n
        (u.soff : Int) + (((c k / 32 : Nat) : Int) * sh.strides.getD 0 0 + x k * sh.strides.getD 1 0 + y k * sh.strides.getD 2 0)
      (∀ n < (if full then 2 else 1), past (k0 + g * n) = false ∧ (padded (k0 + g * n) = false → 0 ≤ off n ∧ off n < bk.lpb.window)) →
      gives fun n => if padded (k0 + g * n) then 0x7F else (bk.winByte (off n).toNat).toNat

/-- R253, R255, R257, R259, R260: a matrix request completes no sooner than its duration, whatever else is in the queue: its tile has the
elements and the version it leaves, or its window bytes or registers are the tile's. -/
def MatrixCompletes : Prop :=
  ∀ (s : State) (c q st : Nat) (r : MatReq) (before : List MatReq) (bk : Block), s.findMat c q = some (r, before) → r.start = some st →
    s.block? r.b = some bk →
    (s.coreNow c < st + r.duration → exec (.matrixComplete c q) s = .next s) ∧
    (st + r.duration ≤ s.coreNow c →
      let tile := (s.core c).tile r.tile
      ∃ t y, exec (.matrixComplete c q) s = .next t ∧ t.ms = s.ms ∧ t.block? r.b = some y ∧
        (t.core c).matQ = (s.core c).matQ.filter (fun x => x.id != q) ∧
        t.mp.tokensUsed = s.mp.tokensUsed - (if r.token then 1 else 0) ∧
        (∀ v, r.kind = .accz v → y = bk ∧ ((t.core c).tile r.tile).els = [] ∧ ((t.core c).tile r.tile).ver = v) ∧
        (∀ off v, r.kind = .accld off v → y = bk ∧ ((t.core c).tile r.tile).els = r.image ∧ ((t.core c).tile r.tile).ver = v) ∧
        (∀ f d ao bo bs u, r.kind = .mma f d ao bo bs u → y = bk ∧ ((t.core c).tile r.tile).els = r.image ∧
          ((t.core c).tile r.tile).ver = tile.ver + 1) ∧
        (∀ dst off rg, r.kind = .accst dst off rg → (t.core c).tile r.tile = tile ∧
          (dst = 0 → ∀ a, y.winByte a = overlaid bk off (tileBytes r.image) a) ∧
          (dst = 1 → ∀ a, y.winByte a = overlaid bk off (tileHalves r.image) a) ∧
          (dst = 2 → y.win = bk.win ∧ ∀ l p, r.lanes = maskOf [l] → l < 32 → bk.pend = [p] → p.op = r.id → p.due = none →
            p.forThread r.w l = true → y.pend = [{ p with val := (elem r.image (4 * rg) l).setWidth 64, due := some (s.coreNow c) }])) ∧
        ∀ k, k ≠ r.tile → (t.core c).tile k = (s.core c).tile k)

/-- R248, R268, R356: a claim of a block that is gone, or stands in the Trunk, or is on its way back from it, passes to a resident block that
would issue a request on the tile were it its own; the tile is saved for the block that held it. A saved tile whose number is unclaimed is
loaded for the block of the file's context with the lowest block number. -/
def TilesChangeHands : Prop :=
  ∀ (s : State) (c b k : Nat) (bk : Block), s.block? b = some bk → bk.core? = some c → (s.core c).accown = BitVec.ofNat 32 bk.ctx →
    (∀ d, ((s.core c).tile k).claim = some d → d ≠ b → s.wantsTile c b bk k = true →
      (s.block? d = none →
        ∃ t, exec (.tileClaimTransfer b k) s = .next t ∧ t.ms = s.ms ∧ (t.core c).tile k = { (s.core c).tile k with claim := some b }) ∧
      ∀ z, s.block? d = some z →
        ((∃ x1 x2 x3 x4 x5, z.place = .trunk x1 x2 x3 x4 x5) ∨ (z.restoring = true ∧ ∃ x1 x2 x3, z.place = .moving x1 x2 x3)) →
        ∃ t y, exec (.tileClaimTransfer b k) s = .next t ∧ t.ms = s.ms ∧ (t.core c).tile k = { (s.core c).tile k with claim := some b } ∧
          t.block? d = some y ∧ Tbl.get? y.saved k = some { (s.core c).tile k with claim := none } ∧
          ∀ j, j ≠ k → Tbl.get? y.saved j = Tbl.get? z.saved j) ∧
    (∀ x, (b, bk) ∈ s.blocksOn c → (s.core c).accown ≠ 0 → Tbl.get? bk.saved k = some x → ((s.core c).tile k).claim = none →
      s.claimComing c k b = false → bk.trunkFault (headSector :: tileSectors k) = none →
      (∀ p ∈ s.blocksOn c, p ≠ (b, bk) → (s.core c).accown = BitVec.ofNat 32 p.2.ctx → Tbl.get? p.2.saved k ≠ none → bk.blk < p.2.blk) →
      ∃ t y, exec (.tileAutoload c k) s = .next t ∧ t.ms = s.ms ∧ (t.core c).tile k = { x with claim := some b, stamp := s.coreNow c } ∧
        (t.core c).accused = (s.core c).accused ||| (1#16 <<< k) ∧ t.block? b = some y ∧ Tbl.get? y.saved k = none)

end Sys2Proof.Claims

namespace Sys2Proof.Claims

open Sys2Proof Sys2Proof.Machine

/-! ### Tasks -/

/-- R141, R279: a complete block leaves with the publication of PHASE.dev; its task counts it, and is DONE with its last one. -/
def BlocksComplete : Prop :=
  ∀ (s : State) (b c : Nat) (bk : Block) (k : Task), s.block? b = some bk → bk.core? = some c → s.isComplete b bk c = true → s.cp.master ≠ none →
    Tbl.get? s.cp.tasks bk.task = some k →
    ∃ u : State, exec (.blockCompletion b) s = .next u.evalTasks ∧ u.ms = s.ms.publish s.dev c 2 ∧ u.block? b = none ∧
      (∀ d, d ≠ b → u.block? d = s.block? d) ∧ (∀ e i, ((u.core e).tile i).claim ≠ some b) ∧
      ∃ y, Tbl.get? u.cp.tasks bk.task = some y ∧ y.completed = k.completed + 1 ∧ (∀ i ∈ y.intervals, i.blk ≠ bk.blk) ∧
        (k.st = .running → k.completed + 1 = k.admitted → k.unclaimed = [] → (∀ i ∈ k.intervals, i.blk = bk.blk) →
          y.st = .done ∧ y.value = BitVec.ofNat 64 k.admitted)

/-- R110, R148, R273, R277, R280, R282: the first block of a ready range task owns the whole range, on the core that R277 chooses, with every
thread at the task's entry and of its level; its window reads 0, as a byte does that nothing has written (log 6, DESIGN CHOICE). A task that is kept for the
next run of the node which made it is not admitted (log 168, DESIGN CHOICE). -/
def BlocksAreAdmitted : Prop :=
  (∀ (s : State) (n : Nat) (k : Task), Tbl.get? s.cp.tasks n = some k → k.kept = true → exec (.blockAdmission n) s = .next s) ∧
  ∀ (s : State) (n c : Nat) (k : Task), Tbl.get? s.cp.tasks n = some k → s.ctxEnding k.ctx = false → s.cp.master ≠ none → k.kept = false →
    k.lpb.pop = false → k.st = .ready → k.lpb.lo < k.lpb.hi → s.staggerOk k = true → s.placeFor k.ctx n k.nextBlk k.lpb (fun _ => true) = some c →
    ∃ t y z, exec (.blockAdmission n) s = .next t ∧ t.cyc = s.cyc ∧ t.ms.truth = s.ms.truth ∧ t.block? (bkey n k.nextBlk) = some y ∧
      y.place = .core c ∧ y.lpb = k.lpb ∧ y.ctx = k.ctx ∧ y.task = n ∧ y.blk = k.nextBlk ∧ y.pend = [] ∧ y.win = [] ∧
      (∀ w < k.lpb.warps, ∀ l < 32, (y.thread w l).live = true ∧ (y.thread w l).pc = BitVec.ofNat 64 k.lpb.entry ∧
        (y.thread w l).level = (if k.lpb.sup then .supervisor else .user) ∧
        (y.thread w l).uid = BitVec.ofNat 32 (k.nextBlk * (32 * k.lpb.warps) + (32 * w + l))) ∧
      Tbl.get? t.cp.tasks n = some z ∧ z.st = .running ∧ z.admitted = k.admitted + 1 ∧ z.nextBlk = k.nextBlk + 1 ∧
      ({ b := k.lpb.lo, e := k.lpb.hi, blk := k.nextBlk } : Interval) ∈ z.intervals

/-- R299, R300: a collective whose weights add up to nothing ends every arrived RESAMP of its population with no copy, and counts a
generation. -/
def CollectivesOfNoWeight : Prop :=
  ∀ (s : State) (n : Nat) (k : Task) (a : Arrival) (r : List Arrival) (neg : Bool) (e : Int), Tbl.get? s.cp.tasks n = some k →
    s.arrivals n = some (a :: r) → k.lpb.pop = true → (s.blocksOf n).all (fun p => p.2.core?.isSome && p.2.drain.isNone) = true →
    maxBy (fun (x : Arrival) => x.op.issued) (a :: r) + 64 ≤ s.cyc → s.cp.master ≠ none →
    (resampSums ((a :: r).map fun x => resampWeight x.weight)).2 = .fin neg 0 e →
    ∃ t, exec (.resampCollective n) s = .next t ∧ MemoryKept s t ∧ t.cyc = s.cyc ∧
      Tbl.get? t.cp.tasks n = some { k with gen := k.gen + 1 } ∧
      ∀ b bk, s.block? b = some bk → bk.task = n → ∃ y, t.block? b = some y ∧ (∀ o ∈ y.ops, resampWord o.i = none) ∧
        ∀ w l, (y.thread w l).live = (bk.thread w l).live

/-- R329, R331: a node that may commit is committed: no version of it is provisional any more, and no node inherits from it. The model's own
readings: a record that FTDROP freed stays until no rollback can concern it (log 63, DEDUCED); what the node made is there for good, and what it
freed goes, with its commit (log 168, 169, DESIGN CHOICE). -/
def NodesCommit : Prop :=
  ∀ (s : State) (n : Nat) (k : Task), Tbl.get? s.cp.tasks n = some k → s.mayCommit n k = true →
    ∃ u : State, exec (.nodeCommit n) s = .next u.evalTasks ∧ u.ms.truth = s.ms.truth ∧ u.blocks = s.blocks ∧ (∀ v ∈ u.ms.staged, v.node ≠ some n) ∧
      (∀ p ∈ u.cp.tasks, n ∉ p.2.inherits) ∧
      (∀ p ∈ u.cp.tasks, p.2.maker ≠ some n) ∧
      (∀ i f, Tbl.get? s.cp.futures i = some f → f.freedBy = some n → Tbl.get? u.cp.futures i = none) ∧
      (k.dropped = false → ∃ y, Tbl.get? u.cp.tasks n = some y ∧
        { y with maker := k.maker, kept := k.kept, droppedBy := k.droppedBy } = { k with committed := true }) ∧
      (k.dropped = true → k.droppedBy = none → Tbl.get? u.cp.tasks n = none)

/-- R331, R332: a rollback ends the blocks of every node of the affected set, discards their versions, a byte falling back to what the version lay
over, and puts them back to WAITING. The model's own readings: a node that goes back keeps its launch block, but for an entry that is chosen again
(log 67, DEDUCED); a future that such a node made is kept for its next run, and one that it freed is there again (log 168, 169, DESIGN CHOICE). -/
def NodesRollBack : Prop :=
  ∀ (s : State) (n : Nat), Tbl.risingFrom none s.blocks = true → s.mp.rollDue = [(n, false)] → (s.nodeTag n).isSome = true →
    s.cp.master ≠ none →
    let set := s.cp.affected [n]
    ∃ u : State, exec (.rollback [n]) s = .next u.evalTasks ∧ u.mp.rollDue = [] ∧ (∀ v ∈ u.ms.staged, ∀ x ∈ set, v.node ≠ some x) ∧
      (∀ pa v, s.ms.staged = [{ node := some n, loc := .byte pa, prior := .num v }] →
        ∀ a, Memory.read u.ms.truth a = if a = pa then BitVec.ofNat 8 v else Memory.read s.ms.truth a) ∧
      (∀ b bk, s.block? b = some bk → bk.task ∈ set → u.block? b = none) ∧
      (∀ b bk, s.block? b = some bk → bk.task ∉ set → u.block? b = some bk) ∧
      (∀ i f, Tbl.get? s.cp.futures i = some f → ∃ z, Tbl.get? u.cp.futures i = some z ∧ (∀ m ∈ set, f.maker = some m → z.kept = true) ∧
        ∀ m ∈ set, f.freedBy = some m → z.freedBy = none) ∧
      ∀ x ∈ set, ∀ k, Tbl.get? s.cp.tasks x = some k → ∃ y, Tbl.get? u.cp.tasks x = some y ∧ y.st = .waiting ∧
        y.committed = k.committed ∧ y.inherits = [] ∧ y.intervals = [] ∧ y.admitted = 0 ∧ (k.lpb.schedset = 0 → y.lpb = k.lpb)

/-- R147, R311: a context whose end has begun and which has no block left goes with all that is its own, and the host is told the first
cause. -/
def ContextsEnd : Prop :=
  ∀ (s : State) (x : Nat) (k : Ctx) (e : Nat × DWord × DWord), Tbl.get? s.ctxs x = some k → k.ending = some e →
    (∀ p ∈ s.blocks, p.2.ctx ≠ x) → s.cp.master ≠ none →
    ∃ u : State, exec (.contextEnd x) s = .next u.evalTasks ∧ Tbl.get? u.ctxs x = none ∧ (∀ y, y ≠ x → Tbl.get? u.ctxs y = Tbl.get? s.ctxs y) ∧
      (∀ p ∈ u.cp.tasks, p.2.ctx ≠ x) ∧ (∀ p ∈ u.cp.futures, p.2.ctx ≠ x) ∧ (∀ p ∈ u.cp.shapes, p.2.ctx ≠ x) ∧
      u.mp.records = s.mp.records ++ [.ended x e.1 e.2.1 e.2.2] ∧ u.mp.outbox = s.mp.outbox ++ [.notice (.ended x e.1 e.2.1 e.2.2)]

/-! ### Drains, relocation, restore -/

/-- R28, R107, R311, R312, R313, R318: a drained block leaves its core, which publishes its view; the transfer takes the time of its size. Once
the end of its context has begun it goes nowhere. The model's own readings: where the core chosen for it may not take it any more, it goes to another; where
none can, the move is off and it goes on where it stands, but from a core that has become absent it begins its way to the Trunk, if the Cellar has
room (log 129, DEDUCED); a core on which another block claims a tile of its numbers may not take it (log 112, DESIGN CHOICE). -/
def DrainsEnd : Prop :=
  ∀ (s : State) (b c q : Nat) (bk : Block), s.block? b = some bk → bk.core? = some c → s.drained b bk c = true →
    (s.ctxEnding bk.ctx = true → exec (.drainEnd b) s = .next s) ∧
    (s.ctxEnding bk.ctx = false →
    let left := fun (place : Place) => ∃ t y, exec (.drainEnd b) s = .next t ∧ t.ms = s.ms.leave s.dev c ∧ t.cyc = s.cyc ∧
      t.block? b = some y ∧ y.drain = none ∧ y.origin = c ∧ y.warps = bk.warps ∧ y.rows = bk.rows ∧ y.win = bk.win ∧ y.carried = bk.carried ∧
      y.place = place
    let kept := fun (parked : Bool) => Place.trunk parked c q (s.cyc + (1024 + ceilDiv bk.size 128)) none
    let goes := fun (e : Nat) => Place.moving e (s.cyc + (1024 + ceilDiv bk.size (if dieOf c = dieOf e then 256 else 128))) q
    let other := s.placeFor bk.ctx bk.task bk.blk bk.lpb fun d => d != c && !s.tileClash b d
    (∀ e, bk.drain = some (.toCore q e) →
      (s.coreOk e = true → s.tileClash b e = false →
        left (goes e)) ∧
      (s.coreOk e = false ∨ s.tileClash b e = true →
        (∀ d, other = some d → left (goes d)) ∧
        (other = none → ∃ t y, exec (.drainEnd b) s = .next t ∧ t.ms = s.ms ∧ t.cyc = s.cyc ∧ t.block? b = some y ∧ y.place = bk.place ∧
          y.rows = bk.rows ∧ y.win = bk.win ∧ ((s.cap c).present = true → y.drain = none) ∧
          ((s.cap c).present = false → bk.isPop = false → bk.live ≠ [] →
            y.drain = some (.toTrunk s.cyc false) ∨ (y.drain = none ∧ .switchRefused b ∈ t.mp.records))))) ∧
    ∀ parked, bk.drain = some (.toTrunk q parked) → left (kept parked))

/-- R4, R131, R222, R311, R313–R315: a block resumes on its core no sooner than its transfer takes, its threads and its window as they were, a row under
a new number with its contents, a hold that counts core cycles with as many left; then the waits of threads that are over end (R287). Once the
end of its context has begun it goes no further. Where its core has become absent it goes on to another, as soon as one can take it (log 139,
DEDUCED). Its copy requests enter the core's queue as far as there is room; the others wait with it (log 141,
DESIGN CHOICE). -/
def BlocksResume : Prop :=
  ∀ (s : State) (b c q resume : Nat) (bk : Block), s.block? b = some bk → bk.place = .moving c resume q →
    (s.cyc < resume ∨ s.ctxEnding bk.ctx = true → exec (.relocationResume b) s = .next s) ∧
    (resume ≤ s.cyc → s.ctxEnding bk.ctx = false → (s.cap c).present = false →
      let other := s.placeFor bk.ctx bk.task bk.blk bk.lpb fun d => !s.tileClash b d
      (other = none → exec (.relocationResume b) s = .next s) ∧
      ∀ d, other = some d → ∃ t y, exec (.relocationResume b) s = .next t ∧ t.ms = s.ms ∧ t.cyc = s.cyc ∧ t.block? b = some y ∧
        y.place = .moving d (s.cyc + (1024 + ceilDiv bk.size (if bk.restoring = false ∧ dieOf c = dieOf d then 256 else 128))) q ∧
        y.warps = bk.warps ∧ y.rows = bk.rows ∧ y.win = bk.win) ∧
    (resume ≤ s.cyc → s.ctxEnding bk.ctx = false → (s.cap c).present = true →
      ∃ (t : State) (y : Block), exec (.relocationResume b) s = .next t.evalTasks ∧ t.ms.truth = s.ms.truth ∧ t.cyc = s.cyc ∧ t.block? b = some y ∧
      y.place = .core c ∧ y.win = bk.win ∧
      (∀ w l, (y.thread w l).pc = (bk.thread w l).pc ∧ (y.thread w l).o = (bk.thread w l).o ∧ (y.thread w l).p = (bk.thread w l).p ∧
        (y.thread w l).stack = (bk.thread w l).stack ∧ (y.thread w l).live = (bk.thread w l).live ∧ (y.thread w l).ready = 0) ∧
      (∀ w l n, .untilCore n ∈ (bk.thread w l).holds → .untilCore (n - bk.leftAt + s.coreNow c) ∈ (y.thread w l).holds) ∧
      (∀ w, (y.warp w).s = (bk.warp w).s) ∧
      (let room := 64 - (s.core c).copyQ.length
       bk.drain = none → (∀ p ∈ s.blocksOn c, p.2.carried = []) →
        (t.core c).copyQ.map (·.id) = (s.core c).copyQ.map (·.id) ++ (bk.carried.map (·.id)).take room ∧
        y.carried.map (·.id) = (bk.carried.map (·.id)).drop room) ∧
      ∀ r r', bk.held = [r] → s.freeRow c (r % 4) = some r' → y.row r' = bk.row r ∧
        ∀ w n, bk.mapOf w n = some (.row r) → y.mapOf w n = some (.row r'))

/-- R320: a block in the Trunk whose core is chosen begins its transfer when its image is written and nothing leaves that core any more; not
before. -/
def BlocksAreRestored : Prop :=
  ∀ (s : State) (b c left q saved : Nat) (parked : Bool) (bk : Block), s.block? b = some bk → bk.isPop = false →
    bk.place = .trunk parked left q saved (some c) → s.ctxEnding bk.ctx = false → s.coreOk c = true →
    (s.outgoing c = false → saved < s.cyc → ∃ t y, exec (.restore b) s = .next t ∧ t.ms = s.ms ∧ t.cyc = s.cyc ∧ t.block? b = some y ∧
      y.place = .moving c (s.cyc + (1024 + ceilDiv bk.size 128)) q ∧ y.restoring = true ∧ y.warps = bk.warps ∧ y.rows = bk.rows ∧
      y.win = bk.win ∧ y.carried = bk.carried) ∧
    (s.outgoing c = true ∨ s.cyc ≤ saved → exec (.restore b) s = .next s)

/-- R322, R326, R340: in a maintenance slot a block that must leave its core begins to drain for the core that R277 chooses, at the slot's boundary if
not before (log 115, DESIGN CHOICE). -/
def BlocksMigrate : Prop :=
  ∀ (s : State) (b c d : Nat) (bk : Block), s.block? b = some bk → bk.core? = some c → s.inMaintenance = true → s.movable b bk = true →
    s.mustLeave bk c = true → s.placeFor bk.ctx bk.task bk.blk bk.lpb (fun e => e != c && !s.tileClash b e) = some d →
    ∃ t y, exec (.migration b) s = .next t ∧ OnlyAt s t b ∧ t.block? b = some y ∧ y.drain = some (.toCore s.cyc d) ∧ y.warps = bk.warps ∧
      y.place = bk.place ∧ y.win = bk.win ∧
      (s.blocks = [(b, bk)] → (s.beginMaintenance.block? b).map (·.drain) = some (some (.toCore s.cyc d)))

/-! ### The slot table, budgets, scans -/

/-- R12, R15, R16, R281, R335, R337, R338: a slot boundary acts once, in the first cycle of its slot: a bank committed in an earlier cycle
swaps, the budgets of the clusters that are not gated and the token count are sampled, and the dies that firmware chose are fenced. An election
that is due comes first (R278), and clusters are un-gated before, and gated after, the sampling (log 115, DESIGN CHOICE). -/
def SlotBoundaries : Prop :=
  ∀ s : State, (s.cyc % Config.slotCycles ≠ 0 ∨ s.slotSeen = some s.slotNumber → exec .slotBoundary s = .next s) ∧
    (s.cyc % Config.slotCycles = 0 → s.slotSeen ≠ some s.slotNumber →
      ∃ t, exec .slotBoundary s = .next t ∧ t.slotSeen = some s.slotNumber ∧ t.cyc = s.cyc ∧ t.mp.fenceDue = [] ∧
        (∀ d ∈ s.mp.fenceDue, d ∉ t.mp.dies) ∧
        (s.mp.fenceDue = [] → (s.cp.master ≠ none → t.inMaintenance = false → t.ms = s.ms) ∧ t.mp.tokens = s.mp.tokenReg ∧
          (∀ d, s.cp.master = none → minBy id s.mp.dies = some d → t.cp.master = some d) ∧
          (1 ≤ s.mp.gateSlots → ∀ k x, Tbl.get? s.mp.clusters k = some x → (t.inMaintenance = false → (t.cluster k).gated = x.gated) ∧
            (t.cluster k).peak = (if (t.cluster k).gated = false then x.peakReg else if x.gated then x.peak else 0) ∧
            (t.cluster k).remaining = (if (t.cluster k).gated = false then x.energyReg else if x.gated then x.remaining else 0)) ∧
          (∀ c, s.mp.commit = some c → c ≠ s.cyc →
            t.mp.active = s.mp.shadow ∧ t.mp.shadow = s.mp.active ∧ t.mp.commit = none) ∧
          (s.mp.commit = none ∨ s.mp.commit = some s.cyc →
            t.mp.active = s.mp.active ∧ t.mp.shadow = s.mp.shadow ∧ t.mp.commit = s.mp.commit)))

/-- Only the management plane may differ. -/
def OnlyMgmt (s t : State) : Prop :=
  t.ms = s.ms ∧ t.cyc = s.cyc ∧ t.cores = s.cores ∧ t.blocks = s.blocks ∧ t.ctxs = s.ctxs ∧ t.cp = s.cp

/-- R14, R15, R16: firmware writes kinds and the rotation period into the shadow bank, a write that would remove the last
maintenance slot or is out of range is refused and recorded, and the commit bit notes its cycle. -/
def FirmwareWritesTheShadowBank : Prop :=
  ∀ (s : State) (slot kind v : Nat),
    (∃ t, exec .slotTableCommit s = .next t ∧ OnlyMgmt s t ∧ t.mp = { s.mp with commit := some s.cyc }) ∧
    (∃ t, exec (.slotKindWrite slot kind) s = .next t ∧ OnlyMgmt s t ∧ t.mp.active = s.mp.active ∧
      (1 ∈ s.mp.shadow.kinds.set slot kind → t.mp = { s.mp with shadow := { s.mp.shadow with kinds := s.mp.shadow.kinds.set slot kind } }) ∧
      (1 ∈ s.mp.shadow.kinds → 1 ∉ s.mp.shadow.kinds.set slot kind → t.mp = { s.mp with records := s.mp.records ++ [.firmware] })) ∧
    ∃ t, exec (.rperiodWrite v) s = .next t ∧ OnlyMgmt s t ∧
      (1 ≤ v ∧ v ≤ 64 → t.mp = { s.mp with shadow := { s.mp.shadow with rperiod := v } }) ∧
      (v = 0 ∨ 64 < v → t.mp = { s.mp with records := s.mp.records ++ [.firmware] })

/-- R9, R276, R281, R317, R321, R337, R338: the other firmware writes change their own register and no other. That the Cellar's size is written
before stage 3 alone is presumed (log 100, PRESUMED). -/
def FirmwareWritesItsRegisters : Prop :=
  ∀ (s : State) (i k n : Nat) (r : BindRec) (e : Word),
    (∃ t, exec (.firmwareRegisterWrite (.bind i r)) s = .next t ∧ OnlyMgmt s t ∧ t.mp.active = s.mp.active ∧
      Tbl.get? t.mp.shadow.binds i = some r ∧ ∀ j, j ≠ i → Tbl.get? t.mp.shadow.binds j = Tbl.get? s.mp.shadow.binds j) ∧
    (∃ t, exec (.firmwareRegisterWrite (.energy k e)) s = .next t ∧ OnlyMgmt s t ∧
      t.cluster k = { s.cluster k with energyReg := e.toNat } ∧ ∀ j, j ≠ k → t.cluster j = s.cluster j) ∧
    (∃ t, exec (.firmwareRegisterWrite (.peak k e)) s = .next t ∧ OnlyMgmt s t ∧
      t.cluster k = { s.cluster k with peakReg := e.toNat } ∧ ∀ j, j ≠ k → t.cluster j = s.cluster j) ∧
    (∃ t, exec (.firmwareRegisterWrite (.tokens n)) s = .next t ∧ OnlyMgmt s t ∧ t.mp = { s.mp with tokenReg := n }) ∧
    (∃ t, exec (.firmwareRegisterWrite (.threshold n)) s = .next t ∧ OnlyMgmt s t ∧ t.mp = { s.mp with threshold := n }) ∧
    (∃ t, exec (.firmwareRegisterWrite (.gateSlots n)) s = .next t ∧ OnlyMgmt s t ∧ t.mp = { s.mp with gateSlots := n }) ∧
    (∃ t, exec (.firmwareRegisterWrite (.clearRecord n)) s = .next t ∧ OnlyMgmt s t ∧ t.mp = { s.mp with records := s.mp.records.eraseIdx n }) ∧
    (s.mp.stage < 3 → ∃ t, exec (.firmwareRegisterWrite (.cellar n)) s = .next t ∧ OnlyMgmt s t ∧ t.mp = { s.mp with cellarGiB := n }) ∧
    (3 ≤ s.mp.stage → exec (.firmwareRegisterWrite (.cellar n)) s = .next s)

/-- A core that a spare stands for: the accumulator file goes over (R6, R247); that its latch, and what the scan tests and has tested, go over
too is the model's reading (log 113, DEDUCED). -/
def spareFor (k : Core) : Core :=
  { Core.fresh with tiles := k.tiles, accown := k.accown, accused := k.accused, latch := k.latch, passed := k.passed, scan := k.scan,
                    verdict := k.verdict, part := k.part, spent := k.spent }

/-- R13, R325, R326, R331: a die's scan takes its next core in the first cycle of a window; how it will end shows in the window's last cycle, and
at the next window's first cycle it is over: that the verdict is an event of the last cycle is the model's choice (log 115). A spare core takes over
the latch and the scan (log 113, DEDUCED). A core that
passed keeps the scan's first cycle; one that failed waits for its retest and is reported, every uncommitted node that issued there rolls
back, and it passes its retest only twice over. -/
def Scans : Prop :=
  ∀ (s : State) (die c first : Nat),
    (let k := s.cyc / Config.scanPitch
     let d := 64 * die + k % 64
     s.cyc % Config.scanPitch = 0 → Tbl.get? s.scanSeen die ≠ some k → die ∈ s.mp.dies → (s.cap d).present = true →
     ∃ t, exec (.scanStart die) s = .next t ∧ t.blocks = s.blocks ∧ t.ms = s.ms ∧ Tbl.get? t.scanSeen die = some k ∧
       t.core d = { s.core d with scan := some s.cyc, verdict := none } ∧ ∀ e, e ≠ d → t.core e = s.core e) ∧
    (s.cyc % Config.scanPitch ≠ 0 → exec (.scanStart die) s = .next s) ∧
    (∀ p, (s.core c).scan = some first →
      (s.cyc + 1 < first + Config.scanPitch → exec (.scanEnd c p) s = .next s) ∧
      (first + Config.scanPitch ≤ s.cyc + 1 → ∃ t, exec (.scanEnd c p) s = .next t ∧ t.blocks = s.blocks ∧ t.ms = s.ms ∧ t.mp = s.mp ∧
        t.core c = { s.core c with verdict := some p } ∧ ∀ e, e ≠ c → t.core e = s.core e)) ∧
    (∀ k, s.cores = [(c, k)] → k.scan = some first → first + Config.scanPitch ≤ s.cyc →
      (k.verdict = some true → s.scanEnds.blocks = s.blocks ∧ s.scanEnds.mp = s.mp ∧
        s.scanEnds.core c = { k with scan := none, verdict := none, passed := some first }) ∧
      (k.verdict = some false → s.scanEnds.blocks = s.blocks ∧
        s.scanEnds.core c = { k with scan := none, verdict := none, failed := true } ∧
        .notice (.scanfail c (s.exposed c fun t => !(t.node && !t.committed))) ∈ s.scanEnds.mp.outbox ∧
        ∀ n ∈ s.ranThere c, (n, false) ∈ s.scanEnds.mp.rollDue)) ∧
    ((s.core c).failed = true → s.inMaintenance = true → s.emptied c = true → (s.cap c).present = true →
      (∃ t, exec (.coreRetest c true true) s = .next t ∧ t.mp = s.mp ∧ t.core c = { s.core c with failed := false }) ∧
      ∀ p q, (p && q) = false →
        (∀ n ∈ s.tainted [c], ∃ t, exec (.coreRetest c p q) s = .next t ∧ (n, false) ∈ t.mp.rollDue) ∧
        (0 < (s.cluster (clusterOf c)).spares → ∃ t, exec (.coreRetest c p q) s = .next t ∧ t.core c = spareFor (s.core c) ∧
          (t.cluster (clusterOf c)).spares = (s.cluster (clusterOf c)).spares - 1) ∧
        ((s.cluster (clusterOf c)).spares = 0 → ∃ t, exec (.coreRetest c p q) s = .next t ∧ (t.cap c).present = false))

/-! ### Failures, spares, gating, classes, leases -/

/-- R278, R335: a fenced die has no core present and no home slice left, and the master's election is due if it was there; the lowest die
left is elected. That the event is the decision to fence is the model's choice (log 80, DEDUCED), and that a fence acts at once though no master
is elected (log 145, DESIGN CHOICE). -/
def DiesAreFenced : Prop :=
  ∀ (s : State) (die : Nat),
    (die ∈ s.mp.dies → ∃ u : State, exec (.dieFence die) s = .next u.evalTasks ∧ die ∉ u.mp.dies ∧ die ∈ u.ms.lost ∧
      (∀ c, dieOf c = die → c < 256 → (u.cap c).present = false ∧ u.core c = { Core.fresh with passed := (s.core c).passed }) ∧
      (s.cp.master = some die → u.cp.master = none)) ∧
    (die ∉ s.mp.dies → exec (.dieFence die) s = .next s) ∧
    ∀ d, s.cp.master = none → minBy id s.mp.dies = some d →
      ∃ u : State, exec .masterElection s = .next u.evalTasks ∧ u.cp.master = some d ∧ u.blocks = s.blocks ∧ u.ms = s.ms

/-- R7, R330, R333: a failed row that is held, a column, a core or a cluster waits for its spare; a free row has its spare at once; a core whose
columns fail with no spare column left is absent from then on, which is reported as a failed scan (R330). That it is absent at once, with no wait for
a maintenance slot, is the model's reading (log 81, DEDUCED); of a failed cluster, that it is emptied only from a slot in which it took no block (log 115,
DESIGN CHOICE). -/
def UnitsFail : Prop :=
  ∀ (s : State) (c n k : Nat),
    (n ∉ (s.cap c).dead → n ∉ (s.cap c).failing → ∃ t, exec (.hardwareUnitFailure (.row c n)) s = .next t ∧ OnlyMgmt s t ∧
      (s.rowHeld c n = true → t.cap c = { s.cap c with failing := (s.cap c).failing ++ [n] }) ∧
      (s.rowHeld c n = false → (s.cap c).failing.length < (s.cap c).spareRows →
        t.cap c = { s.cap c with spareRows := (s.cap c).spareRows - 1 })) ∧
    ((s.cap c).present = true → (s.cap c).spareCol = true → (s.cap c).badCol = false →
      ∃ t, exec (.hardwareUnitFailure (.column c)) s = .next t ∧ OnlyMgmt s t ∧ t.cap c = { s.cap c with badCol := true }) ∧
    ((s.cap c).present = true → (s.cap c).spareCol = false ∨ (s.cap c).badCol = true →
      (∃ t, exec (.hardwareUnitFailure (.column c)) s = .next t ∧
        .notice (.scanfail c (s.exposed c fun y => !(y.node && !y.committed))) ∈ t.mp.outbox) ∧
      ∃ t, exec (.hardwareUnitFailure (.column c)) s = .next t ∧ t.ms = s.ms ∧ t.cyc = s.cyc ∧ t.ctxs = s.ctxs ∧ (t.cap c).present = false ∧
        (t.cap c).rows = 0 ∧ (t.core c).scan = none ∧ ∀ m ∈ s.tainted [c], (m, false) ∈ t.mp.rollDue) ∧
    (∃ t, exec (.hardwareUnitFailure (.core c)) s = .next t ∧ OnlyMgmt s t ∧ t.cap c = { s.cap c with broken := (s.cap c).present }) ∧
    ((s.cluster k).present = true → ∃ t, exec (.hardwareUnitFailure (.cluster k)) s = .next t ∧ OnlyMgmt s t ∧
      t.cluster k = { s.cluster k with broken := true })

/-- R6, R11, R114, R333: a spare row takes the failed one's place when the row is free; without one the row leaves its bank, but not while the
shares reserved there need it (log 138, DEDUCED). A column, a core and a cluster are replaced in a maintenance slot alone, a core and a cluster
once they are empty; programs do not see it: the latch and the scan go over to a spare core (log 113, DEDUCED). -/
def SparesSubstitute : Prop :=
  ∀ (s : State) (c n k : Nat),
    (n ∈ (s.cap c).failing → s.rowHeld c n = false → ∃ t, exec (.spareSubstitution (.row c n)) s = .next t ∧ OnlyMgmt s t ∧
      ((s.cap c).failing.length ≤ (s.cap c).spareRows → n ∉ (t.cap c).failing ∧ (t.cap c).spareRows = (s.cap c).spareRows - 1 ∧
        (t.cap c).rows = (s.cap c).rows ∧ (t.cap c).dead = (s.cap c).dead) ∧
      ((s.cap c).spareRows = 0 →
        (s.reserved c + 1 + ((s.cap c).dead.filter (· % 4 == n % 4)).length ≤ 1024 →
          n ∉ (t.cap c).failing ∧ n ∈ (t.cap c).dead ∧ (t.cap c).rows = (s.cap c).rows - 1) ∧
        (1024 < s.reserved c + 1 + ((s.cap c).dead.filter (· % 4 == n % 4)).length → t.cap c = s.cap c))) ∧
    ((s.cap c).badCol = true → s.inMaintenance = true → ∃ t, exec (.spareSubstitution (.column c)) s = .next t ∧ OnlyMgmt s t ∧
      t.cap c = { s.cap c with badCol := false, spareCol := false }) ∧
    (s.inMaintenance = false → exec (.spareSubstitution (.column c)) s = .next s ∧ exec (.spareSubstitution (.core c)) s = .next s ∧
      exec (.spareSubstitution (.cluster k)) s = .next s) ∧
    ((s.cap c).broken = true → (s.cap c).present = true → s.inMaintenance = true → s.emptied c = true →
      0 < (s.cluster (clusterOf c)).spares → ∃ t, exec (.spareSubstitution (.core c)) s = .next t ∧ t.core c = spareFor (s.core c) ∧
        t.cap c = .fresh ∧ t.blocks = s.blocks) ∧
    ((s.cluster k).broken = true → s.inMaintenance = true → (List.range 8).all (fun i => s.emptied (8 * k + i)) = true →
      0 < Tbl.getD s.mp.spareCl (k / 8) 0 → ∃ t, exec (.spareSubstitution (.cluster k)) s = .next t ∧ (t.cluster k).broken = false ∧
        (t.cluster k).spares = 1 ∧ Tbl.getD t.mp.spareCl (k / 8) 0 = Tbl.getD s.mp.spareCl (k / 8) 0 - 1 ∧
        ∀ i < 8, (s.cap (8 * k + i)).present = true → t.core (8 * k + i) = spareFor (s.core (8 * k + i)))

/-- R322, R336, R338, R340: an idle cluster that no block stands in or is bound for is gated, with no budget and nothing left in its instruction
caches and TLBs; a gated one that is needed comes back with cleared accumulator files; an empty cluster changes its class while another is
emptied first, beginning in a slot in which no block was admitted there; and a lease ends at its cycle. -/
def ClustersAndLeases : Prop :=
  ∀ (s : State) (k cls x : Nat),
    let empty := (List.range 8).all (fun i => s.emptied (8 * k + i))
    (s.inMaintenance = true → (s.cluster k).present = true → (s.cluster k).gated = false → (s.cluster k).broken = false →
      s.mp.gateSlots ≤ (s.cluster k).idle → s.allScanned k = true → empty = true →
      ∃ t, exec (.clusterGating k) s = .next t ∧ (t.cluster k).gated = true ∧ t.cyc = s.cyc ∧ t.cp = s.cp ∧
        (t.cluster k).peak = 0 ∧ (t.cluster k).remaining = 0 ∧
        ∀ i < 8, Tbl.get? t.ms.icache (8 * k + i) = none ∧ Tbl.get? t.ms.tlb (8 * k + i) = none ∧
          ∀ j < 16, ((t.core (8 * k + i)).tile j).claim = none) ∧
    (s.inMaintenance = true → (s.cluster k).gated = true → (s.cluster k).broken = false → s.needs k = true →
      ∃ t, exec (.clusterUngating k) s = .next t ∧ (t.cluster k).gated = false ∧ (t.cluster k).idle = 0 ∧ t.ms = s.ms ∧ t.blocks = s.blocks ∧
        ∀ i < 8, (t.core (8 * k + i)).accown = 0 ∧ ∀ j, (t.core (8 * k + i)).tile j = .zero) ∧
    (s.inMaintenance = true → cls ≤ 2 → (s.cluster k).present = true →
      ∃ t, exec (.classReassignment k cls) s = .next t ∧
        (empty = true → t.ms = s.ms ∧ t.cyc = s.cyc ∧ t.blocks = s.blocks ∧ t.ctxs = s.ctxs ∧ t.cp = s.cp ∧
          (t.cluster k).cls = cls ∧ (t.cluster k).emptying = false ∧ (∀ c, clusterOf c ≠ k → t.core c = s.core c) ∧
          ∀ i < 8, t.core (8 * k + i) = { s.core (8 * k + i) with matBusy := 0, tiles := (t.core (8 * k + i)).tiles } ∧
            ∀ j, (t.core (8 * k + i)).tile j = { (s.core (8 * k + i)).tile j with stamp := 0 }) ∧
        (empty = false → OnlyMgmt s t ∧ (t.cluster k).cls = (s.cluster k).cls ∧
          (t.cluster k).emptying = ((s.cluster k).emptying || !(s.cluster k).admitted))) ∧
    ∀ y, Tbl.get? s.ctxs x = some y → y.lease = .active ∨ y.lease = .suspended →
      ∃ t, exec (.leaseExpiry x) s = .next t ∧ t.ms = s.ms ∧ t.blocks = s.blocks ∧
        Tbl.get? t.ctxs x = some (if y.leaseEnd ≤ s.cyc then { y with lease := .expired } else y)

/-! ### Boot and messages -/

/-- R10, R317, R337, R341, R347, R351: boot goes through its stages in order, each event once; a stage out of turn changes nothing. Whether the
image is good depends on the image and on a verification that are constants of the model (log 11). A device whose HBM training failed
stays at stage 2. That DEVICE_RESET leaves the whole reset state, its memory included, is the model's choice (log 93, DEDUCED), and that the
choices to come outlive it (log 1). -/
def BootStages : Prop :=
  ∀ (s : State) (dev cyc : Nat),
    (s.mp.stage = 0 → ∃ t, exec .bootRomStart s = .next t ∧ OnlyMgmt s t ∧ t.mp = { s.mp with stage := 1 }) ∧
    (s.mp.stage = 1 → imageGood = true → ∃ t, exec .bootImageVerify s = .next t ∧ OnlyMgmt s t ∧ t.mp = { s.mp with stage := 2 }) ∧
    (s.mp.stage = 1 → imageGood = false → exec .bootImageVerify s = .next s) ∧
    (s.mp.stage = 2 → s.mp.hbmFailed = false →
      (∃ t, exec (.hbmTraining true) s = .next t ∧ OnlyMgmt s t ∧ t.mp = { s.mp with aes := true, stage := 3 }) ∧
      ∃ t, exec (.hbmTraining false) s = .next t ∧ OnlyMgmt s t ∧ t.mp = { s.mp with hbmFailed := true }) ∧
    (s.mp.hbmFailed = true → ∀ ok, exec (.hbmTraining ok) s = .next s) ∧
    (s.mp.stage = 3 → ∃ t, exec (.fabricJoin true dev cyc) s = .next t ∧ t.cyc = cyc ∧ t.ms = s.ms ∧ t.blocks = s.blocks ∧
      t.mp.dev = some dev ∧ t.mp.host = true ∧ t.mp.stage = 4 ∧ t.mp.active = s.mp.active ∧ t.mp.shadow = s.mp.shadow) ∧
    (s.mp.stage = 4 → ∃ t, exec .attestationReady s = .next t ∧ OnlyMgmt s t ∧ t.mp.stage = 5 ∧ t.mp.tokenReg = 2048 ∧
      ∀ k < 32, (s.cluster k).present = true → (t.cluster k).energyReg = 1200 ∧ (t.cluster k).peakReg = 80000) ∧
    exec .deviceReset s = .next { State.reset with agenda := s.agenda } ∧
    (s.mp.stage ≠ 0 → exec .bootRomStart s = .next s) ∧ (s.mp.stage ≠ 1 → exec .bootImageVerify s = .next s) ∧
    (s.mp.stage ≠ 2 → ∀ ok, exec (.hbmTraining ok) s = .next s) ∧
    (∀ ok, s.mp.stage ≠ 3 ∨ ok = false → exec (.fabricJoin ok dev cyc) s = .next s) ∧
    (s.mp.stage ≠ 4 → exec .attestationReady s = .next s)

/-- A state with one more STATUS sent. -/
def sentStatus (s : State) (h : MsgHdr) (code value : Nat) : State :=
  { s with mp := { s.mp with outbox := s.mp.outbox ++ [.status h.tag code value] } }

/-- A message that R345 refuses by its sender, its payload, its values or the boot stage: the STATUS code of the table's first row
that matches. -/
def refusalOf (s : State) (h : MsgHdr) (known inRange credential : Bool) : Option Nat :=
  match h.sender with
  | .node => some 3
  | .device => if !known then some 5 else if h.bad || !inRange then some 6 else if credential then some 3 else if s.mp.stage < 5 then some 4 else none
  | .host => if !known then some 5 else if h.bad || !inRange then some 6 else if s.mp.stage < 5 then some 4 else none

/-- The context a message names, whether its other values are in range, and whether only a credential holder may send it. -/
def messageOf (s : State) (i : Instr) : Option (MsgHdr × Bool × Bool) :=
  let has := fun (x : Nat) => (Tbl.get? s.ctxs x).isSome
  match i with
  | .launch h x a _ => some (h, has x && a.toNat % 256 == 0, false)
  | .shapeCreate h x f => some (h, has x && decide (1 ≤ f.dims.toNat ∧ f.dims.toNat ≤ 4) && f.reserved == 0, false)
  | .shapeFree h x _ => some (h, has x, false)
  | .ctxnew h _ _ _ => some (h, true, true)
  | .ctxend h x => some (h, has x, true)
  | .lease h x _ => some (h, has x, true)
  | .telem h x => some (h, has x, false)
  | .capread h => some (h, true, false)
  | .keyset h n _ => some (h, decide (1 ≤ n ∧ n ≤ 15), true)
  | _ => none

/-- R345: a message that the table refuses has no effect but its STATUS. -/
def MessagesAreRefused : Prop :=
  ∀ (s : State) (i : Instr) (h : MsgHdr) (ok cred : Bool) (code : Nat), messageOf s i = some (h, ok, cred) →
    refusalOf s h true ok cred = some code → exec i s = .next (sentStatus s h code 0)

/-- R345: a message of no defined code is answered with STATUS 5, or 3 where its sender is neither of the two kinds. -/
def UnknownMessages : Prop :=
  ∀ (s : State) (h : MsgHdr) (n : Nat), exec (.unknownMessageCode h n) s = .next (sentStatus s h (if h.sender = .node then 3 else 5) 0)

/-- R346: the identity word's fields: vendor, part, zeros, device number or 0xFF before join, boot stage, stepping. -/
def identityWord (s : State) : Nat :=
  0xABA0 * 2 ^ 48 + 0x4256 * 2 ^ 32 + 0 * 2 ^ 24 + (match s.mp.dev with | some d => d | none => 0xFF) * 2 ^ 16 + s.mp.stage * 2 ^ 8 + 0xB1

end Sys2Proof.Claims

/-- R344, R345, R346: IDENT is answered with status 0 and the identity word, whoever sends it and at whatever stage. That it is answered even where
its payload is malformed is the model's choice (log 85, DEDUCED). -/
def Obligations.IdentityIsAnswered : Prop :=
  ∀ (s : State) (h : MsgHdr), exec (.ident h) s = .next (sentStatus s h 0 (identityWord s))

namespace Sys2Proof.Claims

open Sys2Proof Sys2Proof.Machine

/-- R345, R347, R350: ATTEST is answered whoever sends it and at whatever stage; its report begins with the nonce and the identity word. That it is
answered even where its payload is malformed is the model's choice (log 85, DEDUCED). -/
def AttestationIsGiven : Prop :=
  ∀ (s : State) (h : MsgHdr) (nonce : Nat), ∃ bs, exec (.attest h nonce) s = .next { s with mp := { s.mp with outbox := s.mp.outbox ++ [.payload h.tag bs] } } ∧
    bs.take 64 = toBytes 64 nonce ∧ (bs.drop 64).take 8 = toBytes 8 (identityWord s)

/-- R201, R215, R263, R317, R344: CTXNEW makes a context, in version mode, with counters of 0; number 0 of `%accown` means no context. The model's own
choices: the number is the lowest free one from 1 (log 86, DEDUCED); `%mmode` and the byte counters begin at 0 (log 10). -/
def ContextsAreMade : Prop :=
  ∀ (s : State) (h : MsgHdr) (root quota x : Nat) (tvec : DWord), refusalOf s h true true true = none → freeSlot s.ctxs 1 = some x →
    ∃ t k, exec (.ctxnew h root tvec quota) s = .next t ∧ t.ms = s.ms ∧ t.blocks = s.blocks ∧ t.cp = s.cp ∧ 1 ≤ x ∧ Tbl.get? t.ctxs x = some k ∧
      k.root = root ∧ k.tvec = tvec ∧ k.mmode = 0 ∧ k.ctrs = [] ∧ k.acct = [0, 0, 0, 0] ∧ k.lease = .none ∧ k.ending = none ∧
      k.quota = (if quota = 0 then s.mp.cellarGiB * 16384 / 16 else quota) ∧ t.mp.ctxSeen = true ∧
      t.mp.outbox = s.mp.outbox ++ [.status h.tag 0 x] ∧ ∀ y, y ≠ x → Tbl.get? t.ctxs y = Tbl.get? s.ctxs y

/-- R270, R311, R334, R340, R344, R349: what the other messages do when the table lets them through. A future or task that a node made which may
still be rolled back is no live handle for a launch (log 168, DESIGN CHOICE). That the record of a context which CTXEND ends
holds zeros is the model's choice (log 88). -/
def MessagesAct : Prop :=
  ∀ (s : State) (h : MsgHdr) (x : Nat) (k : Ctx), Tbl.get? s.ctxs x = some k → h.bad = false → h.sender = .host → s.mp.stage = 5 →
    (∃ t, exec (.ctxend h x) s = .next t ∧ t.ms = s.ms ∧ t.blocks = s.blocks ∧ (k.ending = none → Tbl.get? t.ctxs x = some { k with ending := some (0, 0, 0) }) ∧
      t.mp.outbox = s.mp.outbox ++ [.status h.tag 0 0]) ∧
    (∀ dur, (k.lease = .none ∨ k.lease = .expired) → ∃ t y, exec (.lease h x dur) s = .next t ∧ t.ms = s.ms ∧ t.blocks = s.blocks ∧
      Tbl.get? t.ctxs x = some y ∧ y.leaseEnd = s.cyc + dur ∧ (y.lease = .active ∨ y.lease = .suspended)) ∧
    (∃ t, exec (.telem h x) s = .next t ∧ OnlyMgmt s t ∧ t.mp.outbox = s.mp.outbox ++ [.payload h.tag (k.snap.flatMap fun n => toBytes 8 n)]) ∧
    (∃ t, exec (.capread h) s = .next t ∧ OnlyMgmt s t ∧ t.mp.outbox = s.mp.outbox ++ [.payload h.tag s.capacity]) ∧
    (∀ n dig, 1 ≤ n → n ≤ 15 →
      (s.mp.ctxSeen = true → exec (.keyset h n dig) s = .next (sentStatus s h 3 0)) ∧
      (s.mp.ctxSeen = false → ∃ t, exec (.keyset h n dig) s = .next t ∧ OnlyMgmt s t ∧ Tbl.get? t.mp.keys n = some dig)) ∧
    (∀ f : ShapeFields, 1 ≤ f.dims.toNat → f.dims.toNat ≤ 4 → f.reserved = 0 → ∀ n, freeSlot s.cp.shapes = some n →
      ∃ t y, exec (.shapeCreate h x f) s = .next t ∧ t.ms = s.ms ∧ t.blocks = s.blocks ∧ t.ctxs = s.ctxs ∧ Tbl.get? t.cp.shapes n = some y ∧
        y.base = f.base.toNat ∧ y.dims = f.dims.toNat ∧ y.ctx = x ∧ y.rights = f.rights.toNat ∧
        y.extents = f.extents.map (·.toNat) ∧ y.strides = f.strides.map (·.toInt)) ∧
    (∀ (hd : Word) (sh : Shape), s.cp.shape? x hd = some sh → ∃ t, exec (.shapeFree h x hd) s = .next t ∧ t.ms = s.ms ∧ t.blocks = s.blocks ∧
      Tbl.get? t.cp.shapes (handleSlot hd) = none) ∧
    ∀ (a : DWord) (node : Bool) (bs : List Byte), a.toNat % 256 = 0 → s.hostRead x a.toNat 256 = .ok bs →
      let p := Lpb.ofBytes bs
      let live := fun (hd : Word) => s.liveHandle x hd && (if handleKind hd = 3 then (Tbl.get? s.cp.tasks (handleSlot hd)).any fun t => t.maker.isNone
        else (Tbl.get? s.cp.futures (handleSlot hd)).any fun f => f.maker.isNone)
      (∀ off, p.bad true node live = some off → exec (.launch h x a node) s = .next (sentStatus s h 1 off)) ∧
      (∀ n, p.bad true node live = none → p.schedset = 0 → freeSlot s.cp.tasks = some n →
        ∃ (u : State) (y : Task), exec (.launch h x a node) s = .next (sentStatus u.evalTasks h 0 (mkHandle 3 n (nextGen s.cp.taskGen n)).toNat) ∧ u.ms = s.ms ∧ u.blocks = s.blocks ∧
          Tbl.get? u.cp.tasks n = some y ∧ y.st = .waiting ∧ y.lpb = p ∧ y.ctx = x ∧ y.node = node)

/-- R328, R344, R352: a host read answers the newest committed bytes and changes nothing else; a host write changes the bytes it names and no
other. -/
def HostAccesses : Prop :=
  ∀ (s : State) (pa n : Nat) (bs : List Byte),
    ((∀ i < n, s.physOk (pa + i) = true) → s.ms.committedFault s.dev ((List.range n).map (pa + ·)) = none →
      ∃ t, exec (.hostFabricAccess (.read pa n)) s = .next t ∧ OnlyMgmt s t ∧
        t.mp.outbox = s.mp.outbox ++ [.payload 0 ((List.range n).map fun i => s.ms.committed (pa + i))]) ∧
    ((∀ v ∈ s.ms.staged, v.loc ≠ .byte pa) → s.ms.committed pa = Memory.read s.ms.truth pa) ∧
    (∀ m v, s.ms.staged = [{ node := some m, loc := .byte pa, prior := .num v }] → s.ms.committed pa = BitVec.ofNat 8 v) ∧
    ((∀ i < bs.length, s.physOk (pa + i) = true ∧ s.ms.nodeOf (.byte (pa + i)) = none) → s.ms.sectors = [] → s.ms.lost = [] →
      (∀ v ∈ s.ms.staged, v.bad = none) →
      ∃ t, exec (.hostFabricAccess (.write pa bs)) s = .next t ∧ t.blocks = s.blocks ∧ t.cyc = s.cyc ∧ t.ms.v = s.ms.v ∧ t.ms.g = s.ms.g ∧
        t.ms.d = s.ms.d ∧ ∀ a, Memory.read t.ms.truth a =
          if pa ≤ a ∧ a < pa + bs.length then bs.getD (a - pa) 0 else Memory.read s.ms.truth a)

/-- What an error leaves of a sector (R351, R352): that the worse of two errors stands is the model's reading (log 90, DEDUCED). -/
def struck (old : Option Sector) (e : SectorErr) : Sector :=
  match e with
  | .corrected => old.getD .corrected
  | .badTag => if old = some .uncorrectable then .uncorrectable else .poisoned
  | .uncorrectable => .uncorrectable

/-- The place of a block that an error which ECC cannot correct strikes: the block, and the place (R323). -/
def eccPlace (e : SoftErr) : Option (Nat × EccAt) :=
  match e with
  | .scalar b w n => some (b, .scalar w n)
  | .pred b w l k => some (b, .pred w l k)
  | .rejoin b w k => some (b, .rejoin w k)
  | .map b w n => some (b, .map w n)
  | .count b r => some (b, .count r)
  | .row _ _ _ => none | .oreg _ _ _ _ => none | .last _ _ _ _ => none | .sector _ _ => none | .trunk _ _ _ => none
  | .version _ _ => none

/-- R318, R323, R327, R335, R351, R352: a soft error changes only what it strikes: a word of the operand file, a last result, a row, a place
that ECC guards, a sector of HBM, this device's or another's, of a Trunk, or of a spilled version. A link failure is noted. The model's own readings: the
worse of two errors stands (log 90, DEDUCED); errors of a Trunk and of a spilled version are held with their owners (log 128, DESIGN CHOICE). -/
def SoftErrorsAndLinks : Prop :=
  ∀ (s : State) (b w n l pa : Nat) (e : SectorErr) (bk : Block), s.block? b = some bk →
    (n < 8 → ∃ t y, exec (.softError (.oreg b w n l)) s = .next t ∧ OnlyAt s t b ∧ t.block? b = some y ∧
      y.errAt w l (.o (BitVec.ofNat 3 n)) = true ∧ OthersKept bk y [(w, l)] ∧ (y.thread w l).o = (bk.thread w l).o) ∧
    (∀ p, ∃ t y, exec (.softError (.last b w l p)) s = .next t ∧ OnlyAt s t b ∧ t.block? b = some y ∧ y.errAt w l (.last p) = true ∧
      OthersKept bk y [(w, l)] ∧ (y.thread w l).o = (bk.thread w l).o ∧ y.rows = bk.rows) ∧
    (∀ c, bk.core? = some c → l < 32 → ∃ t y, exec (.softError (.row b n l)) s = .next t ∧ t.ms = s.ms ∧ t.block? b = some y ∧
      (y.row n).err.getLsbD l = true ∧ ∀ m, (y.row n).val m = (bk.row n).val m) ∧
    (∀ i x, eccPlace i = some (b, x) → ∃ t y, exec (.softError i) s = .next t ∧ OnlyAt s t b ∧ t.block? b = some y ∧
      y = { bk with ecc := y.ecc } ∧ x ∈ y.ecc ∧ ∀ z, z ≠ x → (z ∈ y.ecc ↔ z ∈ bk.ecc)) ∧
    (homeOf pa = s.dev ∨ (Config.otherDevice (homeOf pa)).isSome = true → devOffset pa < Config.hbmBytes → ∃ t, exec (.softError (.sector pa e)) s = .next t ∧ t.blocks = s.blocks ∧
      t.ms = { s.ms with sectors := t.ms.sectors } ∧
      Tbl.get? t.ms.sectors (pa / 64) = some (struck (Tbl.get? s.ms.sectors (pa / 64)) e) ∧
      ∀ x, x ≠ pa / 64 → Tbl.get? t.ms.sectors x = Tbl.get? s.ms.sectors x) ∧
    (∃ t y, exec (.softError (.trunk b n e)) s = .next t ∧ OnlyAt s t b ∧ t.block? b = some y ∧ y = { bk with bad := y.bad } ∧
      (bk.trunkHolds n = false → y = bk) ∧ (bk.trunkHolds n = true → Tbl.get? y.bad n = some (struck (Tbl.get? bk.bad n) e))) ∧
    (let bytes := s.ms.staged.filter (·.isByte)
     ∀ v, bytes[n]? = some v → n < s.spilled.length → ∃ t, exec (.softError (.version n e)) s = .next t ∧ t.blocks = s.blocks ∧
      t.ms = { s.ms with staged := t.ms.staged } ∧ t.ms.staged.filter (·.isByte) = bytes.set n { v with bad := some (struck v.bad e) }) ∧
    (∃ t, exec (.linkFailure (.lane n)) s = .next t ∧ OnlyMgmt s t ∧ n ∈ t.mp.badLanes) ∧
    (∃ t, exec (.linkFailure (.die n true)) s = .next t ∧ OnlyMgmt s t ∧ n ∈ t.mp.badLinks) ∧
    exec (.linkFailure (.die n false)) s = .next s

end Sys2Proof.Claims

namespace Sys2Proof.Claims

open Sys2Proof Sys2Proof.Machine

/-! ### Encoding (R30–R51) -/

/-- R35–R39, R47, R48: a well-formed word is decoded back from its encoding, with every operand at every value. -/
def WordsRoundTrip : Prop :=
  ∀ (i : Instr) (x : BitVec 64), i.wf = true → encodeWord i = some x → decodeWord x = .ok i

/-- R38, R41, R46, R49: so is a well-formed half of a P word whose registers have an 8-bit specifier; a unary half has tbd = 0. -/
def HalvesRoundTrip : Prop :=
  ∀ (op : BitVec 6) (h : PHalf) (i : Instr), opP op.toNat h = some i → i.wf = true → h.d.fits8 = true → h.s.fits8 = true →
    (unaryCode op.toNat = true → h.tbd = false) → encodeHalf i = some (packP op h) ∧ decodeHalf (packP op h) = .ok i

end Sys2Proof.Claims

/-- R37, R40–R43, R51: what the decoder accepts is a well-formed instruction, and the word is that instruction's own encoding: no bit of
it is ignored. -/
def Obligations.AcceptedWordsAreEncodings : Prop :=
  (∀ (x : BitVec 64) (i : Instr), decodeWord x = .ok i → i.wf = true ∧ encodeWord i = some x) ∧
  ∀ (x : BitVec 31) (i : Instr), decodeHalf x = .ok i → i.wf = true ∧ encodeHalf i = some x

/-- R40, R41: the values of the two specifiers, and the reserved ones; no 8-bit specifier names `$v128` or above. -/
def Obligations.SpecifiersFollowTheTables : Prop :=
  (∀ x : BitVec 9, decodeReg9 x =
    if x.toNat ≤ 0xFF then some (.v (x.setWidth 8)) else if x.toNat ≤ 0x107 then some (.o (x.setWidth 3))
    else if x.toNat = 0x108 then some (.last .la) else if x.toNat = 0x109 then some (.last .lb) else if x.toNat = 0x10A then some (.last .lc)
    else if x.toNat = 0x10B then some .z else if x.toNat ≤ 0x13F then none else if x.toNat ≤ 0x17F then some (.s (x.setWidth 6)) else none) ∧
  (∀ x : BitVec 8, decodeReg8 x =
    if x.toNat ≤ 0x7F then some (.v x) else if x.toNat ≤ 0x87 then some (.o (x.setWidth 3))
    else if x.toNat = 0x88 then some (.last .la) else if x.toNat = 0x89 then some (.last .lb) else if x.toNat = 0x8A then some (.last .lc)
    else if x.toNat = 0x8B then some .z else if x.toNat ≤ 0xBF then none else some (.s (x.setWidth 6))) ∧
  ∀ (x : BitVec 8) (n : BitVec 8), decodeReg8 x = some (.v n) → n.toNat < 128

namespace Sys2Proof.Claims

open Sys2Proof Sys2Proof.Machine

/-- R30, R33, R45, R51: the checks of a bundle in their order: the kind of a pool, any other kind, the reserved bits of W0; what passes has
well-formed words that keep the limits of composition, and W0's stall and hint. -/
def BundlesAreChecked : Prop :=
  ∀ b : BundleBits,
    let w0 := bundleWord b 0
    let kind := (w0.extractLsb' 60 4).toNat
    (kind = 6 → decodeBundle b = .error .pool) ∧ (kind ≠ 6 → kind ≠ 10 → decodeBundle b = .error .kind) ∧
    (kind = 10 → w0.extractLsb' 0 49 ≠ 0 → decodeBundle b = .error .reserved) ∧
    ∀ x : Bundle, decodeBundle b = .ok x → kind = 10 ∧ w0.extractLsb' 0 49 = 0 ∧ x.stall = (w0.extractLsb' 50 4).toNat ∧
      x.hint = w0.getLsbD 49 ∧ composeOk x.words = true ∧ ∀ p ∈ x.words, p.i.wf = true ∧ 1 ≤ p.pos ∧ p.pos ≤ 3

/-- R45, R51: a word alone in W1, in the slot class of its form, decodes to its instruction where that keeps the limits of composition. -/
def WordsStandAlone : Prop :=
  ∀ (x : BitVec 64) (i : Instr), decodeWord x = .ok i → composeOk [⟨1, .whole, i⟩] = true →
    decodeBundle (bundleOf (classOf x) x) = .ok { stall := 0, hint := false, words := [⟨1, .whole, i⟩] }

end Sys2Proof.Claims

/-- Words that the manual writes out with their fields decode to what they stand for: its example bundle, and one word each of the control, integer,
float, memory, copy, matrix and task families. -/
def Obligations.WordsOfTheManual : Prop :=
  decodeBundle (0x806170B4FFFFFFFD#64 ++ 0x50050900240C1400#64 ++ 0x10008080642D7000#64 ++ 0xAA48000000000000#64) = .ok { stall := 2, hint := false, words := [
    ⟨1, .whole, .iadd { d := .v 4, a := .v 8, b := .v 12, c := .z, tba := false, tbb := true, tbc := false, g := 7, gn := false, mod := 0 }⟩,
    ⟨2, .hi, .faddPair { d := .v 5, s := .v 9, tbs := false, tbd := false, pmod := 0 }⟩,
    ⟨2, .lo, .fmulPair { d := .v 6, s := .v 10, tbs := false, tbd := false, pmod := 0 }⟩,
    ⟨3, .whole, .bra { d := .z, a := .z, g := 2, gn := false, imm := 0xFFFFFFFD }⟩] } ∧
  decodeWord 0x01E160185C2C7001 = .ok (.jset { d := .z, a := .v 1, b := .z, c := .z, tba := false, tbb := false, tbc := false, g := 7, gn := false, mod := 1 }) ∧
  decodeWord 0x15A16040442F720A = .ok (.iset { d := .z, a := .v 4, b := .v 8, c := .z, tba := true, tbb := true, tbc := false, g := 7, gn := false, mod := 0x20A }) ∧
  decodeWord 0x068080885C2C7000 = .ok (.rmov { d := .v 4, a := .v 8, b := .z, c := .z, tba := false, tbb := false, tbc := false, g := 7, gn := false, mod := 0 }) ∧
  decodeWord 0x1BC2805858247041 = .ok (.fcvt { d := .v 20, a := .v 5, b := .z, c := .v 9, tba := false, tbb := false, tbc := false, g := 7, gn := false, mod := 0x41 }) ∧
  decodeWord 0xC4A042E17C400060 = .ok (.ldk { d := .s 0, a := .z, b := .z, g := 7, gn := false, tbb := false, kind := 4, imm := 0x60 }) ∧
  decodeWord 0xD1A550A87CC00040 = .ok (.bcpy { d := .s 10, a := .s 2, b := .s 3, g := 7, gn := false, tbb := false, kind := 12, imm := 0x40 }) ∧
  decodeWord 0xE085D1011C000053 = .ok (.mma { d := .z, a := .s 4, b := .v 8, g := 7, gn := false, tbb := false, kind := 0, imm := 0x53 }) ∧
  decodeWord 0xF8A150E17C000000 = .ok (.ftwait { d := .s 2, a := .s 3, b := .z, g := 7, gn := false, tbb := false, kind := 0, imm := 0 })

namespace Sys2Proof.Claims

open Sys2Proof Sys2Proof.Machine

/-! ### The step -/

/-- The group at an address that issues: where no fragment must go first, that of R89; else the one that has the fragment in it which must (R91;
log 171, DESIGN CHOICE). -/
def Chosen (v : State) (c b : Nat) (a : DWord) (bk : Block) (g : List (Nat × Nat)) : Prop :=
  (v.dueOn c = none ∧ v.groupWith c b bk a none = g) ∨ ∃ w, v.dueOn c = some (c, b, a, w) ∧ v.groupWith c b bk a (some w) = g

/-- A group that issues: the choice is the first of the agenda, and v is the machine without it, in the core cycle in which the core may issue; the
block is there, and no other group must go first (R91); the group's threads stand at an aligned address whose bundle is in the instruction cache;
each of them may execute there, at its level. -/
structure Fetches (s v : State) (c b : Nat) (a : DWord) (wait : Bool) (r : List Choice) (bk : Block) (g : List (Nat × Nat)) (x : BundleBits)
    (B : Bundle) : Prop where
  chosen : s.agenda = .issue c b a wait :: r
  turned : v = ({ s with agenda := r } : State).turnCore c
  here : v.block? b = some bk
  may : v.mayIssue c bk = true
  group : Chosen v c b a bk g
  nonempty : g ≠ []
  aligned : a.toNat % 32 = 0
  bytes : ∀ p ∈ g.head?, ∃ pa, v.fetchPa c bk p.1 (bk.fragment p.1 a) a = some pa ∧ v.cachedBundle c pa = some x
  decodes : decodeBundle x = .ok B
  mayRun : ∀ p ∈ g, v.codeOk c bk.ctx (bk.thread p.1 p.2).level a = true ∧
    ((B.words.any fun q => q.i.privileged) = true → (bk.thread p.1 p.2).level = .supervisor)

/-- What stands ready when a bundle begins: the agenda's choice is taken, the core has issued in this core cycle, the group is in ascending lane
order, and the block is kept as it stood; blocks and memory are as before, but for the TLB, which keeps the translation of the fetch, and the
context's byte counters, which what the walk reads is charged to (R203, R220). -/
def Begun (v u : State) (c b : Nat) (a : DWord) (wait : Bool) (r : List Choice) (bk : Block) (g : List (Nat × Nat)) (B : Bundle) : Prop :=
  u.agenda = r ∧ u.blocks = v.blocks ∧ u.ms = { v.ms with tlb := u.ms.tlb } ∧ u.ms.tlb = (v.cached c bk.ctx a.toNat).ms.tlb ∧
  u.ctxs = (v.cached c bk.ctx a.toNat).ctxs ∧ u.cyc = v.cyc ∧ (u.core c).issued = some v.cyc ∧
  (u.core c).spent = true ∧ u.iss.core = c ∧ u.iss.blk = b ∧ u.iss.addr = a ∧ u.iss.stall = B.stall ∧ u.iss.grp = laneOrder g ∧
  u.iss.words = B.words ∧ u.snap = bk ∧ u.iss.regs = v.specialRegs c bk.ctx ∧ u.iss.checked = false ∧ u.iss.wait = wait

/-- R29–R32, R89: a step whose choice issues a bundle of one word runs the word that the bundle decodes to, and ends the bundle. -/
def StepRunsTheWord : Prop :=
  ∀ (s v : State) (c b : Nat) (a : DWord) (wait : Bool) (r : List Choice) (bk : Block) (g : List (Nat × Nat)) (x : BundleBits) (B : Bundle)
    (p : Placed), Fetches s v c b a wait r bk g x B → B.words = [p] →
    ∃ u, Begun v u c b a wait r bk g B ∧ u.iss.pos = p.pos ∧ u.iss.half = p.half ∧
      step s = match exec p.i u with
        | .next t => .next t.endBundle
        | .fault e => .fault e
        | .refused e => .refused e

/-- R31, R32: a bundle of several words runs them in order, a control transfer last; an empty one only delays its threads. -/
def StepRunsTheBundle : Prop :=
  ∀ (s v : State) (c b : Nat) (a : DWord) (wait : Bool) (r : List Choice) (bk : Block) (g : List (Nat × Nat)) (x : BundleBits) (B : Bundle),
    Fetches s v c b a wait r bk g x B → ∃ u, Begun v u c b a wait r bk g B ∧
      (B.words ≠ [] → step s = runWords (inOrder B.words) u) ∧
      (B.words = [] → step s = match exec .emptyBundle u with
        | .next t => .next t.endBundle
        | .fault e => .fault e
        | .refused e => .refused e)

/-- Log 1: a step whose choice is an event carries it out, a word of an instruction stream given as an event changes nothing; a tick ends the
chip cycle, or issues the fragment that R91 lets wait no longer, and so does the choice of a group of its core; where no choice is given, the
machine takes a candidate that changes it, or else a tick. -/
def StepCarriesOutChoices : Prop :=
  (∀ (s : State) (i : Instr) (r : List Choice), s.agenda = .event i :: r →
    step s = if i.family = .event ∧ i.wf = true then exec i { s with agenda := r } else .next { s with agenda := r }) ∧
  (∀ (s : State) (r : List Choice), s.agenda = .tick :: r → let u : State := { s with agenda := r }
    (u.overdue = none → step s = .next u.tick) ∧
    ∀ t c b a w, u.overdue = some (t, c, b, a, w) → step s = issueGroup c b a (some w) false t) ∧
  (∀ (s : State) (c b : Nat) (a : DWord) (wait : Bool) (r : List Choice), s.agenda = .issue c b a wait :: r →
    let u := ({ s with agenda := r } : State).turnCore c
    (u.dueOn c = none → step s = issueGroup c b a none wait u) ∧
    ∀ d e x w, u.dueOn c = some (d, e, x, w) →
      step s = if e = b ∧ x = a then issueGroup d e x (some w) wait u else issueGroup d e x (some w) false u) ∧
  ∀ s : State, s.agenda = [] → ∃ k, step s = perform1 k s ∧
    ((k ∈ s.candidates ∧ changesBy s k = true) ∨ (k = .tick ∧ ∀ j ∈ s.candidates, changesBy s j = false))

/-- R10, R95: the end of a chip cycle counts `%cyc` up by one and leaves the choices to come. -/
def TicksCount : Prop :=
  ∀ s : State, s.tick.cyc = s.cyc + 1 ∧ s.tick.agenda = s.agenda

/-- A machine in which, at the end of this chip cycle, nothing falls due but results of registers: no scan window or slot starts now or in
the next cycle, no copy, matrix or memory operation is under way, no block relocates, no thread stands at BBWT, no JSET waits to be
evaluated, no node may commit or is to roll back, no failed row waits, no register is damaged, no lease ends, and no context is to end for a byte of its
own. -/
structure Quiet (s : State) : Prop where
  scanNow : s.cyc % Config.scanPitch ≠ 0 ∧ (s.cyc + 1) % Config.scanPitch ≠ 0
  slotNow : s.cyc % Config.slotCycles ≠ 0 ∧ (s.cyc + 1) % Config.slotCycles ≠ 0
  queues : ∀ p ∈ s.cores, p.2.copyQ = [] ∧ p.2.matQ = []
  resident : ∀ p ∈ s.blocks, p.2.drain = none ∧ p.2.core?.isSome = true ∧ p.2.ops = [] ∧ p.2.carried = [] ∧ ∀ q ∈ p.2.warps, q.2.jset = []
  barriers : ∀ p ∈ s.blocks, ∀ q ∈ p.2.live, ∀ h ∈ (p.2.thread q.1 q.2).holds, ∀ off d pos, h ≠ .bbwt off d pos
  nodes : s.mp.rollDue = [] ∧ ∀ p ∈ s.cp.tasks, s.mayCommit p.1 p.2 = false
  sound : ∀ p ∈ s.blocks, ∀ w l r, p.2.errAt w l r = false
  rows : ∀ p ∈ s.mp.caps, p.2.failing = []
  leases : ∀ p ∈ s.ctxs, p.2.lease = .none ∨ p.2.lease = .expired ∨ s.cyc + 1 < p.2.leaseEnd
  blameless : s.ms.blamed = []

/-- R4, R10, R95, log 94: in such a cycle memory, the contexts, the tasks and the management plane stay as they are, and the cores but for the count of
their core cycles; of a block only this changes: results due by the core cycle that begins last land, each with its value where it is the only one
due there; a word of a row or of a scalar register to which none is due keeps its value; what is not due stays in flight. -/
def QuietTicksLandResults : Prop :=
  ∀ s : State, Quiet s → s.tick.ms = s.ms ∧ s.tick.ctxs = s.ctxs ∧ s.tick.cp = s.cp ∧ s.tick.mp = s.mp ∧
    (∀ c, s.tick.core c = { s.core c with part := 0, spent := false }) ∧
    ∀ b c bk, s.block? b = some bk → bk.core? = some c → ∃ y, s.tick.block? b = some y ∧
      let due := fun (p : Pending) => 0 < s.tick.coreBegins c ∧ ∃ d, p.due = some d ∧ d ≤ s.tick.coreNow c
      (∀ p, p ∈ y.pend → p ∈ bk.pend ∧ ¬ due p) ∧ (∀ p ∈ bk.pend, ¬ due p → (∀ q ∈ bk.pend, due q → q.seq ≠ p.seq) → p ∈ y.pend) ∧
      (∀ r l, (∀ p ∈ bk.pend, p.tgt = .row r l → ¬ due p) → (y.row r).val l = (bk.row r).val l) ∧
      (∀ p ∈ bk.pend, ∀ r l, p.tgt = .row r l → due p → (∀ q ∈ bk.pend, q.tgt = .row r l → due q → q = p) →
        (y.row r).val l = p.val.setWidth 32) ∧
      (∀ w n, (∀ p ∈ bk.pend, p.tgt = .scalar w n → ¬ due p) → Tbl.getD (y.warp w).s n 0 = Tbl.getD (bk.warp w).s n 0) ∧
      (∀ p ∈ bk.pend, ∀ w n, p.tgt = .scalar w n → due p → (∀ q ∈ bk.pend, q.tgt = .scalar w n → due q → q = p) →
        Tbl.getD (y.warp w).s n 0 = p.val) ∧
      y.win = bk.win ∧ y.lines = bk.lines ∧ y.bars = bk.bars ∧ y.boxes = bk.boxes ∧ y.place = bk.place ∧
      (∀ r, (y.row r).ref = (bk.row r).ref) ∧ ∀ w, (y.warp w).map = (bk.warp w).map ∧ (y.warp w).j = (bk.warp w).j ∧ ∀ l,
        (y.thread w l).pc = (bk.thread w l).pc ∧ (y.thread w l).level = (bk.thread w l).level ∧
        (y.thread w l).stack = (bk.thread w l).stack ∧ (y.thread w l).live = (bk.thread w l).live ∧ (y.thread w l).holds = (bk.thread w l).holds

/-! ### Faults at fetch and decode (R34, R50–R52), the checks at issue (R104) -/

/-- R34, R51, R145: a thread whose bundle does not decode takes its fault: POOLFETCH with the address it came from, or ILLEGAL with
0. -/
def BadBundlesFault : Prop :=
  ∀ (s : State) (c b w l pa : Nat) (a : DWord) (wait : Bool) (r : List Choice) (bk : Block) (k : Ctx) (x : BundleBits) (e : Reject),
    s.agenda = .issue c b a wait :: r → let v := ({ s with agenda := r } : State).turnCore c
    v.block? b = some bk → Tbl.get? v.ctxs bk.ctx = some k → v.mayIssue c bk = true → Chosen v c b a bk [(w, l)] →
    a.toNat % 32 = 0 → v.fetchPa c bk w (bk.fragment w a) a = some pa → v.cachedBundle c pa = some x →
    v.codeOk c bk.ctx (bk.thread w l).level a = true → (bk.thread w l).level = .user → decodeBundle x = .error e →
    ∃ t y, step s = .next t ∧ t.ms = { v.ms with tlb := t.ms.tlb } ∧ t.block? b = some y ∧ OthersKept bk y [(w, l)] ∧ y.thread w l =
      Thread.enter { bk.thread w l with holds := [] } k.tvec (if e = Reject.pool then { code := .poolfetch, fpc := a, faddr := (bk.thread w l).from?.getD 0, fmask := maskOf [l] }
        else { code := .illegal, fpc := a, faddr := 0, fmask := maskOf [l] }) (v.coreNow c)

/-- R50, R51, R145: a privileged word at user level raises PRIV and has no effect. -/
def PrivilegedWordsTrap : Prop :=
  ∀ (s : State) (c b w l pa : Nat) (a : DWord) (wait : Bool) (r : List Choice) (bk : Block) (k : Ctx) (x : BundleBits) (B : Bundle),
    s.agenda = .issue c b a wait :: r → let v := ({ s with agenda := r } : State).turnCore c
    v.block? b = some bk → Tbl.get? v.ctxs bk.ctx = some k → v.mayIssue c bk = true → Chosen v c b a bk [(w, l)] →
    a.toNat % 32 = 0 → v.fetchPa c bk w (bk.fragment w a) a = some pa → v.cachedBundle c pa = some x →
    v.codeOk c bk.ctx (bk.thread w l).level a = true → (bk.thread w l).level = .user → decodeBundle x = .ok B →
    (B.words.any fun p => p.i.privileged) = true →
    ∃ t y, step s = .next t ∧ t.ms = { v.ms with tlb := t.ms.tlb } ∧ t.block? b = some y ∧ OthersKept bk y [(w, l)] ∧ y.thread w l =
      Thread.enter { bk.thread w l with holds := [] } k.tvec { code := .priv, fpc := a, faddr := 0, fmask := maskOf [l] } (v.coreNow c)

/-- R104, R105, R31: of a group that is one thread's whole fragment, a thread that passes the checks goes on to the next bundle, no sooner than the stall field allows; one that fails a check at user
level takes that fault bundle-precisely and issues nothing. -/
def ChecksDecideTheGroup : Prop :=
  ∀ (s : State) (bk : Block) (w l : Nat) (k : Ctx), s.block? s.iss.blk = some bk → s.snap = bk → s.iss.checked = false → s.iss.grp = [(w, l)] →
    Tbl.get? s.ctxs bk.ctx = some k → (bk.thread w l).level = .user → (∀ m ∈ bk.fragment w s.iss.addr, m = l) →
    let bad := s.groupBad s.iss.core bk s.iss.addr s.iss.words [(w, l)]
    (bad = [] → ∃ y, s.checkIssue.block? s.iss.blk = some y ∧ s.checkIssue.iss.grp = [(w, l)] ∧ s.checkIssue.ms = s.ms ∧ y.thread w l =
      { bk.thread w l with pc := s.iss.addr + 32, from? := some s.iss.addr, since := none, ready := s.now + 1 + s.iss.stall, holds := [] }) ∧
    ∀ e, bad = [((w, l), e)] → e.code ≠ .regue → e.code ≠ .memue → e.code ≠ .integrity →
      (s.iss.words.any fun p => p.i.family == .crossLane) = false →
      ∃ y, s.checkIssue.block? s.iss.blk = some y ∧ s.checkIssue.iss.grp = [] ∧ s.checkIssue.ms = s.ms ∧ y.thread w l =
        Thread.enter { bk.thread w l with holds := [] } k.tvec { code := e.code, fpc := s.iss.addr, faddr := BitVec.ofNat 64 e.faddr, fmask := maskOf [l] } (s.nowOf s.iss.blk)

/-- R104, R92, R196: of the checks of a word's one thread the first that fails decides: a warp that is not whole before an unmapped name, that
before an early read, and all three before a spent share of rows; an unmapped name is reported by its word and specifier. -/
def ChecksHaveTheirOrder : Prop :=
  ∀ (s : State) (c w l : Nat) (a : DWord) (bk : Block) (p : Placed), takesPart bk p.i w l = true →
    let bad := s.groupBad c bk a [p] [(w, l)]
    (p.i.convergent = true → (∃ m ∈ bk.liveLanes w, m ≠ l ∧ m ∉ bk.fragment w a) →
      ∃ n, bad = [((w, l), { code := .partialWarp, faddr := n })]) ∧
    (p.i.convergent = false →
      (∀ r, (namesOf bk p).find? (fun q => bk.isUnmapped w q) = some r →
        bad = [((w, l), { code := .unmapped, faddr := p.pos * 65536 + (encodeReg9 r).toNat })]) ∧
      ((∀ r ∈ namesOf bk p, bk.isUnmapped w r = false) →
        (((usesOf bk p).any fun u => u.trap && bk.emptyAt w l u.r) = true → ∃ n, bad = [((w, l), { code := .earlyread, faddr := n })]) ∧
        (((usesOf bk p).any fun u => u.trap && bk.emptyAt w l u.r) = false → (∀ x ∈ wordsRead bk p w l, bk.errAt w x.1 x.2 = false) → bk.ecc = [] →
          bankBad p.i bk w l = false → (∀ r ∈ changes p.i, bk.isShared w r = false) →
          ∀ n, allocsOf bk p w = [n] → bk.share ≤ bk.heldIn n → bad = [((w, l), { code := .rowquota, faddr := n })])))

/-- R115, R116: a word that writes a result to an unmapped name allocates the lowest-numbered free row of its bank; the row's other lanes hold 0
and are full, and the written lane's result is in flight to it: the arithmetic words, the other words of one result per lane, second results, local
loads and atomics, and the words of the memory engine and of the master distributor. -/
def UnmappedDestinationsAllocate : Prop :=
  ∀ (s : State) (bk : Block) (w l r : Nat) (n : BitVec 8), Alone s bk w l → l < 32 → bk.mapOf w n = none → s.snap.mapOf w n = none →
    s.freeRow s.iss.core (n.toNat % 4) = some r →
    let opened := fun (t : State) => t.here.mapOf w n = some (.row r) ∧ (t.here.row r).ref = 1 ∧ (t.here.row r).empty = maskOf [l] ∧
      ∀ m, (t.here.row r).val m = 0
    let did := fun (i : Instr) (v : DWord) (lat : Nat) => ∃ t, exec i s = .next t ∧ opened t ∧ Flies s t (.row r l) v lat
    (∀ i k, aluOf i = some k → k.scalar = false → k.d = .v n →
      did i ((k.f (s.val w l k.a) (s.val w l k.b) (s.val w l k.c)).setWidth 64) k.lat) ∧
    (∀ i lat f, laneOf s i = some (.v n, lat, f) → did i ((f w l).setWidth 64) lat) ∧
    (∀ x : FWord, x.d = .z → x.c = .v n →
      did (.cvtef x) ((cvtefE x (s.val w l (.reg x.a)) (s.val w l (.reg x.b))).2.setWidth 64) 4) ∧
    (∀ x : MWord, x.d.isScalar = false → x.d.group x.regs = [.v n] →
      let lat := fun (off : Nat) => localLat [off] x.bytes
      (bk.untranslated w l = false → bk.lineEmpty (s.localOff x w l) = false →
        did (.ldl x) ((wordAt (bk.winRead (s.localOff x w l) x.bytes) 0).setWidth 64) (lat (s.localOff x w l))) ∧
      did (.ldk x) ((wordAt ((List.range x.bytes).map fun i => s.snap.lpb.bytes.getD (s.plainOff x w l + i) 0) 0).setWidth 64)
        (lat (s.plainOff x w l))) ∧
    (∀ x : MWord, x.d.group 1 = [.v n] → s.guard w l x.g x.gn = true → bk.untranslated w l = false →
      bk.lineEmpty (s.plainOff x w l) = false →
      did (.amol x) ((wordAt (bk.winRead (s.plainOff x w l) 4) 0).setWidth 64) 8) ∧
    ∀ i last as, joinOf s i = some ([.v n], last, as) → scalarResult i = false → as ≠ [] → (∀ o ∈ bk.ops, o.id ≠ s.seq) →
      ∃ t, opened t ∧ (∃ e ∈ t.here.pend, e.op = s.seq ∧ e.tgt = .row r l ∧ e.due = none) ∧
        exec i s = .next (if t.atOnce i s.seq as then t.perform s.iss.blk s.seq else t)

/-! ### Reset, memory and the invariant -/

end Sys2Proof.Claims

/-- R10, R14, R15, R247, R337, R346, R347: what reset leaves: cycle 0, the default kinds of slots in both banks with rperiod 4, budgets and token count of 0, no device
number, boot stage 0, and cleared accumulator files; no block, context, task, shape or version; every byte of memory as the model has it
(log 6). -/
def Obligations.ResetLeaves : Prop :=
  State.reset.cyc = 0 ∧ State.reset.frame = 0 ∧ State.reset.slotNumber % 64 = 0 ∧
  (∀ bank ∈ [State.reset.mp.active, State.reset.mp.shadow], bank.kinds.length = 64 ∧ ∀ n < 64, bank.kinds[n]? =
    if n = 0 then some 4 else if n = 16 ∨ n = 48 then some 3 else if n = 8 ∨ n = 24 ∨ n = 40 ∨ n = 56 then some 2
    else if n = 32 then some 1 else some 0) ∧
  State.reset.mp.active.rperiod = 4 ∧ State.reset.mp.shadow.rperiod = 4 ∧ State.reset.mp.period = 4 ∧ State.reset.mp.tokenReg = 0 ∧
  (∀ k, (State.reset.cluster k).energyReg = 0 ∧ (State.reset.cluster k).peakReg = 0) ∧ State.reset.mp.dev = none ∧ State.reset.mp.stage = 0 ∧
  (∀ c t, (State.reset.core c).tile t = .zero) ∧ Tile.zero.els = [] ∧ Tile.zero.ver = 0 ∧ Tile.zero.claim = none ∧
  State.reset.blocks = [] ∧ State.reset.ctxs = [] ∧ State.reset.cp.tasks = [] ∧ State.reset.cp.shapes = [] ∧ State.reset.ms.staged = [] ∧
  (∀ b, State.reset.block? b = none) ∧ ∀ a, Memory.read State.reset.ms.truth a = 0

/-- A write of bytes is read back, leaves every other byte alone, keeps memory's canonical form, and two canonical memories that read
alike are equal. -/
def Obligations.MemoryIsFaithful : Prop :=
  (∀ (m : List Host.Cell) (a : Nat) (bs : List Byte), Memory.wf m = true → Memory.wf (Memory.writes m a bs) = true ∧
    Memory.reads (Memory.writes m a bs) a bs.length = bs ∧
    ∀ x, x < a ∨ a + bs.length ≤ x → Memory.read (Memory.writes m a bs) x = Memory.read m x) ∧
  ∀ m n : List Host.Cell, Memory.wf m = true → Memory.wf n = true → (∀ a, Memory.read m a = Memory.read n a) → m = n

/-- The invariant holds at reset. -/
def Obligations.ResetHasTheInvariant : Prop := State.reset.Inv

/-- Every step that answers a next state keeps the invariant: memory stays in its canonical form, and the slot table keeps a maintenance slot in
both banks and a rotation period of 1 to 64 (R14, R15). -/
def Obligations.StepsKeepTheInvariant : Prop := ∀ s t : State, s.Inv → step s = .next t → t.Inv

namespace Sys2Proof.Claims

open Sys2Proof Sys2Proof.Machine

/-! ### Promises and times (R103, R232, R254, R255, R353) -/

/-- R103, R232: the promise of a CPYL of one thread, where no earlier request stands in its core's queue: 24 for a copy within the window, or of no
byte; 160 or 256 for global bytes by the die that homes them; and a cycle for each 64 bytes begun. An earlier request whose bytes it writes
puts the promise off to that one's, and takes it away if that one has none. -/
def PromisesFollowTheTable : Prop :=
  ∀ (s : State) (bk : Block) (w l : Nat) (x : MWord), Alone s bk w l → s.cpylRefused x w = false →
    let dir := (x.kind >>> 2).toNat
    let y := s.val w l (.reg x.b)
    let n := cpylLen y
    let g := globalAddr (s.addr w l x.a) 0 x.imm
    let c := s.iss.core
    let promised := fun (v : Option Nat) => ∃ t r, exec (.cpyl x) s = .next t ∧ (t.core c).copyQ = (s.core c).copyQ ++ [r] ∧ r.promise = v
    ((s.core c).copyQ = [] →
      (dir = 2 ∨ n = 0 → promised (some (s.cyc + 24 + (n + 63) / 64))) ∧
      ∀ pa, n ≠ 0 → dir ≠ 2 → homeOf pa = s.dev →
        s.translate c bk.ctx (bk.thread w l).level (if dir = 0 then .load else .store) g = .ok pa →
        promised (some (s.cyc + (if Config.homeDie (pa / 128) = dieOf c then 160 else 256) + (n + 63) / 64))) ∧
    ∀ (q : CopyReq) (p : Part) (o : Nat), (s.core c).copyQ = [q] → q.state = .started → q.kind = .plain → q.parts = [p] → p.dst = .win s.iss.blk o →
      dir = 2 → n ≠ 0 → (∃ i, o ≤ i ∧ i < o + p.n ∧ cpylOff y ≤ i ∧ i < cpylOff y + n) →
      promised (q.promise.map fun v => max s.cyc v + 24 + (n + 63) / 64)

/-- R254, R255: the engine cycles that a matrix request holds, and the cycles from its Start to its completion. -/
def MatrixTimes : Prop :=
  ∀ r : MatReq,
    (∀ f full ao bo bs u, r.kind = .mma f full ao bo bs u → r.duration = 24 ∧ (r.lanes = 0 → r.occupancy = 0) ∧
      let pass := if full = true then 2 else 1
      (r.lanes = 0xFFFFFFFF → r.occupancy = 2 * pass) ∧ (r.lanes = 0x00FF00FF ∨ r.lanes = 0xFF00FF00 → r.occupancy = pass) ∧
      (r.lanes = 0xFF ∨ r.lanes = 0xFF00 ∨ r.lanes = 0xFF0000 ∨ r.lanes = 0xFF000000 → r.occupancy = pass) ∧
      (r.lanes = 0xFFFF ∨ r.lanes = 0xFF0000FF ∨ r.lanes = 0xFFFF0000 ∨ r.lanes = 0x00FFFF00 ∨ r.lanes = 0x00FFFFFF → r.occupancy = 2 * pass)) ∧
    (∀ v, r.kind = .accz v → r.duration = 4 ∧ r.occupancy = 1) ∧
    (∀ off v, r.kind = .accld off v → r.duration = 16 ∧ r.occupancy = 4) ∧
    ∀ dst off g, r.kind = .accst dst off g → r.occupancy = 4 ∧ (dst = 2 → r.duration = 20) ∧ (dst ≠ 2 → r.duration = 16)

/-- R353: from when a load of scope 0 of one thread whose translation is in the TLB may arrive, counted from its issue, or, where its translation was
not there then, from when it is (the walk's time comes on top): 16 cycles where the core's view
holds its bytes, 48 where the cluster's does, 110 or 180 for a home slice by its die, 160 more where that must read the line from HBM, and
600 for another device's; in no case before the next cycle. -/
def LoadsTakeTheirTime : Prop :=
  ∀ (s : State) (b c : Nat) (bk : Block) (o : MemOp) (a : Access) (pas : List Nat) (x : MWord) (p : Pending), Ready s b c bk o a pas →
    o.i = .ldg x → MWord.scope x = 0 → pas ≠ [] → (s.tlbHit c bk.ctx a.addr).isSome = true → o.arrive = none →
    bk.pend = [p] → p.op = o.id → p.due = none →
    let pa := pas.headD 0
    let near := Config.homeDie (pa / 128) = dieOf c
    let lies := fun (k : Nat) => ∀ i ∈ pas, (∀ j < k, Tbl.get? (s.ms.view c j) i = none) ∧
      (k < truthLevel s.dev i → (Tbl.get? (s.ms.view c k) i).isSome = true)
    let takes := fun (n : Nat) => ∃ t y, exec (.translation (.mem b o.id)) s = .next t ∧ t.block? b = some y ∧
      ∃ q ∈ y.ops, q.id = o.id ∧ q.arrive = some (max ((if o.missed then s.cyc else o.issued) + n) (s.cyc + 1))
    (lies 0 → takes 16) ∧ (lies 1 → takes 48) ∧
    (lies 2 → (∀ i ∈ pas, homeOf i = s.dev) → takes ((if near then 110 else 180) + if s.missesSlice 2 pa then 160 else 0)) ∧
    (lies 2 → (∀ i ∈ pas, homeOf i ≠ s.dev) → takes (if near then 110 else 180)) ∧
    (lies 3 → (∀ i ∈ pas, homeOf i ≠ s.dev) → takes (600 + if s.missesSlice 3 pa then 160 else 0))

/-! ### Values of the float, conversion and matrix arithmetic (R162–R189, R174, R175, R300), worked out by hand or given by the manual -/

/-- R166–R168, R181, R183: sums, differences, products and special functions of FP32 values, with their roundings. -/
def FloatValues : Prop :=
  faddE 0 0x3F800000 0x40000000 0 = 0x40400000 ∧ faddE 0 0x3F800000 0x33800000 0 = 0x3F800000 ∧ faddE 1 0x3F800000 0x33800000 0 = 0x3F800000 ∧
  faddE 2 0x3F800000 0x33800000 0 = 0x3F800000 ∧ faddE 3 0x3F800000 0x33800000 0 = 0x3F800001 ∧ faddE 2 0xBF800000 0xB3800000 0 = 0xBF800001 ∧
  faddE 0 0x7F800000 0xFF800000 0 = 0x7FC00000 ∧ faddE 0 0x80000000 0x80000000 0 = 0x80000000 ∧
  fsubE 0 0x3F800000 0x3F800000 0 = 0 ∧ fsubE 2 0x3F800000 0x3F800000 0 = 0x80000000 ∧
  fmulE 0 0x40400000 0x40A00000 0 = 0x41700000 ∧ fmulE 0 0x7F7FFFFF 0x40000000 0 = 0x7F800000 ∧ fmulE 1 0x7F7FFFFF 0x40000000 0 = 0x7F7FFFFF ∧
  fmulE 0 0x7F800000 0 0 = 0x7FC00000 ∧ fmulE 0 0x00800000 0x3F000000 0 = 0x00400000 ∧
  ffmaE 0 0x3F800800 0x3F800800 0xBF801000 = 0x33800000 ∧
  fminmax false false 0x80000000 0 = 0x80000000 ∧ fminmax true false 0x80000000 0 = 0 ∧ fminmax false false 0x7FC00000 0x3F800000 = 0x3F800000 ∧
  fminmax false true 0x7FC00000 0x3F800000 = 0x7FC00000 ∧
  frndE .rn 0xBE99999A = 0x80000000 ∧ frndE .rn 0x40200000 = 0x40000000 ∧ frndE .ru 0x40200000 = 0x40400000 ∧
  specialE 0x69 0x40000000 = 0x3FB504F3 ∧ specialE 0x69 0x80000000 = 0x80000000 ∧ specialE 0x67 0x40800000 = 0x3E800000 ∧
  specialE 0x68 0x40800000 = 0x3F000000 ∧ specialE 0x6A 0x40400000 = 0x41000000 ∧ specialE 0x6B 0x41000000 = 0x40400000 ∧
  specialE 0x6D 0 = 0x3F800000 ∧ specialE 0x6C 0x39000000 = 0x39000000 ∧ specialE 0x6E 0xFF800000 = 0xBF800000

/-- R162–R169, R184–R188: conversions between formats, of packed halves and of integers; the manual's examples and others. -/
def ConversionValues : Prop :=
  convertCode 2 .rn false (f32.val 0x477FEF00) = 0x7BFF ∧ convertCode 2 .rn false (f32.val 0x477FF000) = 0x7C00 ∧
  convertCode 3 .rn false (f32.val 0x447A0000) = 0x7E ∧ convertCode 3 .rn true (f32.val 0xC47A0000) = 0xFF ∧
  convertCode 4 .rn false (f32.val 0x47C35000) = 0x7B ∧ convertCode 4 .rn true (f32.val 0xC7C35000) = 0xFC ∧
  convertCode 1 .rn false (f32.val 0x3F808000) = 0x3F80 ∧ convertCode 1 .ru false (f32.val 0x3F808000) = 0x3F81 ∧
  convertCode 3 .rn false (f32.val 0x3E99999A) = 0x2A ∧ convertCode 9 .rn false (f32.val 0x40466666) = 0x24 ∧
  convertCode 9 .rn true (f32.val 0x44FA0000) = 0x80 ∧ convertCode 9 .rn false (f32.val 0x44FA0000) = 0x01 ∧ convertCode 9 .rn false (f32.val 0x80000000) = 0 ∧
  f32.convert .rn false (widenCode 9 0x24) = 0x40400000 ∧ f32.convert .rn false (widenCode 9 0x80) = 0x7FC00000 ∧
  f32.convert .rn false (widenCode 5 0x7F) = 0x3F800000 ∧ f32.convert .rn false (widenCode 5 0xFF) = 0x7FC00000 ∧
  f32.convert .rn false (widenCode 3 0x38) = 0x3F800000 ∧ f32.convert .rn false (widenCode 4 0x01) = 0x37800000 ∧
  f2iE 7 .rn 0x40200000 = 2 ∧ f2iE 7 .ru 0x40200000 = 3 ∧ f2iE 7 .rd 0xC0200000 = 0xFFFFFFFD ∧ f2iE 7 .rn 0x7FC00000 = 0 ∧
  f2iE 7 .rn 0x4F32D05E = 0x7FFFFFFF ∧ f2iE 8 .rn 0xBF800000 = 0 ∧ f2iE 6 .rn 0x43480000 = 127 ∧ f2iE 6 .rn 0xC3480000 = 0xFFFFFF80 ∧
  i2fE 7 .rn 0x01000001 = 0x4B800000 ∧ i2fE 7 .ru 0x01000001 = 0x4B800001 ∧ i2fE 6 .rn 0xFF = 0xBF800000 ∧ i2fE 8 .rn 0xFFFFFFFF = 0x4F800000 ∧
  i2fE 8 .rz 0xFFFFFFFF = 0x4F7FFFFF ∧
  hadd2E 0 0x3C004000 0x3C003C00 0 = 0x40004200 ∧ hadd2E 8 0x3F803F80 0x3F804000 0 = 0x40004040 ∧ hmul2E 0 0x7C004000 0x00004200 0 = 0x7E004600 ∧
  fdot8E 3 3 .rn 0x38383838 0x30303030 0x3F800000 = 0x40400000 ∧ fdot8E 3 4 .rn 0x38383838 0x40404040 0 = 0x41000000 ∧
  fdot8E 4 3 .rn 0x7C 0 0 = 0x7FC00000

/-- R174, R175, R300: groups of the matrix engine round once, after their scales: the manual's example of 32 products of a half, onto 2^24; and the
copies that RESAMP's arithmetic gives to weights 1, 1, 0, 2 and to those it takes for 0. -/
def GroupAndResamplingValues : Prop :=
  let half := List.replicate 32 (widenCode 3 0x30, widenCode 3 0x38)
  matGroup 0x4B800000 half (some (127, 127)) = 0x4B800008 ∧ matGroup 0x4B800008 half (some (127, 127)) = 0x4B800010 ∧
  matGroup 0x4B800000 half (some (128, 127)) = 0x4B800010 ∧ matGroup 0x4B800000 half (some (127, 255)) = 0x7FC00000 ∧
  matGroup 0x3F800000 [(widenCode 1 0x7F80, widenCode 1 0)] none = 0x7FC00000 ∧
  matGroup 0x3F800000 [(widenCode 1 0x7F80, widenCode 1 0x3F80)] none = 0x7F800000 ∧
  resampCounts ([0x3F800000, 0x3F800000, 0, 0x40000000].map fun x => resampWeight x) 0 2 = [1, 0, 0, 1] ∧
  resampCounts ([0x3F800000, 0x40400000].map fun x => resampWeight x) 0x80000000 4 = [1, 3] ∧
  resampCounts ([0x7FC00000, 0xBF800000, 0x3F800000].map fun x => resampWeight x) 0 3 = [0, 0, 3]

/-! ### The task engine's words at the master (R214, R216, R283–R295) -/

/-- The operation with one access that acts at the master: the oldest of its thread. -/
structure AtMaster (s : State) (b c : Nat) (bk : Block) (o : MemOp) (a : Access) : Prop where
  here : s.block? b = some bk
  core : bk.core? = some c
  found : bk.ops.find? (·.id == o.id) = some o
  line : bk.inLine o.id = true
  one : o.todo = [a]
  clean : o.held = [] ∧ o.parked = []
  master : s.cp.master ≠ none

/-- The one result in flight to the operation's thread receives a value: all of it in a scalar register, else its low 32 bits. -/
def Answered (t : State) (b : Nat) (bk : Block) (o : MemOp) (a : Access) (scalar : Bool) (v : DWord) : Prop :=
  ∀ p, bk.pend = [p] → p.op = o.id → p.due = none →
    (if scalar then ∃ n, p.tgt = .scalar a.w n else p.forThread a.w a.lane = true) →
    ∃ y, t.block? b = some y ∧ y.pend = [{ p with val := if scalar then v else (v.setWidth 32).setWidth 64 }]

/-- The thread of an access has a memory-precise fault to take (R106). -/
def FaultFound (t : State) (b : Nat) (bk : Block) (o : MemOp) (a : Access) (e : Code) (faddr : Nat) : Prop :=
  (bk.thread a.w a.lane).live = true → (bk.thread a.w a.lane).memFault = none → (bk.thread a.w a.lane).recorded = none →
    ∃ y, t.block? b = some y ∧ (y.thread a.w a.lane).memFault = some (o.id, { code := e, fpc := o.pc, faddr := BitVec.ofNat 64 faddr, fmask := maskOf [a.lane] }) ∧
      ∃ q ∈ y.ops, q.id = o.id ∧ q.todo = [] ∧ a ∈ q.held

/-- R269, R286, R295: FTNEW takes the lowest free entry of the Larder, EMPTY with its target, and answers its handle, or 0 where the Larder is full.
The entry names a maker that may still be rolled back, whose next run takes up the entries of its last one
first (log 168, DESIGN CHOICE): here none is left. -/
def FuturesAreMade : Prop :=
  ∀ (s : State) (b c : Nat) (bk : Block) (o : MemOp) (a : Access) (x : MWord), AtMaster s b c bk o a → o.i = .ftnew x →
    (∀ p ∈ s.cp.futures, p.2.kept = false) →
    ∃ t, exec (.translation (.mem b o.id)) s = .next t ∧ t.ms = s.ms ∧ t.cp.tasks = s.cp.tasks ∧
      (∀ k, freeSlot s.cp.futures = some k → let g := (Tbl.getD s.cp.futGen k 0 + 1) % 4096
        Tbl.get? t.cp.futures k = some { value := 0, target := BitVec.ofNat 64 (ofBytes a.data), st := .empty, ctx := bk.ctx, waiters := [], maker := s.mayRoll bk.task } ∧
        Tbl.get? t.cp.futGen k = some g ∧ (∀ j, j ≠ k → Tbl.get? t.cp.futures j = Tbl.get? s.cp.futures j) ∧
        Answered t b bk o a x.d.isScalar ((mkHandle 1 k g).setWidth 64)) ∧
      (freeSlot s.cp.futures = none → t.cp = s.cp ∧ Answered t b bk o a x.d.isScalar 0)

/-- R286, R287, R295: FTFUL publishes as PHASE.dev does, and then gives an EMPTY future its value, or adds to a counter, which is FULL once it has
reached its target; `.flt` makes it FAULTED; a future that is not EMPTY raises FUTFAULT and stays. -/
def FuturesAreFulfilled : Prop :=
  ∀ (s : State) (b c : Nat) (bk : Block) (o : MemOp) (a : Access) (x : MWord) (v : View) (f : Future), AtMaster s b c bk o a → s.nodeTag bk.task = none →
    o.i = .ftful x →
    let h : Word := BitVec.ofNat 32 a.addr
    let slot := handleSlot h
    let d : DWord := BitVec.ofNat 64 (ofBytes a.data)
    let flt := x.kind.getLsbD 0
    s.cp.waited = [] → s.look bk.ctx h = some v → v.ver = none → handleKind h = 1 → Tbl.get? s.cp.futures slot = some f →
    ∃ t, exec (.translation (.mem b o.id)) s = .next t ∧ t.ms.truth = (s.ms.publish s.dev c 2).truth ∧
      (∀ e k, t.ms.view e k = (s.ms.publish s.dev c 2).view e k) ∧ (∀ j, j ≠ slot → Tbl.get? t.cp.futures j = Tbl.get? s.cp.futures j) ∧
      (f.st = .empty → flt = true → Tbl.get? t.cp.futures slot = some { f with st := .faulted }) ∧
      (f.st = .empty → flt = false → f.target = 0 → Tbl.get? t.cp.futures slot = some { f with value := d, st := .full }) ∧
      (f.st = .empty → flt = false → f.target ≠ 0 → f.target ≤ f.value + d →
        Tbl.get? t.cp.futures slot = some { f with value := f.value + d, st := .full }) ∧
      (f.st = .empty → flt = false → f.value + d < f.target → Tbl.get? t.cp.futures slot = some { f with value := f.value + d }) ∧
      (f.st ≠ .empty → Tbl.get? t.cp.futures slot = some f ∧ FaultFound t b bk o a .futfault a.addr)

/-- R272, R286, R287, R295: FTGET answers the value, or with `.st` the state; FTWAIT answers the value of a FULL entry and lets its thread go on, parks
on an EMPTY one behind those that wait there, and raises FUTFAULT on a FAULTED one. A value of a FULL entry comes with the refresh of PHASE.dev; that
FTGET `.st` brings none is the model's choice (log 60, DEDUCED). -/
def FuturesAreRead : Prop :=
  ∀ (s : State) (b c : Nat) (bk : Block) (o : MemOp) (a : Access) (x : MWord) (v : View), AtMaster s b c bk o a →
    let h : Word := BitVec.ofNat 32 a.addr
    let u := if v.st = .full then s.ms.refresh c 2 else s.ms
    s.look bk.ctx h = some v → v.ver = none → v.effect = none →
    (o.i = .ftget x → ∃ t, exec (.translation (.mem b o.id)) s = .next t ∧ t.cp = s.cp ∧
      (x.kind.getLsbD 0 = false → t.ms = u ∧ Answered t b bk o a x.d.isScalar v.value) ∧
      (x.kind.getLsbD 0 = true → t.ms = s.ms ∧
        Answered t b bk o a x.d.isScalar (match v.st with | .empty => 0 | .full => 1 | .faulted => 2))) ∧
    (o.i = .ftwait x → ∃ t y, exec (.translation (.mem b o.id)) s = .next t ∧ t.block? b = some y ∧ t.ms = u ∧
      (v.st = .full → t.cp = s.cp ∧ Answered t b bk o a x.d.isScalar v.value ∧ .ftwait o.id ∉ (y.thread a.w a.lane).holds) ∧
      (v.st = .empty → t.waitersOf h = s.waitersOf h ++ [(b, a.w, a.lane)] ∧ y.pend = bk.pend ∧
        ∃ q ∈ y.ops, q.id = o.id ∧ q.todo = [] ∧ q.parked = [a]) ∧
      (v.st = .faulted → t.cp = s.cp ∧ FaultFound t b bk o a .futfault a.addr))

/-- R271, R286, R295: FTDROP frees the entry of a future, or of a task that is done, on which no thread and no task waits; otherwise it raises FUTFAULT and
the entry stays. That a record names its dependences until it is freed, and so refuses it, is the model's choice (log 65, DEDUCED); and so is that an entry
freed by a node that may still be rolled back stays, without a handle, until that is settled (log 169, DESIGN CHOICE; log 63, DEDUCED, for records). -/
def FuturesAreDropped : Prop :=
  ∀ (s : State) (b c : Nat) (bk : Block) (o : MemOp) (a : Access) (x : MWord) (v : View), AtMaster s b c bk o a → o.i = .ftdrop x →
    let h : Word := BitVec.ofNat 32 a.addr
    let slot := handleSlot h
    let frees := s.waitersOf h = [] ∧ s.cp.named h = false ∧ (handleKind h = 3 → v.st ≠ .empty)
    let none_ := s.mayRoll bk.task = none
    s.look bk.ctx h = some v → v.ver = none →
    ∃ t, exec (.translation (.mem b o.id)) s = .next t ∧ t.ms.truth = s.ms.truth ∧
      (∀ n, frees → s.mayRoll bk.task = some n →
        (handleKind h = 1 → t.cp.tasks = s.cp.tasks ∧
          ∀ j, Tbl.get? t.cp.futures j = (Tbl.get? s.cp.futures j).map fun f => if j = slot then { f with freedBy := some n } else f) ∧
        (handleKind h = 3 → t.cp.futures = s.cp.futures ∧
          ∀ j, Tbl.get? t.cp.tasks j = (Tbl.get? s.cp.tasks j).map fun k => if j = slot then { k with dropped := true, droppedBy := some n } else k)) ∧
      (frees → none_ → handleKind h = 1 → Tbl.get? t.cp.futures slot = none ∧ (∀ j, j ≠ slot → Tbl.get? t.cp.futures j = Tbl.get? s.cp.futures j) ∧
        t.cp.tasks = s.cp.tasks) ∧
      (frees → none_ → handleKind h = 3 → (Tbl.get? s.cp.tasks slot).any Task.unsettled = false →
        (∀ p ∈ s.cp.futures, p.2.maker ≠ some slot ∧ p.2.freedBy ≠ some slot) → (∀ p ∈ s.cp.tasks, p.2.maker ≠ some slot ∧ p.2.droppedBy ≠ some slot) →
        Tbl.get? t.cp.tasks slot = none ∧
        (∀ j, j ≠ slot → Tbl.get? t.cp.tasks j = Tbl.get? s.cp.tasks j) ∧ t.cp.futures = s.cp.futures) ∧
      (¬ frees → (v.effect = none → t.cp = s.cp) ∧ t.cp.futures = s.cp.futures ∧ FaultFound t b bk o a .futfault a.addr)

/-- R271, R295: a handle that names nothing of the context raises STALE, with the handle as its address, and changes no entry. A step on an entry that a node freed which may still be rolled back waits, unless its task may inherit from
that node (log 169, DESIGN CHOICE). -/
def StaleHandlesFault : Prop :=
  ∀ (s : State) (b c : Nat) (bk : Block) (o : MemOp) (a : Access) (x : MWord), AtMaster s b c bk o a →
    o.i = .ftful x ∨ o.i = .ftget x ∨ o.i = .ftwait x ∨ o.i = .ftdrop x → s.look bk.ctx (BitVec.ofNat 32 a.addr) = none →
    let n := s.freedBy bk.ctx (BitVec.ofNat 32 a.addr)
    ∃ t, exec (.translation (.mem b o.id)) s = .next t ∧ t.cp.futures = s.cp.futures ∧
      (s.mayStep bk.task n = true → FaultFound t b bk o a .stale a.addr) ∧ (n = none → t.cp = s.cp) ∧
      (s.mayStep bk.task n = false → t.cp = s.cp ∧ ∃ y, t.block? b = some y ∧ y.pend = bk.pend ∧ ∃ q ∈ y.ops, q.id = o.id ∧ q.todo = [a])

/-- R282, R283, R294: TNEXT hands out the first chunk of its block's interval: its start and its count; where that is empty, the upper half of the only
other interval becomes the block's first; and where no work is left it answers 0 and 0. That an interval is split before returned work is taken is the
model's choice (log 68, DEDUCED). -/
def ChunksAreHandedOut : Prop :=
  ∀ (s : State) (b c : Nat) (bk : Block) (o : MemOp) (a : Access) (x : MWord) (n : BitVec 6) (k : Task) (p q : Pending), AtMaster s b c bk o a →
    o.i = .tnext x → x.d = .s n → Tbl.get? s.cp.tasks bk.task = some k → 1 ≤ k.lpb.grain →
    bk.pend = [p, q] → p.op = o.id → q.op = o.id → p.due = none → q.due = none → p.tgt = .scalar a.w n.toNat → q.tgt = .scalar a.w (n.toNat + 1) →
    let mine := k.intervals.find? fun i => i.blk == bk.blk && decide (i.b < i.e)
    let gives := fun (start count : Nat) (z : Task) => ∃ t y, exec (.translation (.mem b o.id)) s = .next t ∧ t.ms = s.ms ∧ t.block? b = some y ∧
      y.pend = [{ p with val := BitVec.ofNat 64 start }, { q with val := BitVec.ofNat 64 count }] ∧ Tbl.get? t.cp.tasks bk.task = some z ∧
      t.cp.futures = s.cp.futures
    (k.lpb.pop = true → gives 0 0 k) ∧
    (∀ i, k.lpb.pop = false → mine = some i → let m := min (i.b + k.lpb.grain) i.e
      gives i.b (m - i.b) { k with intervals := (k.intervals.filter fun j => j.blk != bk.blk) ++ [{ b := m, e := i.e, blk := bk.blk }],
                                   chunks := k.chunks ++ [{ b := i.b, e := m, blk := bk.blk }] }) ∧
    (∀ i, k.lpb.pop = false → k.intervals = [i] → i.blk ≠ bk.blk → k.lpb.grain < i.e - i.b →
      let h := i.b + k.lpb.grain * (((i.e - i.b + k.lpb.grain - 1) / k.lpb.grain + 1) / 2)
      let m := min (h + k.lpb.grain) i.e
      gives h (m - h) { k with intervals := [{ b := i.b, e := h, blk := i.blk }, { b := m, e := i.e, blk := bk.blk }],
                               chunks := k.chunks ++ [{ b := h, e := m, blk := bk.blk }] }) ∧
    (k.lpb.pop = false → k.unclaimed = [] → k.intervals = [] → gives 0 0 k)

/-- R269, R273–R275, R293: SPAWN publishes as PHASE.dev does, reads its parameter block through its core's view, and makes a task of it, which is READY
where nothing holds it back; its handle is the answer. A block that fails its checks raises BOUNDS with the field's offset; one at an address that is no
multiple of 256 raises ACCESS. A record that an earlier run of its maker made alike is taken up again first (log 168, DESIGN CHOICE): here none is left; nor
has a node that may still be rolled back freed one of the dependences (log 169, DESIGN CHOICE). -/
def TasksAreSpawned : Prop :=
  ∀ (s : State) (b c : Nat) (bk : Block) (o : MemOp) (a : Access) (x : MWord), AtMaster s b c bk o a → o.i = .spawn x → s.cp.waited = [] →
    let u : State := { s with ms := s.ms.publish s.dev c 2 }
    let node := x.kind.getLsbD 0
    (a.addr % 256 ≠ 0 → ∃ t, exec (.translation (.mem b o.id)) s = .next t ∧ t.cp = s.cp ∧ FaultFound t b bk o a .access a.addr) ∧
    ∀ s1 bs, a.addr % 256 = 0 → u.readPath c bk.ctx bk.task a.lv a.addr 256 = .ok (s1, bs) →
      let p := Lpb.ofBytes bs
      (∀ h ∈ p.deps, s1.freedBy bk.ctx h = none) → (∀ q ∈ s.cp.tasks, q.2.kept = false) →
      (∀ off, p.bad (a.lv == .supervisor) node (s1.liveHandle bk.ctx) = some off →
        ∃ t, exec (.translation (.mem b o.id)) s = .next t ∧ t.cp.tasks = s1.cp.tasks ∧ FaultFound t b bk o a .bounds (0x10000 + off)) ∧
      ∀ k, p.bad (a.lv == .supervisor) node (s1.liveHandle bk.ctx) = none → p.schedset = 0 → freeSlot s1.cp.tasks = some k → s1.cp = s.cp →
        let g := (Tbl.getD s.cp.taskGen k 0 + 1) % 4096
        ∃ t z, exec (.translation (.mem b o.id)) s = .next t ∧ t.ms = s1.ms ∧ Tbl.get? t.cp.tasks k = some z ∧ z.lpb = p ∧ z.ctx = bk.ctx ∧
          z.addr = BitVec.ofNat 64 a.addr ∧ z.node = node ∧ z.admitted = 0 ∧ Answered t b bk o a x.d.isScalar ((mkHandle 3 k g).setWidth 64) ∧
          (s.ctxEnding bk.ctx = false → node = false → (∀ h ∈ p.deps, h = 0) → p.lo < p.hi → z.st = .ready)

/-- R216: RCTR answers the counter and adds to it, no further than 0xFFFFFFFF; RSNAP answers it and clears it; a number above 63 raises BOUNDS. -/
def CountersCount : Prop :=
  ∀ (s : State) (b c : Nat) (bk : Block) (o : MemOp) (a : Access) (x : MWord) (p : Pending) (k : Ctx), Ready s b c bk o a [] →
    bk.pend = [p] → p.op = o.id → p.due = none → p.forThread a.w a.lane = true → Tbl.get? s.ctxs bk.ctx = some k →
    s.ms.nodeOf (.counter bk.ctx a.addr) = none →
    let old := s.counter bk.ctx a.addr
    let sets := fun (v : Word) => ∃ t y, exec (.translation (.mem b o.id)) s = .next t ∧ t.ms.truth = s.ms.truth ∧
      t.counter bk.ctx a.addr = v ∧ (∀ n, n ≠ a.addr → t.counter bk.ctx n = s.counter bk.ctx n) ∧
      (∀ z, z ≠ bk.ctx → Tbl.get? t.ctxs z = Tbl.get? s.ctxs z) ∧ t.block? b = some y ∧ y.pend = [{ p with val := old.setWidth 64 }]
    (o.i = .rctr x → sets (BitVec.ofNat 32 (min (old.toNat + ofBytes a.data % 2 ^ 32) 0xFFFFFFFF))) ∧ (o.i = .rsnap x → sets 0)

/-- R216: a counter number above 63 raises BOUNDS, memory-precisely, with the number as its address, and counts nothing. -/
def CountersAreBounded : Prop :=
  ∀ (s : State) (b c : Nat) (bk : Block) (o : MemOp) (a : Access) (x : MWord), s.block? b = some bk → bk.core? = some c →
    bk.ops.find? (·.id == o.id) = some o → bk.inLine o.id = true → o.todo = [a] → o.i = .rctr x ∨ o.i = .rsnap x → 63 < a.addr →
    ∃ t, exec (.translation (.mem b o.id)) s = .next t ∧ t.ctxs = s.ctxs ∧ t.ms.truth = s.ms.truth ∧ FaultFound t b bk o a .bounds a.addr

/-! ### RESAMP with a positive weight (R300–R302) -/

/-- A collective whose 64 cycles are over: its population's arrivals by ascending `%uid`, the copies that each thread receives, with a positive total
weight. -/
structure Collects (s : State) (n : Nat) (k : Task) (as : List Arrival) (x : MWord) (counts : List Nat) : Prop where
  task : Tbl.get? s.cp.tasks n = some k
  arrived : s.arrivals n = some as
  population : k.lpb.pop = true
  resident : (s.blocksOf n).all (fun p => p.2.core?.isSome && p.2.drain.isNone) = true
  time : maxBy (fun (y : Arrival) => y.op.issued) as + 64 ≤ s.cyc
  master : s.cp.master ≠ none
  table : Tbl.risingFrom none s.blocks = true
  places : (as.map fun y => (y.b, y.w, y.l)).Nodup
  live : ∀ y ∈ as, ∃ bk, s.block? y.b = some bk ∧ bk.task = n ∧ (bk.thread y.w y.l).live = true
  word : ∀ y ∈ as.head?, y.op.i = .resamp x
  weight : ∀ neg e, (resampSums (as.map fun y => resampWeight y.weight)).2 ≠ .fin neg 0 e
  copies : counts = resampCounts (as.map fun y => resampWeight y.weight)
    (if x.b = .z then (rand k.lpb.seed (k.gen.setWidth 64)).toNat % 2 ^ 32 else (as.head?.map fun y => y.u.toNat).getD 0) x.imm.toNat

/-- R301: where no thread receives more than one copy, each thread with none dies, and each other keeps its lane: its `%uid` is its rank among those that
live on, its `%par` the `%uid` it had; a result of RESAMP in flight to a row of no other warp lands as 0; the generation advances. -/
def CollectivesWithoutClones : Prop :=
  ∀ (s : State) (n : Nat) (k : Task) (as : List Arrival) (x : MWord) (counts : List Nat), Collects s n k as x counts → (∀ c ∈ counts, c ≤ 1) →
    ∃ t, exec (.resampCollective n) s = .next t ∧ t.cyc = s.cyc ∧ t.ms = s.ms ∧ Tbl.get? t.cp.tasks n = some { k with gen := k.gen + 1 } ∧
      (∀ i y c, as[i]? = some y → counts[i]? = some c → ∃ z, t.block? y.b = some z ∧
        (c = 0 → (z.thread y.w y.l).live = false) ∧
        (c = 1 → (z.thread y.w y.l).live = true ∧ (z.thread y.w y.l).par = BitVec.ofNat 32 y.uid ∧
          (z.thread y.w y.l).uid = BitVec.ofNat 32 ((counts.take i).filter (· == 1)).length)) ∧
      ∀ b bk, s.block? b = some bk → bk.task = n → ∃ z, t.block? b = some z ∧ (∀ o ∈ z.ops, resampWord o.i = none) ∧
        ∀ p ∈ bk.pend, ∀ o ∈ bk.ops, p.op = o.id → (resampWord o.i).isSome = true → ∀ r l, p.tgt = .row r l → (bk.mappers r).length ≤ 1 →
          (∀ q ∈ bk.pend, q.tgt = .row r l → q = p) → (z.row r).val l = 0

/-- R301, R302: a population's only thread is cloned into the vacant lanes in their order: a clone stands at the bundle after the RESAMP with its parent's
registers and return stack, the parent's `%uid` as its `%par`, and its rank as its `%uid`; its number is written to d, in a row of its warp alone. That its
level is the parent's at the RESAMP is the model's choice (log 83, DEDUCED): R302's list names no level; and so is that the errors of what it receives come
with it, and that words which had to be rebuilt hold its thread for 24 cycles (log 172, DESIGN CHOICE). -/
def CollectivesOfOneParent : Prop :=
  ∀ (s : State) (n c : Nat) (k : Task) (a : Arrival) (x : MWord) (pb : Block), Collects s n k [a] x [c] → 1 ≤ c → s.block? a.b = some pb →
    (∀ m, x.d ≠ .o m) →
    let pt := pb.thread a.w a.l
    let free := (s.endResamp n).vacant n k a.b a.w []
    ∃ t, exec (.resampCollective n) s = .next t ∧ t.cyc = s.cyc ∧ t.ms = s.ms ∧ Tbl.get? t.cp.tasks n = some { k with gen := k.gen + 1 } ∧
      (∃ z, t.block? a.b = some z ∧ (z.thread a.w a.l).live = true ∧ (z.thread a.w a.l).uid = 0 ∧
        (z.thread a.w a.l).par = BitVec.ofNat 32 a.uid) ∧
      ∀ j b w l, j + 1 < c → free[j]? = some (b, w, l) → ∃ z, t.block? b = some z ∧
        let th := z.thread w l
        th.live = true ∧ th.pc = a.op.pc + 32 ∧ th.level = a.lv ∧ th.uid = BitVec.ofNat 32 (j + 1) ∧ th.par = BitVec.ofNat 32 a.uid ∧
        ((∀ r ∈ cloneWords k.lpb.k, pb.errAt a.w a.l r = false) → th.o = pt.o ∧ th.oErr = pt.oErr) ∧
        th.ready = s.nowOf b + (if (cloneWords k.lpb.k).any (fun r => pb.errAt a.w a.l r && (pb.replayOf a.w a.l r).isSome) then 24 else 1) ∧
        th.p = pt.p ∧ (∀ i < 7, z.ecc.contains (.pred w l i) = pb.ecc.contains (.pred a.w a.l i)) ∧ th.stack = pt.stack ∧ th.stall = 0 ∧ th.pstall = 0 ∧
        ∀ bk m r, c = 2 → s.block? b = some bk → x.d = .v m → bk.mapOf w m = some (.row r) → bk.mappers r = [w] → (z.row r).val l = BitVec.ofNat 32 (j + 1)

end Sys2Proof.Claims

/-! ### The statements that join several of these -/

/-- R35–R41, R47–R49: every well-formed instruction word, and every well-formed half of a P word, is decoded back from its encoding with all its operands. -/
def Obligations.WordsAndHalvesRoundTrip : Prop :=
  Claims.WordsRoundTrip ∧
  Claims.HalvesRoundTrip

/-- R30, R33, R45, R51: the checks on a bundle as a whole, and a word that stands alone in one. -/
def Obligations.BundlesAreDecoded : Prop :=
  Claims.BundlesAreChecked ∧
  Claims.WordsStandAlone

/-- R29–R32, R89: a step whose choice issues a bundle runs what the bundle decodes to. -/
def Obligations.StepRunsTheDecodedInstruction : Prop :=
  Claims.StepRunsTheWord ∧
  Claims.StepRunsTheBundle

/-- Log 1, R10, R25, R91, R95: the choice that a step carries out, and the end of a chip cycle. -/
def Obligations.StepCarriesOutChoicesAndCounts : Prop :=
  Claims.StepCarriesOutChoices ∧
  Claims.TicksCount ∧
  Claims.QuietTicksLandResults

/-- R34, R50, R51, R145: the faults of fetch and decode are taken before any word acts. -/
def Obligations.FaultsBeforeTheWords : Prop :=
  Claims.BadBundlesFault ∧
  Claims.PrivilegedWordsTrap

/-- R31, R104, R105, R196: the checks at issue and their order. -/
def Obligations.ChecksAtIssue : Prop :=
  Claims.ChecksDecideTheGroup ∧
  Claims.ChecksHaveTheirOrder

/-- R95, R96, R98, R129, R140, R149, R150, R152, R154–R160, R182, R190–R194, R296: the other words of one result, per lane and per warp, and what their
values are. The model's own choices: what stands in a lane without a thread (log 124, DESIGN CHOICE), and ELECT, MAPQ and EMPQ write the last-result
register (log 40, DEDUCED). -/
def Obligations.OtherResults : Prop :=
  Claims.OtherLaneResults ∧
  Claims.OtherScalarResults ∧
  Claims.SpecialRegistersRead ∧
  Claims.MapsAreDescribed ∧
  Claims.ShufflesTakeTheirLane ∧
  Claims.ReductionsVotesAndRelations

/-- R98, R134, R140, R157, R159, R178, R182, R185, R189, R190, R193: second results and predicates. -/
def Obligations.SecondResults : Prop :=
  Claims.TwoResults ∧
  Claims.PredicateResults ∧
  Claims.VoteAndMatchPredicates ∧
  Claims.OtherWordsWriteNoPredicate

/-- R154–R156, R162–R188, R174, R175, R300: what the integer words compute, and values of the float, conversion and matrix arithmetic. -/
def Obligations.ArithmeticFormulas : Prop :=
  Claims.IntegerFormulas ∧
  Claims.BitFormulas ∧
  Claims.FloatValues ∧
  Claims.ConversionValues ∧
  Claims.GroupAndResamplingValues

/-- R133, R137: calls and returns. -/
def Obligations.CallsAndReturns : Prop :=
  Claims.CallsPush ∧
  Claims.CallsLink ∧
  Claims.Returns

/-- R31, R142, R143: words without effect, advice, and sleep. How the counts of sleep convert is the model's reading (log 16, DEDUCED). -/
def Obligations.AdviceAndSleep : Prop :=
  Claims.NopsDoNothing ∧
  Claims.HintsAdvise ∧
  Claims.Sleeps

/-- R106, R146: the return from a handler. The model's own choices: the holds that the handler's entry interrupted stand again (log 51, DEDUCED), and the
result of a dropped operation lands at the next core cycle (log 44). -/
def Obligations.EretReturnsAndReplays : Prop :=
  Claims.EretReturns ∧
  Claims.EretReplays ∧
  Claims.EretDrops

/-- R145, R147: taking a fault at user level and at supervisor level. That holds are set aside until ERET is the model's reading (log 51, DEDUCED). -/
def Obligations.FaultsAreTaken : Prop :=
  Claims.TakingAFault ∧
  Claims.SupervisorFaultEndsTheContext

/-- R94, R139, R141: rejoin registers. That a lane without a thread is vacant is the model's reading (log 43, DEDUCED). -/
def Obligations.RejoinPoints : Prop :=
  Claims.JsetLoadsTheMask ∧
  Claims.JwaitHolds ∧
  Claims.LastArrivalsRelease

/-- R149, R150: writes of special registers. The model's readings: what `$z` and a group write (log 35), the reserved bits of `%fcode` (log 36), and what
a change of owner does to the tiles (log 132; all DEDUCED). -/
def Obligations.SpecialRegisterWrites : Prop :=
  Claims.SwrWritesThreadRegisters ∧
  Claims.SwrWritesWideRegisters

/-- R115–R117, R127: allocation of rows. -/
def Obligations.RowsAreAllocated : Prop :=
  Claims.RnewMapsAFreeRow ∧
  Claims.UnmappedDestinationsAllocate

/-- R117, R127, R130: map edits. -/
def Obligations.NamesAreEdited : Prop :=
  Claims.RfreeUnmaps ∧
  Claims.NamesMove ∧
  Claims.SeteMarksLanes

/-- R124, R128: the Pantry. -/
def Obligations.PantryExchangesRows : Prop :=
  Claims.GiveSendsTheRow ∧
  Claims.TakeReceivesTheRow

/-- R97, R98, R198, R207–R209: local loads. -/
def Obligations.LocalLoadsAnswerBytes : Prop :=
  Claims.LocalLoads ∧
  Claims.LocalLoadsOfScalars

/-- R19, R21, R198, R209, R213, R214: local stores and atomics, and the local words that wait (log 22, DEDUCED). -/
def Obligations.LocalWritesStore : Prop :=
  Claims.LocalStores ∧
  Claims.LocalAtomics ∧
  Claims.LocalAtomicsOfZ ∧
  Claims.LocalWordsActLater

/-- R43, R106, R204, R208, R209, R271, R272, R286, R287, R291, R295: words that act through operations. The model's own choices: a word whose translations
are at hand performs at once (log 58, DESIGN CHOICE), FTGET `.st` brings no refresh (log 60, DEDUCED), a dependence that stands refuses FTDROP (log
65, DEDUCED), and what a node that may be rolled back makes and frees (log 168, 169, DESIGN CHOICE). -/
def Obligations.OperationsOfMemoryAndTasks : Prop :=
  Claims.OperationsJoin ∧
  Claims.NoAccessNoEffect ∧
  Claims.FuturesAreMade ∧
  Claims.FuturesAreFulfilled ∧
  Claims.FuturesAreRead ∧
  Claims.FuturesAreDropped ∧
  Claims.StaleHandlesFault

/-- R17, R19, R22, R210, R217, R218, R355: publication, and the ordering words that wait (log 22, DEDUCED). -/
def Obligations.PublicationOfViews : Prop :=
  Claims.PhasePublishesAndRefreshes ∧
  Claims.PublicationReachesItsLevel ∧
  Claims.OrderingWordsActLater

/-- R19, R211, R217, R218, R355: FENCEL, CFLSH and TLBI. The model's readings: words that wait for their bundle (log 22, DEDUCED), TLBI of any address
(log 126, DEDUCED). -/
def Obligations.FencesAndMaintenance : Prop :=
  Claims.FencelHolds ∧
  Claims.FencelWaitsForRequests ∧
  Claims.FlushesCompletely ∧
  Claims.TranslationsAreDropped

/-- R292: block barriers. That an arrival comes after the earlier memory words of its bundle is the model's reading (log 131, DEDUCED). -/
def Obligations.BlockBarriers : Prop :=
  Claims.BarriersArrive ∧
  Claims.BarriersWaitForMemory ∧
  Claims.BarwWaits

/-- R299–R302: resampling. The model's own choices: a clone's level is its parent's at the RESAMP (log 83, DEDUCED), and the errors of what it receives
come with it (log 172, DESIGN CHOICE). -/
def Obligations.ResamplingCollects : Prop :=
  Claims.ResampArrives ∧
  Claims.CollectivesOfNoWeight ∧
  Claims.CollectivesWithoutClones ∧
  Claims.CollectivesOfOneParent

/-- R103, R222, R224, R232: copy requests and their promises. -/
def Obligations.CopyRequestsJoin : Prop :=
  Claims.CopyRequestsJoin ∧
  Claims.PromisesFollowTheTable

/-- R228, R229, R238–R243: the parts of copy requests. That BCPYA lays its elements out by the shape's width is the model's reading (log 110, DEDUCED). -/
def Obligations.CopyPartsFollowTheirWords : Prop :=
  Claims.CpylCopiesPerLane ∧
  Claims.DescriptorsAreRead ∧
  Claims.BoxElementsHaveTheirPlaces ∧
  Claims.BoxRequestsFollowTheirDescriptor

/-- R235–R237: byte barriers and window lines. That the words wait for an untranslated one of their bundle is the model's reading (log 22, DEDUCED). -/
def Obligations.ByteBarriersAndLines : Prop :=
  Claims.BbiniWritesTheBarrier ∧
  Claims.BbwtWaits ∧
  Claims.LnempMarksLines

/-- R261, R264: the unfolding configuration and the accumulator file. The model's readings: the holds are core cycles (log 56, DEDUCED), ACCSV leaves the
claims (log 57, DEDUCED), and a tile claimed by a block on its way bars its number (log 112, DESIGN CHOICE). -/
def Obligations.AccumulatorFileChangesHands : Prop :=
  Claims.UnfcfConfigures ∧
  Claims.AccsvSaves ∧
  Claims.AccrsLoads ∧
  Claims.AccownHandsOver

/-- R95, R142, R324, R353, R355: the events of a thread's registers and holds. -/
def Obligations.ResultsAndHoldsEnd : Prop :=
  Claims.ResultLands ∧
  Claims.LoadsArrive ∧
  Claims.HoldsEndByTime ∧
  Claims.RegistersAreRepaired

/-- R106, R144, R145, R234: entries that wait for their moment. That a held thread enters at once is the model's reading (log 51, DEDUCED). -/
def Obligations.HandlersAreEntered : Prop :=
  Claims.TrapsAndLatesEnter ∧
  Claims.MemoryFaultsAreTaken

/-- R20, R21, R220, R354: the views and the instruction cache. That an unpublished byte of another node makes way first is the model's choice (log 144,
DEDUCED), and which context an evicted line is charged to is open (log 21). -/
def Obligations.ViewsMoveFillAndDrop : Prop :=
  Claims.MovesPublish ∧
  Claims.FillsAndDrops ∧
  Claims.InstructionCache

/-- R21, R23, R206, R209, R212–R214, R216, R353: performing. That the rest of a line stays where it is is the model's reading (log 105, DEDUCED). -/
def Obligations.AccessesPerform : Prop :=
  Claims.LoadsReadByScope ∧
  Claims.StoresWriteAtScope ∧
  Claims.AtomicsActAtScope ∧
  Claims.LoadsAndStoresPerform ∧
  Claims.LoadsTakeTheirTime ∧
  Claims.AtomicsPerform ∧
  Claims.CountersCount ∧
  Claims.CountersAreBounded

/-- R19, R90, R106, R204, R223: translation. -/
def Obligations.TranslationsDecide : Prop :=
  Claims.TranslationsKeepProgramOrder ∧
  Claims.FailedTranslationsAreFound ∧
  Claims.RequestsTranslate

/-- R26, R224, R229, R234, R238: the steps of the copy engine. -/
def Obligations.CopySteps : Prop :=
  Claims.CopiesStart ∧
  Claims.CopiesDeliver ∧
  Claims.PromisesMissed

/-- R174–R176, R248, R251–R257, R259–R262, R266, R356: the steps of the matrix engine, and what they compute. That lanes which do not take part have scale
0x7F is the model's choice (log 166, DESIGN CHOICE). -/
def Obligations.MatrixSteps : Prop :=
  Claims.MatrixStarts ∧
  Claims.TilesAreComputed ∧
  Claims.ActivationsAreUnfolded ∧
  Claims.MatrixCompletes ∧
  Claims.MatrixTimes ∧
  Claims.TilesChangeHands

/-- R110, R141, R148, R273–R283, R293, R294: tasks, their blocks and their range. The model's own choices: a fresh window reads 0 (log 6, DESIGN CHOICE),
an interval is split before returned work is taken (log 68, DEDUCED), and what a maker that may be rolled back launches names it (log 168, DESIGN
CHOICE). -/
def Obligations.BlocksStartAndFinish : Prop :=
  Claims.TasksAreSpawned ∧
  Claims.ChunksAreHandedOut ∧
  Claims.BlocksAreAdmitted ∧
  Claims.BlocksComplete

/-- R147, R311, R329, R331: commit, rollback and the end of a context. The model's own choices: a dropped record stays until it commits (log 63, DEDUCED),
a requeued node keeps its launch block (log 67, DEDUCED), and what it made and freed is kept (log 168, 169, DESIGN CHOICE). -/
def Obligations.NodesAndContextsEnd : Prop :=
  Claims.NodesCommit ∧
  Claims.NodesRollBack ∧
  Claims.ContextsEnd

/-- R28, R107, R131, R312–R315, R320, R322: relocation. The model's own choices: where the core chosen for a block may not take it any more, it goes to
another, or its move is off and it stays (log 129, DEDUCED); what is on an absent core starts anew, or goes to the Trunk (log 139, DEDUCED), a tile
claimed there bars a core (log 112, DESIGN CHOICE), carried requests enter the queue as there is room (log 141, DESIGN CHOICE), and forced moves are
made at the maintenance slot's boundary (log 115, DESIGN CHOICE). -/
def Obligations.BlocksRelocate : Prop :=
  Claims.DrainsEnd ∧
  Claims.BlocksResume ∧
  Claims.BlocksAreRestored ∧
  Claims.BlocksMigrate

/-- R9, R12, R14–R16, R276, R281, R321, R337, R338: the slot table and firmware writes. That the Cellar's size is written before stage 3 alone is presumed
(log 100, PRESUMED). -/
def Obligations.SlotTableAndFirmware : Prop :=
  Claims.SlotBoundaries ∧
  Claims.FirmwareWritesTheShadowBank ∧
  Claims.FirmwareWritesItsRegisters

/-- R13, R278, R325, R326, R331, R335: scans, fences and the master. The model's own choices: the verdict is noted in the window's last cycle, and the
scan ends at the next window's first (log 115, DESIGN CHOICE); the event of a fence is the decision to fence (log 80, DEDUCED), and acts though no
master is elected (log 145, DESIGN CHOICE); the latch and the scan go over to a spare core (log 113, DEDUCED). -/
def Obligations.ScansAndFences : Prop :=
  Claims.Scans ∧
  Claims.DiesAreFenced

/-- R7, R114, R322, R330, R333, R336, R338, R340: units, spares, clusters and leases. The model's own choices: a failed row without a spare serves while a
reserved share needs it (log 138, DEDUCED), a second failed column makes its cluster absent from then on (log 81, DEDUCED), the latch and the scan go
over to a spare core (log 113, DEDUCED), and maintenance is done at the slot's boundary (log 115, DESIGN CHOICE). -/
def Obligations.UnitsAndClusters : Prop :=
  Claims.UnitsFail ∧
  Claims.SparesSubstitute ∧
  Claims.ClustersAndLeases

/-- R10, R317, R318, R323, R327, R328, R335, R337, R341, R344, R347, R351, R352: boot, host accesses and soft errors. The model's own choices:
DEVICE_RESET leaves the whole reset state, memory included (log 93, DEDUCED; log 1), the worse of two errors of a sector stands (log 90, DEDUCED), and
errors of a Trunk or a spilled version are held with their owners (log 128, DESIGN CHOICE). -/
def Obligations.BootAndTheOutside : Prop :=
  Claims.BootStages ∧
  Claims.HostAccesses ∧
  Claims.SoftErrorsAndLinks

/-- R201, R215, R270, R311, R317, R334, R340, R344, R345, R349, R350: management messages. The model's own choices: CTXNEW takes the lowest free number
(log 86, DEDUCED), mode and account begin at 0 (log 10, DESIGN CHOICE), CTXEND's record holds zeros (log 88, DEDUCED), and a malformed ATTEST is
answered (log 85, DEDUCED). -/
def Obligations.MessagesActOrAreRefused : Prop :=
  Claims.MessagesAreRefused ∧
  Claims.UnknownMessages ∧
  Claims.AttestationIsGiven ∧
  Claims.ContextsAreMade ∧
  Claims.MessagesAct
end

