-- ==== Sys2Proof/Laws/Encoding.lean ====
section
/-! SUPPORT. Sys2Proof/Laws/Encoding.lean: specifiers and fields are read back from the layouts of the four forms (R35–R41). -/

namespace Sys2Proof

/-- A 9-bit specifier is read back. -/
theorem decodeReg9_encodeReg9 (r : Reg) : decodeReg9 (encodeReg9 r) = some r := by
  cases r with
  | v n => revert n; decide
  | o n => revert n; decide
  | last p => cases p <;> decide
  | z => decide
  | s n => revert n; decide

/-- An 8-bit specifier is read back, of a register that has one. -/
theorem decodeReg8_encodeReg8 (r : Reg) (h : ∀ n, r = .v n → n.toNat < 128) : decodeReg8 (encodeReg8 r) = some r := by
  cases r with
  | v n => have := h n rfl; revert this; clear h; revert n; decide
  | o n => clear h; revert n; decide
  | last p => cases p <;> decide
  | z => decide
  | s n => clear h; revert n; decide

/-- The operation number of an F word. -/
theorem packF_op (op : BitVec 8) (w : FWord) : (packF op w).extractLsb' 54 8 = op := by
  show BitVec.extractLsb' (n := 2+8+9+9+9+9+1+1+1+3+1+11) 54 8 _ = _
  simp only [packF]
  repeat (first | rw [BitVec.extractLsb'_append_eq_of_add_le (by decide)] | rw [BitVec.extractLsb'_append_eq_of_le (by decide)])
  exact BitVec.extractLsb'_eq_self

/-- The form of an F word. -/
theorem packF_form (op : BitVec 8) (w : FWord) : (packF op w).extractLsb' 62 2 = 0#2 := by
  show BitVec.extractLsb' (n := 2+8+9+9+9+9+1+1+1+3+1+11) 62 2 _ = _
  simp only [packF]
  repeat (first | rw [BitVec.extractLsb'_append_eq_of_add_le (by decide)] | rw [BitVec.extractLsb'_append_eq_of_le (by decide)])
  exact BitVec.extractLsb'_eq_self

/-- The fields of an F word are read back. -/
theorem fieldsF_packF (op : BitVec 8) (w : FWord) : fieldsF (packF op w) = some w := by
  have f_d : (packF op w).extractLsb' 45 9 = encodeReg9 w.d := by
    show BitVec.extractLsb' (n := 2+8+9+9+9+9+1+1+1+3+1+11) 45 9 _ = _
    simp only [packF]
    repeat (first | rw [BitVec.extractLsb'_append_eq_of_add_le (by decide)] | rw [BitVec.extractLsb'_append_eq_of_le (by decide)])
    exact BitVec.extractLsb'_eq_self
  have f_a : (packF op w).extractLsb' 36 9 = encodeReg9 w.a := by
    show BitVec.extractLsb' (n := 2+8+9+9+9+9+1+1+1+3+1+11) 36 9 _ = _
    simp only [packF]
    repeat (first | rw [BitVec.extractLsb'_append_eq_of_add_le (by decide)] | rw [BitVec.extractLsb'_append_eq_of_le (by decide)])
    exact BitVec.extractLsb'_eq_self
  have f_b : (packF op w).extractLsb' 27 9 = encodeReg9 w.b := by
    show BitVec.extractLsb' (n := 2+8+9+9+9+9+1+1+1+3+1+11) 27 9 _ = _
    simp only [packF]
    repeat (first | rw [BitVec.extractLsb'_append_eq_of_add_le (by decide)] | rw [BitVec.extractLsb'_append_eq_of_le (by decide)])
    exact BitVec.extractLsb'_eq_self
  have f_c : (packF op w).extractLsb' 18 9 = encodeReg9 w.c := by
    show BitVec.extractLsb' (n := 2+8+9+9+9+9+1+1+1+3+1+11) 18 9 _ = _
    simp only [packF]
    repeat (first | rw [BitVec.extractLsb'_append_eq_of_add_le (by decide)] | rw [BitVec.extractLsb'_append_eq_of_le (by decide)])
    exact BitVec.extractLsb'_eq_self
  have f_tba : (packF op w).getLsbD 17 = w.tba := by
    show BitVec.getLsbD (w := 2+8+9+9+9+9+1+1+1+3+1+11) _ 17 = _
    simp only [packF, BitVec.getLsbD_append]
    cases w.tba <;> rfl
  have f_tbb : (packF op w).getLsbD 16 = w.tbb := by
    show BitVec.getLsbD (w := 2+8+9+9+9+9+1+1+1+3+1+11) _ 16 = _
    simp only [packF, BitVec.getLsbD_append]
    cases w.tbb <;> rfl
  have f_tbc : (packF op w).getLsbD 15 = w.tbc := by
    show BitVec.getLsbD (w := 2+8+9+9+9+9+1+1+1+3+1+11) _ 15 = _
    simp only [packF, BitVec.getLsbD_append]
    cases w.tbc <;> rfl
  have f_g : (packF op w).extractLsb' 12 3 = w.g := by
    show BitVec.extractLsb' (n := 2+8+9+9+9+9+1+1+1+3+1+11) 12 3 _ = _
    simp only [packF]
    repeat (first | rw [BitVec.extractLsb'_append_eq_of_add_le (by decide)] | rw [BitVec.extractLsb'_append_eq_of_le (by decide)])
    exact BitVec.extractLsb'_eq_self
  have f_gn : (packF op w).getLsbD 11 = w.gn := by
    show BitVec.getLsbD (w := 2+8+9+9+9+9+1+1+1+3+1+11) _ 11 = _
    simp only [packF, BitVec.getLsbD_append]
    cases w.gn <;> rfl
  have f_mod : (packF op w).extractLsb' 0 11 = w.mod := by
    show BitVec.extractLsb' (n := 2+8+9+9+9+9+1+1+1+3+1+11) 0 11 _ = _
    simp only [packF]
    repeat (first | rw [BitVec.extractLsb'_append_eq_of_add_le (by decide)] | rw [BitVec.extractLsb'_append_eq_of_le (by decide)])
    exact BitVec.extractLsb'_eq_self
  simp only [fieldsF, f_d, f_a, f_b, f_c, f_tba, f_tbb, f_tbc, f_g, f_gn, f_mod, decodeReg9_encodeReg9]
  rfl

/-- The operation number of an I word. -/
theorem packI_op (op : BitVec 8) (w : IWord) : (packI op w).extractLsb' 54 8 = op := by
  show BitVec.extractLsb' (n := 2+8+9+9+3+1+32) 54 8 _ = _
  simp only [packI]
  repeat (first | rw [BitVec.extractLsb'_append_eq_of_add_le (by decide)] | rw [BitVec.extractLsb'_append_eq_of_le (by decide)])
  exact BitVec.extractLsb'_eq_self

/-- The form of an I word. -/
theorem packI_form (op : BitVec 8) (w : IWord) : (packI op w).extractLsb' 62 2 = 2#2 := by
  show BitVec.extractLsb' (n := 2+8+9+9+3+1+32) 62 2 _ = _
  simp only [packI]
  repeat (first | rw [BitVec.extractLsb'_append_eq_of_add_le (by decide)] | rw [BitVec.extractLsb'_append_eq_of_le (by decide)])
  exact BitVec.extractLsb'_eq_self

/-- The fields of an I word are read back. -/
theorem fieldsI_packI (op : BitVec 8) (w : IWord) : fieldsI (packI op w) = some w := by
  have f_d : (packI op w).extractLsb' 45 9 = encodeReg9 w.d := by
    show BitVec.extractLsb' (n := 2+8+9+9+3+1+32) 45 9 _ = _
    simp only [packI]
    repeat (first | rw [BitVec.extractLsb'_append_eq_of_add_le (by decide)] | rw [BitVec.extractLsb'_append_eq_of_le (by decide)])
    exact BitVec.extractLsb'_eq_self
  have f_a : (packI op w).extractLsb' 36 9 = encodeReg9 w.a := by
    show BitVec.extractLsb' (n := 2+8+9+9+3+1+32) 36 9 _ = _
    simp only [packI]
    repeat (first | rw [BitVec.extractLsb'_append_eq_of_add_le (by decide)] | rw [BitVec.extractLsb'_append_eq_of_le (by decide)])
    exact BitVec.extractLsb'_eq_self
  have f_g : (packI op w).extractLsb' 33 3 = w.g := by
    show BitVec.extractLsb' (n := 2+8+9+9+3+1+32) 33 3 _ = _
    simp only [packI]
    repeat (first | rw [BitVec.extractLsb'_append_eq_of_add_le (by decide)] | rw [BitVec.extractLsb'_append_eq_of_le (by decide)])
    exact BitVec.extractLsb'_eq_self
  have f_gn : (packI op w).getLsbD 32 = w.gn := by
    show BitVec.getLsbD (w := 2+8+9+9+3+1+32) _ 32 = _
    simp only [packI, BitVec.getLsbD_append]
    cases w.gn <;> rfl
  have f_imm : (packI op w).extractLsb' 0 32 = w.imm := by
    show BitVec.extractLsb' (n := 2+8+9+9+3+1+32) 0 32 _ = _
    simp only [packI]
    repeat (first | rw [BitVec.extractLsb'_append_eq_of_add_le (by decide)] | rw [BitVec.extractLsb'_append_eq_of_le (by decide)])
    exact BitVec.extractLsb'_eq_self
  simp only [fieldsI, f_d, f_a, f_g, f_gn, f_imm, decodeReg9_encodeReg9]
  rfl

/-- The operation number of a P half. -/
theorem packP_op (op : BitVec 6) (h : PHalf) : (packP op h).extractLsb' 25 6 = op := by
  show BitVec.extractLsb' (n := 6+8+8+1+1+7) 25 6 _ = _
  simp only [packP]
  repeat (first | rw [BitVec.extractLsb'_append_eq_of_add_le (by decide)] | rw [BitVec.extractLsb'_append_eq_of_le (by decide)])
  exact BitVec.extractLsb'_eq_self

/-- The fields of a P half are read back. -/
theorem fieldsP_packP (op : BitVec 6) (h : PHalf) (hd : ∀ n, h.d = .v n → n.toNat < 128) (hs : ∀ n, h.s = .v n → n.toNat < 128) : fieldsP (packP op h) = some h := by
  have f_d : (packP op h).extractLsb' 17 8 = encodeReg8 h.d := by
    show BitVec.extractLsb' (n := 6+8+8+1+1+7) 17 8 _ = _
    simp only [packP]
    repeat (first | rw [BitVec.extractLsb'_append_eq_of_add_le (by decide)] | rw [BitVec.extractLsb'_append_eq_of_le (by decide)])
    exact BitVec.extractLsb'_eq_self
  have f_s : (packP op h).extractLsb' 9 8 = encodeReg8 h.s := by
    show BitVec.extractLsb' (n := 6+8+8+1+1+7) 9 8 _ = _
    simp only [packP]
    repeat (first | rw [BitVec.extractLsb'_append_eq_of_add_le (by decide)] | rw [BitVec.extractLsb'_append_eq_of_le (by decide)])
    exact BitVec.extractLsb'_eq_self
  have f_tbs : (packP op h).getLsbD 8 = h.tbs := by
    show BitVec.getLsbD (w := 6+8+8+1+1+7) _ 8 = _
    simp only [packP, BitVec.getLsbD_append]
    cases h.tbs <;> rfl
  have f_tbd : (packP op h).getLsbD 7 = h.tbd := by
    show BitVec.getLsbD (w := 6+8+8+1+1+7) _ 7 = _
    simp only [packP, BitVec.getLsbD_append]
    cases h.tbd <;> rfl
  have f_pmod : (packP op h).extractLsb' 0 7 = h.pmod := by
    show BitVec.extractLsb' (n := 6+8+8+1+1+7) 0 7 _ = _
    simp only [packP]
    repeat (first | rw [BitVec.extractLsb'_append_eq_of_add_le (by decide)] | rw [BitVec.extractLsb'_append_eq_of_le (by decide)])
    exact BitVec.extractLsb'_eq_self
  simp only [fieldsP, f_d, f_s, f_tbs, f_tbd, f_pmod, decodeReg8_encodeReg8 _ hd, decodeReg8_encodeReg8 _ hs]
  rfl

/-- The operation number of an M word. -/
theorem packM_op (op : BitVec 6) (w : MWord) : (packM op w).extractLsb' 56 6 = op := by
  show BitVec.extractLsb' (n := 2+6+9+9+9+3+1+1+4+20) 56 6 _ = _
  simp only [packM]
  repeat (first | rw [BitVec.extractLsb'_append_eq_of_add_le (by decide)] | rw [BitVec.extractLsb'_append_eq_of_le (by decide)])
  exact BitVec.extractLsb'_eq_self

/-- The form of an M word. -/
theorem packM_form (op : BitVec 6) (w : MWord) : (packM op w).extractLsb' 62 2 = 3#2 := by
  show BitVec.extractLsb' (n := 2+6+9+9+9+3+1+1+4+20) 62 2 _ = _
  simp only [packM]
  repeat (first | rw [BitVec.extractLsb'_append_eq_of_add_le (by decide)] | rw [BitVec.extractLsb'_append_eq_of_le (by decide)])
  exact BitVec.extractLsb'_eq_self

/-- The fields of an M word are read back. -/
theorem fieldsM_packM (op : BitVec 6) (w : MWord) : fieldsM (packM op w) = some w := by
  have f_d : (packM op w).extractLsb' 47 9 = encodeReg9 w.d := by
    show BitVec.extractLsb' (n := 2+6+9+9+9+3+1+1+4+20) 47 9 _ = _
    simp only [packM]
    repeat (first | rw [BitVec.extractLsb'_append_eq_of_add_le (by decide)] | rw [BitVec.extractLsb'_append_eq_of_le (by decide)])
    exact BitVec.extractLsb'_eq_self
  have f_a : (packM op w).extractLsb' 38 9 = encodeReg9 w.a := by
    show BitVec.extractLsb' (n := 2+6+9+9+9+3+1+1+4+20) 38 9 _ = _
    simp only [packM]
    repeat (first | rw [BitVec.extractLsb'_append_eq_of_add_le (by decide)] | rw [BitVec.extractLsb'_append_eq_of_le (by decide)])
    exact BitVec.extractLsb'_eq_self
  have f_b : (packM op w).extractLsb' 29 9 = encodeReg9 w.b := by
    show BitVec.extractLsb' (n := 2+6+9+9+9+3+1+1+4+20) 29 9 _ = _
    simp only [packM]
    repeat (first | rw [BitVec.extractLsb'_append_eq_of_add_le (by decide)] | rw [BitVec.extractLsb'_append_eq_of_le (by decide)])
    exact BitVec.extractLsb'_eq_self
  have f_g : (packM op w).extractLsb' 26 3 = w.g := by
    show BitVec.extractLsb' (n := 2+6+9+9+9+3+1+1+4+20) 26 3 _ = _
    simp only [packM]
    repeat (first | rw [BitVec.extractLsb'_append_eq_of_add_le (by decide)] | rw [BitVec.extractLsb'_append_eq_of_le (by decide)])
    exact BitVec.extractLsb'_eq_self
  have f_gn : (packM op w).getLsbD 25 = w.gn := by
    show BitVec.getLsbD (w := 2+6+9+9+9+3+1+1+4+20) _ 25 = _
    simp only [packM, BitVec.getLsbD_append]
    cases w.gn <;> rfl
  have f_tbb : (packM op w).getLsbD 24 = w.tbb := by
    show BitVec.getLsbD (w := 2+6+9+9+9+3+1+1+4+20) _ 24 = _
    simp only [packM, BitVec.getLsbD_append]
    cases w.tbb <;> rfl
  have f_kind : (packM op w).extractLsb' 20 4 = w.kind := by
    show BitVec.extractLsb' (n := 2+6+9+9+9+3+1+1+4+20) 20 4 _ = _
    simp only [packM]
    repeat (first | rw [BitVec.extractLsb'_append_eq_of_add_le (by decide)] | rw [BitVec.extractLsb'_append_eq_of_le (by decide)])
    exact BitVec.extractLsb'_eq_self
  have f_imm : (packM op w).extractLsb' 0 20 = w.imm := by
    show BitVec.extractLsb' (n := 2+6+9+9+9+3+1+1+4+20) 0 20 _ = _
    simp only [packM]
    rw [BitVec.extractLsb'_append_eq_of_add_le (by decide)]
    exact BitVec.extractLsb'_eq_self
  simp only [fieldsM, f_d, f_a, f_b, f_g, f_gn, f_tbb, f_kind, f_imm, decodeReg9_encodeReg9]
  rfl

end Sys2Proof
end

