-- ==== Sys2Proof/Laws/State.lean ====
section
/-! SUPPORT. Sys2Proof/Laws/State.lean: what each update of the state leaves unchanged, one lemma for each field. -/

namespace Sys2Proof.Machine

open Sys2Proof

@[simp] theorem State.modBlock_cyc (s : State) (b : Nat) (f : Block → Block) : (s.modBlock b f).cyc = s.cyc := rfl
@[simp] theorem State.modBlock_ms (s : State) (b : Nat) (f : Block → Block) : (s.modBlock b f).ms = s.ms := rfl
@[simp] theorem State.modBlock_cores (s : State) (b : Nat) (f : Block → Block) : (s.modBlock b f).cores = s.cores := rfl
@[simp] theorem State.modBlock_ctxs (s : State) (b : Nat) (f : Block → Block) : (s.modBlock b f).ctxs = s.ctxs := rfl
@[simp] theorem State.modBlock_cp (s : State) (b : Nat) (f : Block → Block) : (s.modBlock b f).cp = s.cp := rfl
@[simp] theorem State.modBlock_mp (s : State) (b : Nat) (f : Block → Block) : (s.modBlock b f).mp = s.mp := rfl
@[simp] theorem State.modBlock_iss (s : State) (b : Nat) (f : Block → Block) : (s.modBlock b f).iss = s.iss := rfl
@[simp] theorem State.modBlock_agenda (s : State) (b : Nat) (f : Block → Block) : (s.modBlock b f).agenda = s.agenda := rfl
@[simp] theorem State.modBlock_seq (s : State) (b : Nat) (f : Block → Block) : (s.modBlock b f).seq = s.seq := rfl
@[simp] theorem State.modBlock_slotSeen (s : State) (b : Nat) (f : Block → Block) : (s.modBlock b f).slotSeen = s.slotSeen := rfl
@[simp] theorem State.modBlock_scanSeen (s : State) (b : Nat) (f : Block → Block) : (s.modBlock b f).scanSeen = s.scanSeen := rfl

@[simp] theorem State.modCore_cyc (s : State) (c : Nat) (f : Core → Core) : (s.modCore c f).cyc = s.cyc := rfl
@[simp] theorem State.modCore_ms (s : State) (c : Nat) (f : Core → Core) : (s.modCore c f).ms = s.ms := rfl
@[simp] theorem State.modCore_blocks (s : State) (c : Nat) (f : Core → Core) : (s.modCore c f).blocks = s.blocks := rfl
@[simp] theorem State.modCore_ctxs (s : State) (c : Nat) (f : Core → Core) : (s.modCore c f).ctxs = s.ctxs := rfl
@[simp] theorem State.modCore_cp (s : State) (c : Nat) (f : Core → Core) : (s.modCore c f).cp = s.cp := rfl
@[simp] theorem State.modCore_mp (s : State) (c : Nat) (f : Core → Core) : (s.modCore c f).mp = s.mp := rfl
@[simp] theorem State.modCore_iss (s : State) (c : Nat) (f : Core → Core) : (s.modCore c f).iss = s.iss := rfl
@[simp] theorem State.modCore_agenda (s : State) (c : Nat) (f : Core → Core) : (s.modCore c f).agenda = s.agenda := rfl
@[simp] theorem State.modCore_seq (s : State) (c : Nat) (f : Core → Core) : (s.modCore c f).seq = s.seq := rfl
@[simp] theorem State.modCore_slotSeen (s : State) (c : Nat) (f : Core → Core) : (s.modCore c f).slotSeen = s.slotSeen := rfl
@[simp] theorem State.modCore_scanSeen (s : State) (c : Nat) (f : Core → Core) : (s.modCore c f).scanSeen = s.scanSeen := rfl

@[simp] theorem State.modCtx_cyc (s : State) (x : Nat) (f : Ctx → Ctx) : (s.modCtx x f).cyc = s.cyc := rfl
@[simp] theorem State.modCtx_ms (s : State) (x : Nat) (f : Ctx → Ctx) : (s.modCtx x f).ms = s.ms := rfl
@[simp] theorem State.modCtx_cores (s : State) (x : Nat) (f : Ctx → Ctx) : (s.modCtx x f).cores = s.cores := rfl
@[simp] theorem State.modCtx_blocks (s : State) (x : Nat) (f : Ctx → Ctx) : (s.modCtx x f).blocks = s.blocks := rfl
@[simp] theorem State.modCtx_cp (s : State) (x : Nat) (f : Ctx → Ctx) : (s.modCtx x f).cp = s.cp := rfl
@[simp] theorem State.modCtx_mp (s : State) (x : Nat) (f : Ctx → Ctx) : (s.modCtx x f).mp = s.mp := rfl
@[simp] theorem State.modCtx_iss (s : State) (x : Nat) (f : Ctx → Ctx) : (s.modCtx x f).iss = s.iss := rfl
@[simp] theorem State.modCtx_agenda (s : State) (x : Nat) (f : Ctx → Ctx) : (s.modCtx x f).agenda = s.agenda := rfl
@[simp] theorem State.modCtx_seq (s : State) (x : Nat) (f : Ctx → Ctx) : (s.modCtx x f).seq = s.seq := rfl
@[simp] theorem State.modCtx_slotSeen (s : State) (x : Nat) (f : Ctx → Ctx) : (s.modCtx x f).slotSeen = s.slotSeen := rfl
@[simp] theorem State.modCtx_scanSeen (s : State) (x : Nat) (f : Ctx → Ctx) : (s.modCtx x f).scanSeen = s.scanSeen := rfl

@[simp] theorem State.modTask_cyc (s : State) (t : Nat) (f : Task → Task) : (s.modTask t f).cyc = s.cyc := rfl
@[simp] theorem State.modTask_ms (s : State) (t : Nat) (f : Task → Task) : (s.modTask t f).ms = s.ms := rfl
@[simp] theorem State.modTask_cores (s : State) (t : Nat) (f : Task → Task) : (s.modTask t f).cores = s.cores := rfl
@[simp] theorem State.modTask_blocks (s : State) (t : Nat) (f : Task → Task) : (s.modTask t f).blocks = s.blocks := rfl
@[simp] theorem State.modTask_ctxs (s : State) (t : Nat) (f : Task → Task) : (s.modTask t f).ctxs = s.ctxs := rfl
@[simp] theorem State.modTask_mp (s : State) (t : Nat) (f : Task → Task) : (s.modTask t f).mp = s.mp := rfl
@[simp] theorem State.modTask_iss (s : State) (t : Nat) (f : Task → Task) : (s.modTask t f).iss = s.iss := rfl
@[simp] theorem State.modTask_agenda (s : State) (t : Nat) (f : Task → Task) : (s.modTask t f).agenda = s.agenda := rfl
@[simp] theorem State.modTask_seq (s : State) (t : Nat) (f : Task → Task) : (s.modTask t f).seq = s.seq := rfl
@[simp] theorem State.modTask_slotSeen (s : State) (t : Nat) (f : Task → Task) : (s.modTask t f).slotSeen = s.slotSeen := rfl
@[simp] theorem State.modTask_scanSeen (s : State) (t : Nat) (f : Task → Task) : (s.modTask t f).scanSeen = s.scanSeen := rfl

@[simp] theorem State.modFuture_cyc (s : State) (n : Nat) (f : Future → Future) : (s.modFuture n f).cyc = s.cyc := rfl
@[simp] theorem State.modFuture_ms (s : State) (n : Nat) (f : Future → Future) : (s.modFuture n f).ms = s.ms := rfl
@[simp] theorem State.modFuture_cores (s : State) (n : Nat) (f : Future → Future) : (s.modFuture n f).cores = s.cores := rfl
@[simp] theorem State.modFuture_blocks (s : State) (n : Nat) (f : Future → Future) : (s.modFuture n f).blocks = s.blocks := rfl
@[simp] theorem State.modFuture_ctxs (s : State) (n : Nat) (f : Future → Future) : (s.modFuture n f).ctxs = s.ctxs := rfl
@[simp] theorem State.modFuture_mp (s : State) (n : Nat) (f : Future → Future) : (s.modFuture n f).mp = s.mp := rfl
@[simp] theorem State.modFuture_iss (s : State) (n : Nat) (f : Future → Future) : (s.modFuture n f).iss = s.iss := rfl
@[simp] theorem State.modFuture_agenda (s : State) (n : Nat) (f : Future → Future) : (s.modFuture n f).agenda = s.agenda := rfl
@[simp] theorem State.modFuture_seq (s : State) (n : Nat) (f : Future → Future) : (s.modFuture n f).seq = s.seq := rfl
@[simp] theorem State.modFuture_slotSeen (s : State) (n : Nat) (f : Future → Future) : (s.modFuture n f).slotSeen = s.slotSeen := rfl
@[simp] theorem State.modFuture_scanSeen (s : State) (n : Nat) (f : Future → Future) : (s.modFuture n f).scanSeen = s.scanSeen := rfl

@[simp] theorem State.modThread_cyc (s : State) (b w l : Nat) (f : Thread → Thread) : (s.modThread b w l f).cyc = s.cyc := rfl
@[simp] theorem State.modThread_ms (s : State) (b w l : Nat) (f : Thread → Thread) : (s.modThread b w l f).ms = s.ms := rfl
@[simp] theorem State.modThread_cores (s : State) (b w l : Nat) (f : Thread → Thread) : (s.modThread b w l f).cores = s.cores := rfl
@[simp] theorem State.modThread_ctxs (s : State) (b w l : Nat) (f : Thread → Thread) : (s.modThread b w l f).ctxs = s.ctxs := rfl
@[simp] theorem State.modThread_cp (s : State) (b w l : Nat) (f : Thread → Thread) : (s.modThread b w l f).cp = s.cp := rfl
@[simp] theorem State.modThread_mp (s : State) (b w l : Nat) (f : Thread → Thread) : (s.modThread b w l f).mp = s.mp := rfl
@[simp] theorem State.modThread_iss (s : State) (b w l : Nat) (f : Thread → Thread) : (s.modThread b w l f).iss = s.iss := rfl
@[simp] theorem State.modThread_agenda (s : State) (b w l : Nat) (f : Thread → Thread) : (s.modThread b w l f).agenda = s.agenda := rfl
@[simp] theorem State.modThread_seq (s : State) (b w l : Nat) (f : Thread → Thread) : (s.modThread b w l f).seq = s.seq := rfl
@[simp] theorem State.modThread_slotSeen (s : State) (b w l : Nat) (f : Thread → Thread) : (s.modThread b w l f).slotSeen = s.slotSeen := rfl
@[simp] theorem State.modThread_scanSeen (s : State) (b w l : Nat) (f : Thread → Thread) : (s.modThread b w l f).scanSeen = s.scanSeen := rfl

@[simp] theorem State.modCap_cyc (s : State) (c : Nat) (f : CoreCap → CoreCap) : (s.modCap c f).cyc = s.cyc := rfl
@[simp] theorem State.modCap_ms (s : State) (c : Nat) (f : CoreCap → CoreCap) : (s.modCap c f).ms = s.ms := rfl
@[simp] theorem State.modCap_cores (s : State) (c : Nat) (f : CoreCap → CoreCap) : (s.modCap c f).cores = s.cores := rfl
@[simp] theorem State.modCap_blocks (s : State) (c : Nat) (f : CoreCap → CoreCap) : (s.modCap c f).blocks = s.blocks := rfl
@[simp] theorem State.modCap_ctxs (s : State) (c : Nat) (f : CoreCap → CoreCap) : (s.modCap c f).ctxs = s.ctxs := rfl
@[simp] theorem State.modCap_cp (s : State) (c : Nat) (f : CoreCap → CoreCap) : (s.modCap c f).cp = s.cp := rfl
@[simp] theorem State.modCap_iss (s : State) (c : Nat) (f : CoreCap → CoreCap) : (s.modCap c f).iss = s.iss := rfl
@[simp] theorem State.modCap_agenda (s : State) (c : Nat) (f : CoreCap → CoreCap) : (s.modCap c f).agenda = s.agenda := rfl
@[simp] theorem State.modCap_seq (s : State) (c : Nat) (f : CoreCap → CoreCap) : (s.modCap c f).seq = s.seq := rfl
@[simp] theorem State.modCap_slotSeen (s : State) (c : Nat) (f : CoreCap → CoreCap) : (s.modCap c f).slotSeen = s.slotSeen := rfl
@[simp] theorem State.modCap_scanSeen (s : State) (c : Nat) (f : CoreCap → CoreCap) : (s.modCap c f).scanSeen = s.scanSeen := rfl

@[simp] theorem State.modCluster_cyc (s : State) (k : Nat) (f : Cluster → Cluster) : (s.modCluster k f).cyc = s.cyc := rfl
@[simp] theorem State.modCluster_ms (s : State) (k : Nat) (f : Cluster → Cluster) : (s.modCluster k f).ms = s.ms := rfl
@[simp] theorem State.modCluster_cores (s : State) (k : Nat) (f : Cluster → Cluster) : (s.modCluster k f).cores = s.cores := rfl
@[simp] theorem State.modCluster_blocks (s : State) (k : Nat) (f : Cluster → Cluster) : (s.modCluster k f).blocks = s.blocks := rfl
@[simp] theorem State.modCluster_ctxs (s : State) (k : Nat) (f : Cluster → Cluster) : (s.modCluster k f).ctxs = s.ctxs := rfl
@[simp] theorem State.modCluster_cp (s : State) (k : Nat) (f : Cluster → Cluster) : (s.modCluster k f).cp = s.cp := rfl
@[simp] theorem State.modCluster_iss (s : State) (k : Nat) (f : Cluster → Cluster) : (s.modCluster k f).iss = s.iss := rfl
@[simp] theorem State.modCluster_agenda (s : State) (k : Nat) (f : Cluster → Cluster) : (s.modCluster k f).agenda = s.agenda := rfl
@[simp] theorem State.modCluster_seq (s : State) (k : Nat) (f : Cluster → Cluster) : (s.modCluster k f).seq = s.seq := rfl
@[simp] theorem State.modCluster_slotSeen (s : State) (k : Nat) (f : Cluster → Cluster) : (s.modCluster k f).slotSeen = s.slotSeen := rfl
@[simp] theorem State.modCluster_scanSeen (s : State) (k : Nat) (f : Cluster → Cluster) : (s.modCluster k f).scanSeen = s.scanSeen := rfl

@[simp] theorem State.modShadow_cyc (s : State) (f : SlotBank → SlotBank) : (s.modShadow f).cyc = s.cyc := rfl
@[simp] theorem State.modShadow_ms (s : State) (f : SlotBank → SlotBank) : (s.modShadow f).ms = s.ms := rfl
@[simp] theorem State.modShadow_cores (s : State) (f : SlotBank → SlotBank) : (s.modShadow f).cores = s.cores := rfl
@[simp] theorem State.modShadow_blocks (s : State) (f : SlotBank → SlotBank) : (s.modShadow f).blocks = s.blocks := rfl
@[simp] theorem State.modShadow_ctxs (s : State) (f : SlotBank → SlotBank) : (s.modShadow f).ctxs = s.ctxs := rfl
@[simp] theorem State.modShadow_cp (s : State) (f : SlotBank → SlotBank) : (s.modShadow f).cp = s.cp := rfl
@[simp] theorem State.modShadow_iss (s : State) (f : SlotBank → SlotBank) : (s.modShadow f).iss = s.iss := rfl
@[simp] theorem State.modShadow_agenda (s : State) (f : SlotBank → SlotBank) : (s.modShadow f).agenda = s.agenda := rfl
@[simp] theorem State.modShadow_seq (s : State) (f : SlotBank → SlotBank) : (s.modShadow f).seq = s.seq := rfl
@[simp] theorem State.modShadow_slotSeen (s : State) (f : SlotBank → SlotBank) : (s.modShadow f).slotSeen = s.slotSeen := rfl
@[simp] theorem State.modShadow_scanSeen (s : State) (f : SlotBank → SlotBank) : (s.modShadow f).scanSeen = s.scanSeen := rfl

@[simp] theorem State.note_cyc (s : State) (r : Record) : (s.note r).cyc = s.cyc := rfl
@[simp] theorem State.note_ms (s : State) (r : Record) : (s.note r).ms = s.ms := rfl
@[simp] theorem State.note_cores (s : State) (r : Record) : (s.note r).cores = s.cores := rfl
@[simp] theorem State.note_blocks (s : State) (r : Record) : (s.note r).blocks = s.blocks := rfl
@[simp] theorem State.note_ctxs (s : State) (r : Record) : (s.note r).ctxs = s.ctxs := rfl
@[simp] theorem State.note_cp (s : State) (r : Record) : (s.note r).cp = s.cp := rfl
@[simp] theorem State.note_iss (s : State) (r : Record) : (s.note r).iss = s.iss := rfl
@[simp] theorem State.note_agenda (s : State) (r : Record) : (s.note r).agenda = s.agenda := rfl
@[simp] theorem State.note_seq (s : State) (r : Record) : (s.note r).seq = s.seq := rfl
@[simp] theorem State.note_slotSeen (s : State) (r : Record) : (s.note r).slotSeen = s.slotSeen := rfl
@[simp] theorem State.note_scanSeen (s : State) (r : Record) : (s.note r).scanSeen = s.scanSeen := rfl

@[simp] theorem State.atWord_cyc (s : State) (p : Placed) : (s.atWord p).cyc = s.cyc := rfl
@[simp] theorem State.atWord_ms (s : State) (p : Placed) : (s.atWord p).ms = s.ms := rfl
@[simp] theorem State.atWord_cores (s : State) (p : Placed) : (s.atWord p).cores = s.cores := rfl
@[simp] theorem State.atWord_blocks (s : State) (p : Placed) : (s.atWord p).blocks = s.blocks := rfl
@[simp] theorem State.atWord_ctxs (s : State) (p : Placed) : (s.atWord p).ctxs = s.ctxs := rfl
@[simp] theorem State.atWord_cp (s : State) (p : Placed) : (s.atWord p).cp = s.cp := rfl
@[simp] theorem State.atWord_mp (s : State) (p : Placed) : (s.atWord p).mp = s.mp := rfl
@[simp] theorem State.atWord_agenda (s : State) (p : Placed) : (s.atWord p).agenda = s.agenda := rfl
@[simp] theorem State.atWord_seq (s : State) (p : Placed) : (s.atWord p).seq = s.seq := rfl
@[simp] theorem State.atWord_slotSeen (s : State) (p : Placed) : (s.atWord p).slotSeen = s.slotSeen := rfl
@[simp] theorem State.atWord_scanSeen (s : State) (p : Placed) : (s.atWord p).scanSeen = s.scanSeen := rfl

@[simp] theorem State.endBundle_cyc (s : State) : s.endBundle.cyc = s.cyc := rfl
@[simp] theorem State.endBundle_ms (s : State) : s.endBundle.ms = s.ms := rfl
@[simp] theorem State.endBundle_cores (s : State) : s.endBundle.cores = s.cores := rfl
@[simp] theorem State.endBundle_blocks (s : State) : s.endBundle.blocks = s.blocks := rfl
@[simp] theorem State.endBundle_ctxs (s : State) : s.endBundle.ctxs = s.ctxs := rfl
@[simp] theorem State.endBundle_cp (s : State) : s.endBundle.cp = s.cp := rfl
@[simp] theorem State.endBundle_mp (s : State) : s.endBundle.mp = s.mp := rfl
@[simp] theorem State.endBundle_agenda (s : State) : s.endBundle.agenda = s.agenda := rfl
@[simp] theorem State.endBundle_seq (s : State) : s.endBundle.seq = s.seq := rfl
@[simp] theorem State.endBundle_slotSeen (s : State) : s.endBundle.slotSeen = s.slotSeen := rfl
@[simp] theorem State.endBundle_scanSeen (s : State) : s.endBundle.scanSeen = s.scanSeen := rfl

@[simp] theorem State.post_cyc (s : State) (b op : Nat) (due : Option Nat) (g : Tgt) (v : DWord) (last : Option (Nat × Nat × Nat)) : (s.post b op due g v last).cyc = s.cyc := rfl
@[simp] theorem State.post_ms (s : State) (b op : Nat) (due : Option Nat) (g : Tgt) (v : DWord) (last : Option (Nat × Nat × Nat)) : (s.post b op due g v last).ms = s.ms := rfl
@[simp] theorem State.post_cores (s : State) (b op : Nat) (due : Option Nat) (g : Tgt) (v : DWord) (last : Option (Nat × Nat × Nat)) : (s.post b op due g v last).cores = s.cores := rfl
@[simp] theorem State.post_ctxs (s : State) (b op : Nat) (due : Option Nat) (g : Tgt) (v : DWord) (last : Option (Nat × Nat × Nat)) : (s.post b op due g v last).ctxs = s.ctxs := rfl
@[simp] theorem State.post_cp (s : State) (b op : Nat) (due : Option Nat) (g : Tgt) (v : DWord) (last : Option (Nat × Nat × Nat)) : (s.post b op due g v last).cp = s.cp := rfl
@[simp] theorem State.post_mp (s : State) (b op : Nat) (due : Option Nat) (g : Tgt) (v : DWord) (last : Option (Nat × Nat × Nat)) : (s.post b op due g v last).mp = s.mp := rfl
@[simp] theorem State.post_iss (s : State) (b op : Nat) (due : Option Nat) (g : Tgt) (v : DWord) (last : Option (Nat × Nat × Nat)) : (s.post b op due g v last).iss = s.iss := rfl
@[simp] theorem State.post_agenda (s : State) (b op : Nat) (due : Option Nat) (g : Tgt) (v : DWord) (last : Option (Nat × Nat × Nat)) : (s.post b op due g v last).agenda = s.agenda := rfl
@[simp] theorem State.post_slotSeen (s : State) (b op : Nat) (due : Option Nat) (g : Tgt) (v : DWord) (last : Option (Nat × Nat × Nat)) : (s.post b op due g v last).slotSeen = s.slotSeen := rfl
@[simp] theorem State.post_scanSeen (s : State) (b op : Nat) (due : Option Nat) (g : Tgt) (v : DWord) (last : Option (Nat × Nat × Nat)) : (s.post b op due g v last).scanSeen = s.scanSeen := rfl

@[simp] theorem State.atWord_checked (s : State) (p : Placed) : (s.atWord p).iss.checked = s.iss.checked := rfl
@[simp] theorem State.atWord_grp (s : State) (p : Placed) : (s.atWord p).iss.grp = s.iss.grp := rfl
@[simp] theorem State.atWord_blk (s : State) (p : Placed) : (s.atWord p).iss.blk = s.iss.blk := rfl

/-- Once a bundle has passed its checks, they change nothing. -/
@[simp] theorem State.checkIssue_of_checked (s : State) (h : s.iss.checked = true) : s.checkIssue = s := by
  simp [State.checkIssue, h]

@[simp] theorem State.note_hbmFailed (s : State) (r : Record) : (s.note r).mp.hbmFailed = s.mp.hbmFailed := rfl
@[simp] theorem State.note_fenceDue (s : State) (r : Record) : (s.note r).mp.fenceDue = s.mp.fenceDue := rfl
@[simp] theorem State.note_hints (s : State) (r : Record) : (s.note r).mp.hints = s.mp.hints := rfl
@[simp] theorem State.modCluster_hbmFailed (s : State) (k : Nat) (f : Cluster → Cluster) : (s.modCluster k f).mp.hbmFailed = s.mp.hbmFailed := rfl
@[simp] theorem State.modCluster_fenceDue (s : State) (k : Nat) (f : Cluster → Cluster) : (s.modCluster k f).mp.fenceDue = s.mp.fenceDue := rfl
@[simp] theorem State.modCluster_hints (s : State) (k : Nat) (f : Cluster → Cluster) : (s.modCluster k f).mp.hints = s.mp.hints := rfl
@[simp] theorem State.modCap_hbmFailed (s : State) (c : Nat) (f : CoreCap → CoreCap) : (s.modCap c f).mp.hbmFailed = s.mp.hbmFailed := rfl
@[simp] theorem State.modCap_fenceDue (s : State) (c : Nat) (f : CoreCap → CoreCap) : (s.modCap c f).mp.fenceDue = s.mp.fenceDue := rfl
@[simp] theorem State.modCap_hints (s : State) (c : Nat) (f : CoreCap → CoreCap) : (s.modCap c f).mp.hints = s.mp.hints := rfl
@[simp] theorem State.modShadow_hbmFailed (s : State) (f : SlotBank → SlotBank) : (s.modShadow f).mp.hbmFailed = s.mp.hbmFailed := rfl
@[simp] theorem State.modShadow_fenceDue (s : State) (f : SlotBank → SlotBank) : (s.modShadow f).mp.fenceDue = s.mp.fenceDue := rfl
@[simp] theorem State.modShadow_hints (s : State) (f : SlotBank → SlotBank) : (s.modShadow f).mp.hints = s.mp.hints := rfl
@[simp] theorem State.modTask_gone (s : State) (t : Nat) (f : Task → Task) : (s.modTask t f).cp.gone = s.cp.gone := rfl
@[simp] theorem State.modFuture_gone (s : State) (n : Nat) (f : Future → Future) : (s.modFuture n f).cp.gone = s.cp.gone := rfl

@[simp] theorem State.mapReqs_cyc (s : State) (c b : Nat) (f : CopyReq → CopyReq) : (s.mapReqs c b f).cyc = s.cyc := rfl
@[simp] theorem State.mapReqs_ms (s : State) (c b : Nat) (f : CopyReq → CopyReq) : (s.mapReqs c b f).ms = s.ms := rfl
@[simp] theorem State.mapReqs_ctxs (s : State) (c b : Nat) (f : CopyReq → CopyReq) : (s.mapReqs c b f).ctxs = s.ctxs := rfl
@[simp] theorem State.mapReqs_cp (s : State) (c b : Nat) (f : CopyReq → CopyReq) : (s.mapReqs c b f).cp = s.cp := rfl
@[simp] theorem State.mapReqs_mp (s : State) (c b : Nat) (f : CopyReq → CopyReq) : (s.mapReqs c b f).mp = s.mp := rfl
@[simp] theorem State.mapReqs_iss (s : State) (c b : Nat) (f : CopyReq → CopyReq) : (s.mapReqs c b f).iss = s.iss := rfl
@[simp] theorem State.mapReqs_agenda (s : State) (c b : Nat) (f : CopyReq → CopyReq) : (s.mapReqs c b f).agenda = s.agenda := rfl
@[simp] theorem State.mapReqs_seq (s : State) (c b : Nat) (f : CopyReq → CopyReq) : (s.mapReqs c b f).seq = s.seq := rfl
@[simp] theorem State.mapReqs_slotSeen (s : State) (c b : Nat) (f : CopyReq → CopyReq) : (s.mapReqs c b f).slotSeen = s.slotSeen := rfl
@[simp] theorem State.mapReqs_scanSeen (s : State) (c b : Nat) (f : CopyReq → CopyReq) : (s.mapReqs c b f).scanSeen = s.scanSeen := rfl

@[simp] theorem State.mapCore_cyc (s : State) (c : Nat) (f : Nat → Block → Block) : (s.mapCore c f).cyc = s.cyc := rfl
@[simp] theorem State.mapCore_ms (s : State) (c : Nat) (f : Nat → Block → Block) : (s.mapCore c f).ms = s.ms := rfl
@[simp] theorem State.mapCore_cores (s : State) (c : Nat) (f : Nat → Block → Block) : (s.mapCore c f).cores = s.cores := rfl
@[simp] theorem State.mapCore_ctxs (s : State) (c : Nat) (f : Nat → Block → Block) : (s.mapCore c f).ctxs = s.ctxs := rfl
@[simp] theorem State.mapCore_cp (s : State) (c : Nat) (f : Nat → Block → Block) : (s.mapCore c f).cp = s.cp := rfl
@[simp] theorem State.mapCore_mp (s : State) (c : Nat) (f : Nat → Block → Block) : (s.mapCore c f).mp = s.mp := rfl
@[simp] theorem State.mapCore_iss (s : State) (c : Nat) (f : Nat → Block → Block) : (s.mapCore c f).iss = s.iss := rfl
@[simp] theorem State.mapCore_agenda (s : State) (c : Nat) (f : Nat → Block → Block) : (s.mapCore c f).agenda = s.agenda := rfl
@[simp] theorem State.mapCore_seq (s : State) (c : Nat) (f : Nat → Block → Block) : (s.mapCore c f).seq = s.seq := rfl
@[simp] theorem State.mapCore_slotSeen (s : State) (c : Nat) (f : Nat → Block → Block) : (s.mapCore c f).slotSeen = s.slotSeen := rfl
@[simp] theorem State.mapCore_scanSeen (s : State) (c : Nat) (f : Nat → Block → Block) : (s.mapCore c f).scanSeen = s.scanSeen := rfl

/-- Requests that enter a core's queue change nothing but that queue and the blocks they came with (R222). -/
theorem State.feed_frame (s : State) (c : Nat) :
    (s.feed c).cyc = s.cyc ∧ (s.feed c).ms = s.ms ∧ (s.feed c).ctxs = s.ctxs ∧ (s.feed c).cp = s.cp ∧ (s.feed c).mp = s.mp ∧
      (s.feed c).iss = s.iss ∧ (s.feed c).agenda = s.agenda := by
  unfold State.feed
  generalize s.blocksOn c = bs
  induction bs generalizing s with
  | nil => exact ⟨rfl, rfl, rfl, rfl, rfl, rfl, rfl⟩
  | cons p bs ih =>
    simp only [List.foldl_cons]
    split
    · exact ih s
    · exact ih _

end Sys2Proof.Machine
end

