-- ==== Sys2Proof/Laws/Memory.lean ====
section
/-! SUPPORT. Sys2Proof/Laws/Memory.lean: tables with rising keys, and the canonical form of memory under every memory
operation. -/

namespace Sys2Proof.Machine

open Sys2Proof

/-! ### Tables -/

/-- A table whose keys rise from above j. -/
theorem Tbl.rising_cons {α : Type} (lo : Option Nat) (k : Nat) (v : α) (r : Tbl α) :
    Tbl.risingFrom lo ((k, v) :: r) = true ↔ (∀ j, lo = some j → j < k) ∧ Tbl.risingFrom (some k) r = true := by
  cases lo <;> simp [Tbl.risingFrom]

/-- A lower bound may be lowered. -/
theorem Tbl.rising_mono {α : Type} {i j : Nat} (h : i ≤ j) (t : Tbl α) (ht : Tbl.risingFrom (some j) t = true) :
    Tbl.risingFrom (some i) t = true := by
  cases t with
  | nil => rfl
  | cons p r =>
    obtain ⟨k, v⟩ := p
    rw [Tbl.rising_cons] at ht ⊢
    refine ⟨fun a ha => ?_, ht.2⟩
    have := ht.1 j rfl
    simp only [Option.some.injEq] at ha
    omega

/-- `put` keeps keys rising. -/
theorem Tbl.rising_put {α : Type} (t : Tbl α) (k : Nat) (v : α) (lo : Option Nat) (hlo : ∀ j, lo = some j → j < k)
    (ht : Tbl.risingFrom lo t = true) : Tbl.risingFrom lo (Tbl.put t k v) = true := by
  induction t generalizing lo with
  | nil => exact (Tbl.rising_cons lo k v []).mpr ⟨hlo, rfl⟩
  | cons p r ih =>
    obtain ⟨j, w⟩ := p
    rw [Tbl.rising_cons] at ht
    unfold Tbl.put
    split
    · next h => subst h; rw [Tbl.rising_cons]; exact ht
    · split
      · next h =>
        rw [Tbl.rising_cons, Tbl.rising_cons]
        exact ⟨hlo, fun a ha => by simp only [Option.some.injEq] at ha; omega, ht.2⟩
      · rw [Tbl.rising_cons]
        exact ⟨ht.1, ih (some j) (fun a ha => by simp only [Option.some.injEq] at ha; omega) ht.2⟩

/-- A filter keeps keys rising. -/
theorem Tbl.rising_filter {α : Type} (t : Tbl α) (p : Nat × α → Bool) (lo : Option Nat) (ht : Tbl.risingFrom lo t = true) :
    Tbl.risingFrom lo (t.filter p) = true := by
  induction t generalizing lo with
  | nil => rfl
  | cons q r ih =>
    obtain ⟨j, w⟩ := q
    rw [Tbl.rising_cons] at ht
    rw [List.filter_cons]
    split
    · rw [Tbl.rising_cons]; exact ⟨ht.1, ih (some j) ht.2⟩
    · cases lo with
      | none =>
        have h := ih (some j) ht.2
        cases hr : r.filter p with
        | nil => rfl
        | cons x y =>
          obtain ⟨i, v⟩ := x
          rw [hr, Tbl.rising_cons] at h
          rw [Tbl.rising_cons]; exact ⟨by simp, h.2⟩
      | some a => exact Tbl.rising_mono (Nat.le_of_lt (ht.1 a rfl)) _ (ih (some j) ht.2)

/-- `erase` keeps keys rising. -/
theorem Tbl.rising_erase {α : Type} (t : Tbl α) (k : Nat) (lo : Option Nat) (ht : Tbl.risingFrom lo t = true) :
    Tbl.risingFrom lo (Tbl.erase t k) = true := Tbl.rising_filter t _ lo ht

/-- What `put` stores at its key. -/
@[simp] theorem Tbl.get_put_self {α : Type} (t : Tbl α) (k : Nat) (v : α) : Tbl.get? (Tbl.put t k v) k = some v := by
  induction t with
  | nil => simp [Tbl.put, Tbl.get?]
  | cons p r ih =>
    obtain ⟨j, w⟩ := p
    unfold Tbl.put
    split
    · simp [Tbl.get?]
    · split
      · simp [Tbl.get?]
      · rw [Tbl.get?]; simp_all

/-- `put` leaves other keys alone. -/
@[simp] theorem Tbl.get_put_ne {α : Type} (t : Tbl α) (k i : Nat) (v : α) (h : i ≠ k) :
    Tbl.get? (Tbl.put t k v) i = Tbl.get? t i := by
  induction t with
  | nil => simp [Tbl.put, Tbl.get?, Ne.symm h]
  | cons p r ih =>
    obtain ⟨j, w⟩ := p
    unfold Tbl.put
    split
    · next e => subst e; simp [Tbl.get?, Ne.symm h]
    · split
      · rw [Tbl.get?, if_neg (Ne.symm h)]
      · rw [Tbl.get?, ih]
        conv_rhs => rw [Tbl.get?]

/-- `erase` removes its key. -/
@[simp] theorem Tbl.get_erase_self {α : Type} (t : Tbl α) (k : Nat) : Tbl.get? (Tbl.erase t k) k = none := by
  induction t with
  | nil => rfl
  | cons p r ih =>
    obtain ⟨j, w⟩ := p
    unfold Tbl.erase at *
    rw [List.filter_cons]
    by_cases h : j = k
    · simpa [h] using ih
    · simp [h, Tbl.get?, ih]

/-- `erase` leaves other keys alone. -/
@[simp] theorem Tbl.get_erase_ne {α : Type} (t : Tbl α) (k i : Nat) (hi : i ≠ k) :
    Tbl.get? (Tbl.erase t k) i = Tbl.get? t i := by
  induction t with
  | nil => rfl
  | cons p r ih =>
    obtain ⟨j, w⟩ := p
    unfold Tbl.erase at *
    rw [List.filter_cons]
    by_cases h : j = k
    · subst h; simp [Tbl.get?, Ne.symm hi, ih]
    · simp [h, Tbl.get?, ih]

/-- `mod` acts on its key. -/
@[simp] theorem Tbl.get_mod_self {α : Type} (t : Tbl α) (k : Nat) (f : α → α) :
    Tbl.get? (Tbl.mod t k f) k = (Tbl.get? t k).map f := by
  induction t with
  | nil => rfl
  | cons p r ih =>
    obtain ⟨j, w⟩ := p
    unfold Tbl.mod
    split
    · simp_all [Tbl.get?]
    · next h => rw [Tbl.get?, Tbl.get?, if_neg h, if_neg h, ih]

/-- `mod` leaves other keys alone. -/
@[simp] theorem Tbl.get_mod_ne {α : Type} (t : Tbl α) (k i : Nat) (f : α → α) (h : i ≠ k) :
    Tbl.get? (Tbl.mod t k f) i = Tbl.get? t i := by
  induction t with
  | nil => rfl
  | cons p r ih =>
    obtain ⟨j, w⟩ := p
    unfold Tbl.mod
    split
    · next e => subst e; simp [Tbl.get?, Ne.symm h]
    · rw [Tbl.get?, ih]; conv_rhs => rw [Tbl.get?]

/-- A value is read back where `putD` stored it. -/
@[simp] theorem Tbl.getD_putD_self {α : Type} [DecidableEq α] (t : Tbl α) (k : Nat) (d v : α) :
    Tbl.getD (Tbl.putD t k d v) k d = v := by
  unfold Tbl.putD Tbl.getD
  split
  · next e => rw [Tbl.get_erase_self t k]; exact e.symm
  · simp

/-- `putD` leaves other keys alone. -/
@[simp] theorem Tbl.getD_putD_ne {α : Type} [DecidableEq α] (t : Tbl α) (k i : Nat) (d v e : α) (hi : i ≠ k) :
    Tbl.getD (Tbl.putD t k d v) i e = Tbl.getD t i e := by
  unfold Tbl.putD Tbl.getD
  split
  · rw [Tbl.get_erase_ne t k i hi]
  · rw [Tbl.get_put_ne t k i v hi]

/-- `putD` keeps keys rising. -/
theorem Tbl.rising_putD {α : Type} [DecidableEq α] (t : Tbl α) (k : Nat) (d v : α) (h : Tbl.risingFrom none t = true) :
    Tbl.risingFrom none (Tbl.putD t k d v) = true := by
  unfold Tbl.putD
  split
  · exact Tbl.rising_erase t k none h
  · exact Tbl.rising_put t k v none (by simp) h

/-- An entry of `put` is the new one or an old one. -/
theorem Tbl.mem_put {α : Type} (t : Tbl α) (k : Nat) (v : α) (p : Nat × α) (h : p ∈ Tbl.put t k v) : p = (k, v) ∨ p ∈ t := by
  induction t with
  | nil => simpa [Tbl.put] using h
  | cons q r ih =>
    obtain ⟨j, w⟩ := q
    unfold Tbl.put at h
    split at h
    · simp only [List.mem_cons] at h ⊢; tauto
    · split at h
      · simpa using h
      · simp only [List.mem_cons] at h ⊢
        rcases h with h | h
        · exact .inr (.inl h)
        · rcases ih h with h | h
          · exact .inl h
          · exact .inr (.inr h)

/-- An entry of `erase` is an old one. -/
theorem Tbl.mem_erase {α : Type} (t : Tbl α) (k : Nat) (p : Nat × α) (h : p ∈ Tbl.erase t k) : p ∈ t :=
  (List.mem_filter.mp h).1

/-- A write keeps the canonical form. -/
theorem Memory.wf_write (m : List Host.Cell) (a : Nat) (v : Byte) (h : Memory.wf m = true) :
    Memory.wf (Memory.write m a v) = true := by
  simp only [Memory.wf, Bool.and_eq_true, List.all_eq_true, bne_iff_ne] at h ⊢
  refine ⟨Tbl.rising_putD m a _ v h.1, fun p hp => ?_⟩
  unfold Memory.write Tbl.putD at hp
  split at hp
  · exact h.2 p (Tbl.mem_erase m a p hp)
  · next e =>
    rcases Tbl.mem_put m a v p hp with rfl | hp
    · exact e
    · exact h.2 p hp

/-- Writes of several bytes keep the canonical form. -/
theorem Memory.wf_writes (m : List Host.Cell) (a : Nat) (bs : List Byte) (h : Memory.wf m = true) :
    Memory.wf (Memory.writes m a bs) = true := by
  induction bs generalizing m a with
  | nil => exact h
  | cons b r ih => exact ih _ _ (Memory.wf_write m a b h)

/-- Memory at reset has the canonical form. -/
theorem Memory.wf_reset : Memory.wf State.reset.ms.truth = true := rfl

/-- A property that every step of a fold keeps holds of the fold. -/
theorem foldl_keep {α β : Type} (P : β → Prop) (f : β → α → β) (l : List α) (s : β) (h : P s) (hf : ∀ b a, P b → P (f b a)) :
    P (l.foldl f s) := by
  induction l generalizing s with
  | nil => exact h
  | cons a r ih => exact ih _ (hf _ _ h)

end Sys2Proof.Machine
end

