-- ==== Sys2Proof/Laws/PerInstr.lean ====
section
/-! SUPPORT. Sys2Proof/Laws/PerInstr.lean: the family Shape: an instruction has the operands of a word just where it is a word of an
instruction stream and no event; one lemma for each constructor. -/

namespace Sys2Proof.Laws.Shape

open Sys2Proof

/-- An event, and nothing else, has no operand fields. -/
def Statement (i : Instr) : Prop := i.view.isNone = (i.family == .event)

theorem nop : ∀ x0, Statement (.nop x0) := fun _ => rfl
theorem bra : ∀ x0, Statement (.bra x0) := fun _ => rfl
theorem br : ∀ x0, Statement (.br x0) := fun _ => rfl
theorem jmpi : ∀ x0, Statement (.jmpi x0) := fun _ => rfl
theorem call : ∀ x0, Statement (.call x0) := fun _ => rfl
theorem calli : ∀ x0, Statement (.calli x0) := fun _ => rfl
theorem ret : ∀ x0, Statement (.ret x0) := fun _ => rfl
theorem jset : ∀ x0, Statement (.jset x0) := fun _ => rfl
theorem jsetI : ∀ x0, Statement (.jsetI x0) := fun _ => rfl
theorem jwait : ∀ x0, Statement (.jwait x0) := fun _ => rfl
theorem elect : ∀ x0, Statement (.elect x0) := fun _ => rfl
theorem exit : ∀ x0, Statement (.exit x0) := fun _ => rfl
theorem trap : ∀ x0, Statement (.trap x0) := fun _ => rfl
theorem bkpt : ∀ x0, Statement (.bkpt x0) := fun _ => rfl
theorem sysc : ∀ x0, Statement (.sysc x0) := fun _ => rfl
theorem sleepc : ∀ x0, Statement (.sleepc x0) := fun _ => rfl
theorem sleepcI : ∀ x0, Statement (.sleepcI x0) := fun _ => rfl
theorem napto : ∀ x0, Statement (.napto x0) := fun _ => rfl
theorem hint : ∀ x0, Statement (.hint x0) := fun _ => rfl
theorem yield : ∀ x0, Statement (.yield x0) := fun _ => rfl
theorem eret : ∀ x0, Statement (.eret x0) := fun _ => rfl
theorem srd : ∀ x0, Statement (.srd x0) := fun _ => rfl
theorem swr : ∀ x0, Statement (.swr x0) := fun _ => rfl
theorem rnew : ∀ x0, Statement (.rnew x0) := fun _ => rfl
theorem rfree : ∀ x0, Statement (.rfree x0) := fun _ => rfl
theorem rmov : ∀ x0, Statement (.rmov x0) := fun _ => rfl
theorem rswap : ∀ x0, Statement (.rswap x0) := fun _ => rfl
theorem ralias : ∀ x0, Statement (.ralias x0) := fun _ => rfl
theorem give : ∀ x0, Statement (.give x0) := fun _ => rfl
theorem take : ∀ x0, Statement (.take x0) := fun _ => rfl
theorem mapq : ∀ x0, Statement (.mapq x0) := fun _ => rfl
theorem sete : ∀ x0, Statement (.sete x0) := fun _ => rfl
theorem empq : ∀ x0, Statement (.empq x0) := fun _ => rfl
theorem iadd : ∀ x0, Statement (.iadd x0) := fun _ => rfl
theorem iaddI : ∀ x0, Statement (.iaddI x0) := fun _ => rfl
theorem iaddPair : ∀ x0, Statement (.iaddPair x0) := fun _ => rfl
theorem isub : ∀ x0, Statement (.isub x0) := fun _ => rfl
theorem isubI : ∀ x0, Statement (.isubI x0) := fun _ => rfl
theorem isubPair : ∀ x0, Statement (.isubPair x0) := fun _ => rfl
theorem imul : ∀ x0, Statement (.imul x0) := fun _ => rfl
theorem imulI : ∀ x0, Statement (.imulI x0) := fun _ => rfl
theorem imulPair : ∀ x0, Statement (.imulPair x0) := fun _ => rfl
theorem imulh : ∀ x0, Statement (.imulh x0) := fun _ => rfl
theorem imulhI : ∀ x0, Statement (.imulhI x0) := fun _ => rfl
theorem imad : ∀ x0, Statement (.imad x0) := fun _ => rfl
theorem imin : ∀ x0, Statement (.imin x0) := fun _ => rfl
theorem iminI : ∀ x0, Statement (.iminI x0) := fun _ => rfl
theorem iminPair : ∀ x0, Statement (.iminPair x0) := fun _ => rfl
theorem imax : ∀ x0, Statement (.imax x0) := fun _ => rfl
theorem imaxI : ∀ x0, Statement (.imaxI x0) := fun _ => rfl
theorem imaxPair : ∀ x0, Statement (.imaxPair x0) := fun _ => rfl
theorem iabs : ∀ x0, Statement (.iabs x0) := fun _ => rfl
theorem iabsPair : ∀ x0, Statement (.iabsPair x0) := fun _ => rfl
theorem and : ∀ x0, Statement (.and x0) := fun _ => rfl
theorem andI : ∀ x0, Statement (.andI x0) := fun _ => rfl
theorem andPair : ∀ x0, Statement (.andPair x0) := fun _ => rfl
theorem or : ∀ x0, Statement (.or x0) := fun _ => rfl
theorem orI : ∀ x0, Statement (.orI x0) := fun _ => rfl
theorem orPair : ∀ x0, Statement (.orPair x0) := fun _ => rfl
theorem xor : ∀ x0, Statement (.xor x0) := fun _ => rfl
theorem xorI : ∀ x0, Statement (.xorI x0) := fun _ => rfl
theorem xorPair : ∀ x0, Statement (.xorPair x0) := fun _ => rfl
theorem not : ∀ x0, Statement (.not x0) := fun _ => rfl
theorem notPair : ∀ x0, Statement (.notPair x0) := fun _ => rfl
theorem shl : ∀ x0, Statement (.shl x0) := fun _ => rfl
theorem shlI : ∀ x0, Statement (.shlI x0) := fun _ => rfl
theorem shlPair : ∀ x0, Statement (.shlPair x0) := fun _ => rfl
theorem shr : ∀ x0, Statement (.shr x0) := fun _ => rfl
theorem shrI : ∀ x0, Statement (.shrI x0) := fun _ => rfl
theorem shrPair : ∀ x0, Statement (.shrPair x0) := fun _ => rfl
theorem sar : ∀ x0, Statement (.sar x0) := fun _ => rfl
theorem sarI : ∀ x0, Statement (.sarI x0) := fun _ => rfl
theorem sarPair : ∀ x0, Statement (.sarPair x0) := fun _ => rfl
theorem rotl : ∀ x0, Statement (.rotl x0) := fun _ => rfl
theorem rotlI : ∀ x0, Statement (.rotlI x0) := fun _ => rfl
theorem popc : ∀ x0, Statement (.popc x0) := fun _ => rfl
theorem popcPair : ∀ x0, Statement (.popcPair x0) := fun _ => rfl
theorem clz : ∀ x0, Statement (.clz x0) := fun _ => rfl
theorem clzPair : ∀ x0, Statement (.clzPair x0) := fun _ => rfl
theorem brev : ∀ x0, Statement (.brev x0) := fun _ => rfl
theorem bfx : ∀ x0, Statement (.bfx x0) := fun _ => rfl
theorem bfxI : ∀ x0, Statement (.bfxI x0) := fun _ => rfl
theorem bfi : ∀ x0, Statement (.bfi x0) := fun _ => rfl
theorem lea : ∀ x0, Statement (.lea x0) := fun _ => rfl
theorem iset : ∀ x0, Statement (.iset x0) := fun _ => rfl
theorem sel : ∀ x0, Statement (.sel x0) := fun _ => rfl
theorem selI : ∀ x0, Statement (.selI x0) := fun _ => rfl
theorem movi : ∀ x0, Statement (.movi x0) := fun _ => rfl
theorem dup : ∀ x0, Statement (.dup x0) := fun _ => rfl
theorem dupPair : ∀ x0, Statement (.dupPair x0) := fun _ => rfl
theorem iaddx : ∀ x0, Statement (.iaddx x0) := fun _ => rfl
theorem idot4 : ∀ x0, Statement (.idot4 x0) := fun _ => rfl
theorem fadd : ∀ x0, Statement (.fadd x0) := fun _ => rfl
theorem faddI : ∀ x0, Statement (.faddI x0) := fun _ => rfl
theorem faddPair : ∀ x0, Statement (.faddPair x0) := fun _ => rfl
theorem fsub : ∀ x0, Statement (.fsub x0) := fun _ => rfl
theorem fsubI : ∀ x0, Statement (.fsubI x0) := fun _ => rfl
theorem fsubPair : ∀ x0, Statement (.fsubPair x0) := fun _ => rfl
theorem fmul : ∀ x0, Statement (.fmul x0) := fun _ => rfl
theorem fmulI : ∀ x0, Statement (.fmulI x0) := fun _ => rfl
theorem fmulPair : ∀ x0, Statement (.fmulPair x0) := fun _ => rfl
theorem ffma : ∀ x0, Statement (.ffma x0) := fun _ => rfl
theorem fmin : ∀ x0, Statement (.fmin x0) := fun _ => rfl
theorem fminI : ∀ x0, Statement (.fminI x0) := fun _ => rfl
theorem fminPair : ∀ x0, Statement (.fminPair x0) := fun _ => rfl
theorem fmax : ∀ x0, Statement (.fmax x0) := fun _ => rfl
theorem fmaxI : ∀ x0, Statement (.fmaxI x0) := fun _ => rfl
theorem fmaxPair : ∀ x0, Statement (.fmaxPair x0) := fun _ => rfl
theorem fset : ∀ x0, Statement (.fset x0) := fun _ => rfl
theorem frcp : ∀ x0, Statement (.frcp x0) := fun _ => rfl
theorem frsq : ∀ x0, Statement (.frsq x0) := fun _ => rfl
theorem fsqrt : ∀ x0, Statement (.fsqrt x0) := fun _ => rfl
theorem fex2 : ∀ x0, Statement (.fex2 x0) := fun _ => rfl
theorem flg2 : ∀ x0, Statement (.flg2 x0) := fun _ => rfl
theorem fsin : ∀ x0, Statement (.fsin x0) := fun _ => rfl
theorem fcos : ∀ x0, Statement (.fcos x0) := fun _ => rfl
theorem ftnh : ∀ x0, Statement (.ftnh x0) := fun _ => rfl
theorem fcvt : ∀ x0, Statement (.fcvt x0) := fun _ => rfl
theorem cvtef : ∀ x0, Statement (.cvtef x0) := fun _ => rfl
theorem hadd2 : ∀ x0, Statement (.hadd2 x0) := fun _ => rfl
theorem hadd2I : ∀ x0, Statement (.hadd2I x0) := fun _ => rfl
theorem hadd2Pair : ∀ x0, Statement (.hadd2Pair x0) := fun _ => rfl
theorem hmul2 : ∀ x0, Statement (.hmul2 x0) := fun _ => rfl
theorem hmul2I : ∀ x0, Statement (.hmul2I x0) := fun _ => rfl
theorem hmul2Pair : ∀ x0, Statement (.hmul2Pair x0) := fun _ => rfl
theorem hfma2 : ∀ x0, Statement (.hfma2 x0) := fun _ => rfl
theorem fdot8 : ∀ x0, Statement (.fdot8 x0) := fun _ => rfl
theorem topki : ∀ x0, Statement (.topki x0) := fun _ => rfl
theorem frnd : ∀ x0, Statement (.frnd x0) := fun _ => rfl
theorem frndPair : ∀ x0, Statement (.frndPair x0) := fun _ => rfl
theorem f2i : ∀ x0, Statement (.f2i x0) := fun _ => rfl
theorem i2f : ∀ x0, Statement (.i2f x0) := fun _ => rfl
theorem qswp : ∀ x0, Statement (.qswp x0) := fun _ => rfl
theorem qbrd : ∀ x0, Statement (.qbrd x0) := fun _ => rfl
theorem shfl : ∀ x0, Statement (.shfl x0) := fun _ => rfl
theorem shflI : ∀ x0, Statement (.shflI x0) := fun _ => rfl
theorem shflx : ∀ x0, Statement (.shflx x0) := fun _ => rfl
theorem shflxI : ∀ x0, Statement (.shflxI x0) := fun _ => rfl
theorem vote : ∀ x0, Statement (.vote x0) := fun _ => rfl
theorem redw : ∀ x0, Statement (.redw x0) := fun _ => rfl
theorem scanw : ∀ x0, Statement (.scanw x0) := fun _ => rfl
theorem matchW : ∀ x0, Statement (.matchW x0) := fun _ => rfl
theorem ldg : ∀ x0, Statement (.ldg x0) := fun _ => rfl
theorem stg : ∀ x0, Statement (.stg x0) := fun _ => rfl
theorem ldl : ∀ x0, Statement (.ldl x0) := fun _ => rfl
theorem stl : ∀ x0, Statement (.stl x0) := fun _ => rfl
theorem ldk : ∀ x0, Statement (.ldk x0) := fun _ => rfl
theorem pref : ∀ x0, Statement (.pref x0) := fun _ => rfl
theorem phase : ∀ x0, Statement (.phase x0) := fun _ => rfl
theorem fencel : ∀ x0, Statement (.fencel x0) := fun _ => rfl
theorem amo : ∀ x0, Statement (.amo x0) := fun _ => rfl
theorem amol : ∀ x0, Statement (.amol x0) := fun _ => rfl
theorem amos : ∀ x0, Statement (.amos x0) := fun _ => rfl
theorem acas : ∀ x0, Statement (.acas x0) := fun _ => rfl
theorem rctr : ∀ x0, Statement (.rctr x0) := fun _ => rfl
theorem rsnap : ∀ x0, Statement (.rsnap x0) := fun _ => rfl
theorem cflsh : ∀ x0, Statement (.cflsh x0) := fun _ => rfl
theorem tlbi : ∀ x0, Statement (.tlbi x0) := fun _ => rfl
theorem cpyl : ∀ x0, Statement (.cpyl x0) := fun _ => rfl
theorem bcpy : ∀ x0, Statement (.bcpy x0) := fun _ => rfl
theorem bcpym : ∀ x0, Statement (.bcpym x0) := fun _ => rfl
theorem bcpyg : ∀ x0, Statement (.bcpyg x0) := fun _ => rfl
theorem bcpya : ∀ x0, Statement (.bcpya x0) := fun _ => rfl
theorem bcpyq : ∀ x0, Statement (.bcpyq x0) := fun _ => rfl
theorem bbini : ∀ x0, Statement (.bbini x0) := fun _ => rfl
theorem bbwt : ∀ x0, Statement (.bbwt x0) := fun _ => rfl
theorem lnemp : ∀ x0, Statement (.lnemp x0) := fun _ => rfl
theorem mma : ∀ x0, Statement (.mma x0) := fun _ => rfl
theorem mmau : ∀ x0, Statement (.mmau x0) := fun _ => rfl
theorem accz : ∀ x0, Statement (.accz x0) := fun _ => rfl
theorem accld : ∀ x0, Statement (.accld x0) := fun _ => rfl
theorem accst : ∀ x0, Statement (.accst x0) := fun _ => rfl
theorem accvq : ∀ x0, Statement (.accvq x0) := fun _ => rfl
theorem unfcf : ∀ x0, Statement (.unfcf x0) := fun _ => rfl
theorem accsv : ∀ x0, Statement (.accsv x0) := fun _ => rfl
theorem accrs : ∀ x0, Statement (.accrs x0) := fun _ => rfl
theorem accown : ∀ x0, Statement (.accown x0) := fun _ => rfl
theorem bar : ∀ x0, Statement (.bar x0) := fun _ => rfl
theorem bara : ∀ x0, Statement (.bara x0) := fun _ => rfl
theorem barw : ∀ x0, Statement (.barw x0) := fun _ => rfl
theorem spawn : ∀ x0, Statement (.spawn x0) := fun _ => rfl
theorem tnext : ∀ x0, Statement (.tnext x0) := fun _ => rfl
theorem ftnew : ∀ x0, Statement (.ftnew x0) := fun _ => rfl
theorem ftful : ∀ x0, Statement (.ftful x0) := fun _ => rfl
theorem ftget : ∀ x0, Statement (.ftget x0) := fun _ => rfl
theorem ftwait : ∀ x0, Statement (.ftwait x0) := fun _ => rfl
theorem ftdrop : ∀ x0, Statement (.ftdrop x0) := fun _ => rfl
theorem resamp : ∀ x0, Statement (.resamp x0) := fun _ => rfl
theorem rand : ∀ x0, Statement (.rand x0) := fun _ => rfl
theorem emptyBundle : Statement .emptyBundle := rfl
theorem handlerEntry : ∀ x0 x1 x2, Statement (.handlerEntry x0 x1 x2) := fun _ _ _ => rfl
theorem resultLanding : ∀ x0, Statement (.resultLanding x0) := fun _ => rfl
theorem translation : ∀ x0, Statement (.translation x0) := fun _ => rfl
theorem memoryFaultDetection : ∀ x0 x1 x2, Statement (.memoryFaultDetection x0 x1 x2) := fun _ _ _ => rfl
theorem loadArrival : ∀ x0 x1, Statement (.loadArrival x0 x1) := fun _ _ => rfl
theorem registerRepair : ∀ x0 x1 x2 x3, Statement (.registerRepair x0 x1 x2 x3) := fun _ _ _ _ => rfl
theorem memoryHoldRelease : ∀ x0 x1 x2, Statement (.memoryHoldRelease x0 x1 x2) := fun _ _ _ => rfl
theorem move : ∀ x0 x1 x2, Statement (.move x0 x1 x2) := fun _ _ _ => rfl
theorem fill : ∀ x0 x1 x2, Statement (.fill x0 x1 x2) := fun _ _ _ => rfl
theorem drop : ∀ x0 x1 x2, Statement (.drop x0 x1 x2) := fun _ _ _ => rfl
theorem icacheFill : ∀ x0 x1, Statement (.icacheFill x0 x1) := fun _ _ => rfl
theorem icacheDrop : ∀ x0 x1, Statement (.icacheDrop x0 x1) := fun _ _ => rfl
theorem copyStart : ∀ x0 x1, Statement (.copyStart x0 x1) := fun _ _ => rfl
theorem copyDeliver : ∀ x0 x1 x2, Statement (.copyDeliver x0 x1 x2) := fun _ _ _ => rfl
theorem late : ∀ x0 x1, Statement (.late x0 x1) := fun _ _ => rfl
theorem matrixStart : ∀ x0 x1, Statement (.matrixStart x0 x1) := fun _ _ => rfl
theorem matrixComplete : ∀ x0 x1, Statement (.matrixComplete x0 x1) := fun _ _ => rfl
theorem tileClaimTransfer : ∀ x0 x1, Statement (.tileClaimTransfer x0 x1) := fun _ _ => rfl
theorem tileAutoload : ∀ x0 x1, Statement (.tileAutoload x0 x1) := fun _ _ => rfl
theorem wakeTime : ∀ x0 x1 x2, Statement (.wakeTime x0 x1 x2) := fun _ _ _ => rfl
theorem blockCompletion : ∀ x0, Statement (.blockCompletion x0) := fun _ => rfl
theorem blockAdmission : ∀ x0, Statement (.blockAdmission x0) := fun _ => rfl
theorem resampCollective : ∀ x0, Statement (.resampCollective x0) := fun _ => rfl
theorem drainEnd : ∀ x0, Statement (.drainEnd x0) := fun _ => rfl
theorem relocationResume : ∀ x0, Statement (.relocationResume x0) := fun _ => rfl
theorem slotBoundary : Statement .slotBoundary := rfl
theorem restore : ∀ x0, Statement (.restore x0) := fun _ => rfl
theorem migration : ∀ x0, Statement (.migration x0) := fun _ => rfl
theorem scanStart : ∀ x0, Statement (.scanStart x0) := fun _ => rfl
theorem scanEnd : ∀ x0 x1, Statement (.scanEnd x0 x1) := fun _ _ => rfl
theorem coreRetest : ∀ x0 x1 x2, Statement (.coreRetest x0 x1 x2) := fun _ _ _ => rfl
theorem nodeCommit : ∀ x0, Statement (.nodeCommit x0) := fun _ => rfl
theorem rollback : ∀ x0, Statement (.rollback x0) := fun _ => rfl
theorem contextEnd : ∀ x0, Statement (.contextEnd x0) := fun _ => rfl
theorem dieFence : ∀ x0, Statement (.dieFence x0) := fun _ => rfl
theorem masterElection : Statement .masterElection := rfl
theorem hardwareUnitFailure : ∀ x0, Statement (.hardwareUnitFailure x0) := fun _ => rfl
theorem spareSubstitution : ∀ x0, Statement (.spareSubstitution x0) := fun _ => rfl
theorem clusterGating : ∀ x0, Statement (.clusterGating x0) := fun _ => rfl
theorem clusterUngating : ∀ x0, Statement (.clusterUngating x0) := fun _ => rfl
theorem classReassignment : ∀ x0 x1, Statement (.classReassignment x0 x1) := fun _ _ => rfl
theorem leaseExpiry : ∀ x0, Statement (.leaseExpiry x0) := fun _ => rfl
theorem slotTableCommit : Statement .slotTableCommit := rfl
theorem slotKindWrite : ∀ x0 x1, Statement (.slotKindWrite x0 x1) := fun _ _ => rfl
theorem rperiodWrite : ∀ x0, Statement (.rperiodWrite x0) := fun _ => rfl
theorem firmwareRegisterWrite : ∀ x0, Statement (.firmwareRegisterWrite x0) := fun _ => rfl
theorem deviceReset : Statement .deviceReset := rfl
theorem bootRomStart : Statement .bootRomStart := rfl
theorem bootImageVerify : Statement .bootImageVerify := rfl
theorem hbmTraining : ∀ x0, Statement (.hbmTraining x0) := fun _ => rfl
theorem fabricJoin : ∀ x0 x1 x2, Statement (.fabricJoin x0 x1 x2) := fun _ _ _ => rfl
theorem attestationReady : Statement .attestationReady := rfl
theorem launch : ∀ x0 x1 x2 x3, Statement (.launch x0 x1 x2 x3) := fun _ _ _ _ => rfl
theorem shapeCreate : ∀ x0 x1 x2, Statement (.shapeCreate x0 x1 x2) := fun _ _ _ => rfl
theorem shapeFree : ∀ x0 x1 x2, Statement (.shapeFree x0 x1 x2) := fun _ _ _ => rfl
theorem ident : ∀ x0, Statement (.ident x0) := fun _ => rfl
theorem ctxnew : ∀ x0 x1 x2 x3, Statement (.ctxnew x0 x1 x2 x3) := fun _ _ _ _ => rfl
theorem ctxend : ∀ x0 x1, Statement (.ctxend x0 x1) := fun _ _ => rfl
theorem lease : ∀ x0 x1 x2, Statement (.lease x0 x1 x2) := fun _ _ _ => rfl
theorem telem : ∀ x0 x1, Statement (.telem x0 x1) := fun _ _ => rfl
theorem capread : ∀ x0, Statement (.capread x0) := fun _ => rfl
theorem keyset : ∀ x0 x1 x2, Statement (.keyset x0 x1 x2) := fun _ _ _ => rfl
theorem attest : ∀ x0 x1, Statement (.attest x0 x1) := fun _ _ => rfl
theorem unknownMessageCode : ∀ x0 x1, Statement (.unknownMessageCode x0 x1) := fun _ _ => rfl
theorem hostFabricAccess : ∀ x0, Statement (.hostFabricAccess x0) := fun _ => rfl
theorem softError : ∀ x0, Statement (.softError x0) := fun _ => rfl
theorem linkFailure : ∀ x0, Statement (.linkFailure x0) := fun _ => rfl

end Sys2Proof.Laws.Shape
end

