-- ==== Sys2Proof/Laws/Results.lean ====
section
/-! SUPPORT. Sys2Proof/Laws/Results.lean: what putting a result in flight can do, said once: posting, and the per-lane and
per-warp words over it. -/

namespace Sys2Proof.Machine

open Sys2Proof

/-! ### Blocks -/

@[simp] theorem State.block_modBlock_self (s : State) (b : Nat) (f : Block → Block) :
    (s.modBlock b f).block? b = (s.block? b).map f := Tbl.get_mod_self s.blocks b f

@[simp] theorem State.block_modBlock_ne (s : State) (b c : Nat) (f : Block → Block) (h : c ≠ b) :
    (s.modBlock b f).block? c = s.block? c := Tbl.get_mod_ne s.blocks b c f h

theorem State.here_modBlock (s : State) (f : Block → Block) (bk : Block) (h : s.block? s.iss.blk = some bk) :
    (s.modBlock s.iss.blk f).here = f bk := by simp [State.here, h]

@[simp] theorem Block.warp_modWarp_self (bk : Block) (w : Nat) (f : Warp → Warp) : (bk.modWarp w f).warp w = f (bk.warp w) := by
  simp [Block.modWarp, Block.warp, Tbl.modD, Tbl.getD]

@[simp] theorem Block.warp_modWarp_ne (bk : Block) (w v : Nat) (f : Warp → Warp) (h : v ≠ w) :
    (bk.modWarp w f).warp v = bk.warp v := by simp [Block.modWarp, Block.warp, Tbl.modD, Tbl.getD, h]

@[simp] theorem Warp.thread_modThread_self (wp : Warp) (l : Nat) (f : Thread → Thread) :
    (wp.modThread l f).thread l = f (wp.thread l) := by simp [Warp.modThread, Warp.thread, Tbl.modD, Tbl.getD]

@[simp] theorem Warp.thread_modThread_ne (wp : Warp) (l m : Nat) (f : Thread → Thread) (h : m ≠ l) :
    (wp.modThread l f).thread m = wp.thread m := by simp [Warp.modThread, Warp.thread, Tbl.modD, Tbl.getD, h]

@[simp] theorem Block.thread_modThread_self (bk : Block) (w l : Nat) (f : Thread → Thread) :
    (bk.modThread w l f).thread w l = f (bk.thread w l) := by simp [Block.modThread, Block.thread]

theorem Block.thread_modThread_ne (bk : Block) (w l v m : Nat) (f : Thread → Thread) (h : (v, m) ≠ (w, l)) :
    (bk.modThread w l f).thread v m = bk.thread v m := by
  simp only [Block.modThread, Block.thread]
  by_cases hv : v = w
  · subst hv
    rw [Block.warp_modWarp_self, Warp.thread_modThread_ne]
    rintro rfl; exact h rfl
  · rw [Block.warp_modWarp_ne _ _ _ _ hv]

@[simp] theorem Block.warp_mendEcc (bk : Block) (e : EccAt) (w : Nat) : (bk.mendEcc e).warp w = bk.warp w := rfl
@[simp] theorem Block.row_mendEcc (bk : Block) (e : EccAt) (r : Nat) : (bk.mendEcc e).row r = bk.row r := rfl

@[simp] theorem Block.row_modRow_self (bk : Block) (r : Nat) (f : Row → Row) : (bk.modRow r f).row r = f (bk.row r) := by
  simp [Block.modRow, Block.row, Tbl.modD, Tbl.getD]

@[simp] theorem Block.row_modRow_ne (bk : Block) (r k : Nat) (f : Row → Row) (h : k ≠ r) : (bk.modRow r f).row k = bk.row k := by
  simp [Block.modRow, Block.row, Tbl.modD, Tbl.getD, h]

/-! ### Frames compose -/

theorem OnlyBlock.refl (s : State) : OnlyBlock s s := ⟨rfl, rfl, rfl, rfl, rfl, rfl, fun _ _ => rfl, fun _ => rfl⟩

theorem OnlyBlock.trans {s t u : State} (h : OnlyBlock s t) (k : OnlyBlock t u) : OnlyBlock s u := by
  obtain ⟨a, b, c, d, e, f, g, i⟩ := h
  obtain ⟨a', b', c', d', e', f', g', i'⟩ := k
  refine ⟨a'.trans a, b'.trans b, c'.trans c, d'.trans d, e'.trans e, f'.trans f, fun x hx => ?_, fun q => (i' q).trans (i q)⟩
  rw [g' x (by rw [f]; exact hx), g x hx]

/-- The core cycle at hand stays (R4). -/
theorem OnlyBlock.now {s t : State} (h : OnlyBlock s t) : t.now = s.now := by
  obtain ⟨-, hc, -, -, hm, hi, -, hk⟩ := h
  have hp : (t.core s.iss.core).part = (s.core s.iss.core).part := by
    simpa only [Core.bare] using congrArg (fun k : Core => k.part) (hk s.iss.core)
  simp only [State.now, State.coreNow, State.coreCycleAt, State.cluster, hc, hm, hi, hp]

theorem BlockKept.refl (x : Block) : BlockKept x x :=
  ⟨fun _ _ => rfl, fun _ => rfl, fun _ => rfl, fun _ => rfl, rfl, rfl, rfl, rfl, rfl, rfl, rfl⟩

theorem BlockKept.trans {x y z : Block} (h : BlockKept x y) (k : BlockKept y z) : BlockKept x z := by
  obtain ⟨a, b, c, d, e, f, g, i, j, l, m⟩ := h
  obtain ⟨a', b', c', d', e', f', g', i', j', l', m'⟩ := k
  exact ⟨fun w l => (a' w l).trans (a w l), fun w => (b' w).trans (b w), fun w => (c' w).trans (c w),
    fun w => (d' w).trans (d w), e'.trans e, f'.trans f, g'.trans g, i'.trans i, j'.trans j, l'.trans l, m'.trans m⟩

/-! ### Posting -/

/-- The block after a result has entered flight. -/
theorem State.block_post (s : State) (b op : Nat) (due : Option Nat) (g : Tgt) (v : DWord) (last : Option (Nat × Nat × Nat)) :
    (s.post b op due g v last).block? b = (s.block? b).map fun bk =>
      Block.markEmpty { bk with pend := bk.pend ++ [{ op, due, seq := s.seq, tgt := g, val := v, last, wrote := s.writer g last }] } g :=
  Tbl.get_mod_self s.blocks b _

@[simp] theorem Block.pend_markEmpty (bk : Block) (g : Tgt) : (bk.markEmpty g).pend = bk.pend := by
  cases g <;> rfl

theorem Block.kept_markEmpty (bk : Block) (g : Tgt) : BlockKept bk (bk.markEmpty g) := by
  cases g with
  | row r l => exact BlockKept.refl bk
  | oreg w n l =>
    refine ⟨fun v m => ?_, fun v => ?_, fun v => ?_, fun v => ?_, rfl, rfl, rfl, rfl, rfl, rfl, rfl⟩
    · by_cases h : (v, m) = (w, l)
      · obtain ⟨rfl, rfl⟩ := Prod.mk.injEq .. ▸ h
        simp [Block.markEmpty, Thread.bare]
      · simp only [Block.markEmpty]; rw [Block.thread_modThread_ne _ _ _ _ _ _ h]
    all_goals
      simp only [Block.markEmpty, Block.modThread]
      by_cases h : v = w
      · subst h; rw [Block.warp_modWarp_self]; rfl
      · rw [Block.warp_modWarp_ne _ _ _ _ h]
  | scalar w n => exact BlockKept.refl bk
  | pred w l k => exact BlockKept.refl bk
  | none => exact BlockKept.refl bk

/-- Posting a result of the issuing block changes nothing outside it. -/
theorem State.only_post (s : State) (op : Nat) (due : Option Nat) (g : Tgt) (v : DWord) (last : Option (Nat × Nat × Nat)) :
    OnlyBlock s (s.post s.iss.blk op due g v last) :=
  ⟨rfl, rfl, rfl, rfl, rfl, rfl, fun b hb => Tbl.get_mod_ne s.blocks s.iss.blk b _ hb, fun _ => rfl⟩

/-- The issuing block after a result has entered flight. -/
theorem State.here_post (s : State) (bk : Block) (h : s.block? s.iss.blk = some bk) (op : Nat) (due : Option Nat) (g : Tgt)
    (v : DWord) (last : Option (Nat × Nat × Nat)) :
    (s.post s.iss.blk op due g v last).block? s.iss.blk =
      some (Block.markEmpty { bk with pend := bk.pend ++ [{ op, due, seq := s.seq, tgt := g, val := v, last, wrote := s.writer g last }] } g) := by
  rw [State.block_post, h]; rfl

/-- What a list of posts for the issuing block leaves, and what it puts in flight, said for one step of it: `f` keeps
everything outside the block, keeps the block's registers, and only adds results. -/
structure Posts (s t : State) : Prop where
  only : OnlyBlock s t
  block : ∀ x, s.block? s.iss.blk = some x → ∃ y, t.block? s.iss.blk = some y ∧ BlockKept x y ∧
    (∀ w, (y.warp w).map = (x.warp w).map) ∧ (∀ r l, (y.row r).val l = (x.row r).val l) ∧
    (∀ r, (y.row r).ref = (x.row r).ref) ∧ ∀ e ∈ x.pend, e ∈ y.pend

theorem Posts.refl (s : State) : Posts s s :=
  ⟨OnlyBlock.refl s, fun x h => ⟨x, h, BlockKept.refl x, fun _ => rfl, fun _ _ => rfl, fun _ => rfl, fun _ h => h⟩⟩

theorem Posts.trans {s t u : State} (h : Posts s t) (k : Posts t u) : Posts s u := by
  refine ⟨h.only.trans k.only, fun x hx => ?_⟩
  obtain ⟨y, hy, a, b, c, d, e⟩ := h.block x hx
  have hb : t.iss.blk = s.iss.blk := by rw [h.only.2.2.2.2.2.1]
  obtain ⟨z, hz, a', b', c', d', e'⟩ := k.block y (by rw [hb]; exact hy)
  exact ⟨z, by rw [← hb]; exact hz, a.trans a', fun w => (b' w).trans (b w), fun r l => (c' r l).trans (c r l),
    fun r => (d' r).trans (d r), fun p hp => e' p (e p hp)⟩

theorem State.posts_post (s : State) (op : Nat) (due : Option Nat) (g : Tgt) (v : DWord) (last : Option (Nat × Nat × Nat)) :
    Posts s (s.post s.iss.blk op due g v last) := by
  refine ⟨s.only_post op due g v last, fun x h => ⟨_, s.here_post x h op due g v last, ?_, ?_, ?_, ?_, ?_⟩⟩
  · exact Block.kept_markEmpty { x with pend := _ } g
  · intro w
    cases g with
    | oreg v n l =>
      simp only [Block.markEmpty, Block.modThread]
      by_cases e : w = v
      · subst e; rw [Block.warp_modWarp_self]; rfl
      · rw [Block.warp_modWarp_ne _ _ _ _ e]; rfl
    | row r l => rfl
    | scalar w n => rfl
    | pred w l k => rfl
    | none => rfl
  · intro r l
    cases g with
    | row k m =>
      simp only [Block.markEmpty]
      by_cases e : r = k
      · subst e; rw [Block.row_modRow_self]; rfl
      · rw [Block.row_modRow_ne _ _ _ _ e]; rfl
    | oreg v n l => rfl
    | scalar w n => rfl
    | pred w l k => rfl
    | none => rfl
  · intro r
    cases g with
    | row k m =>
      simp only [Block.markEmpty]
      by_cases e : r = k
      · subst e; rw [Block.row_modRow_self]; rfl
      · rw [Block.row_modRow_ne _ _ _ _ e]; rfl
    | oreg v n l => rfl
    | scalar w n => rfl
    | pred w l k => rfl
    | none => rfl
  · intro e he; rw [Block.pend_markEmpty]; exact List.mem_append_left _ he

/-- A fold of steps that post. -/
theorem Posts.foldl {α : Type} (f : State → α → State) (l : List α) (s : State)
    (hf : ∀ t a, Posts t (f t a)) : Posts s (l.foldl f s) := by
  induction l generalizing s with
  | nil => exact Posts.refl s
  | cons a r ih => exact (hf s a).trans (ih (f s a))

/-- What flies goes on flying. -/
theorem Flies.posts {s t u : State} {g : Tgt} {v : DWord} {lat : Nat} (bk : Block) (hb : s.block? s.iss.blk = some bk)
    (k : Posts s t) (h : Flies s t g v lat) (m : Posts t u) : Flies s u g v lat := by
  obtain ⟨y, hy, -⟩ := k.block bk hb
  have hi : t.iss.blk = s.iss.blk := by rw [k.only.2.2.2.2.2.1]
  have hj : u.iss.blk = t.iss.blk := by rw [m.only.2.2.2.2.2.1]
  obtain ⟨z, hz, -, -, -, -, hp⟩ := m.block y (by rw [hi]; exact hy)
  obtain ⟨e, he, h1⟩ := h
  refine ⟨e, ?_, h1⟩
  have ht : t.here = y := by simp [State.here, hi, hy]
  have hu : u.here = z := by simp [State.here, hj, hz]
  rw [hu]; exact hp e (ht ▸ he)

/-- A fixed result is in flight once it is written. -/
theorem State.flies_write (s s0 : State) (bk : Block) (hb : s.block? s.iss.blk = some bk) (hn : s.now = s0.now) (op : Nat) (g : Tgt) (v : DWord) (lat : Nat) (last : Option (Nat × Nat × Nat)) :
    Flies s0 (s.post s.iss.blk op (some (s.now + lat)) g v last) g v lat := by
  refine ⟨⟨op, some (s.now + lat), s.seq, g, v, last, s.writer g last⟩, ?_, rfl, rfl, ?_⟩
  · simp only [State.here, State.post_iss, s.here_post bk hb, Option.getD_some, Block.pend_markEmpty]
    exact List.mem_append_right _ (List.mem_singleton.mpr rfl)
  · exact congrArg (fun n => some (n + lat)) hn

/-! ### Words that write results -/

theorem State.posts_write (s : State) (w l : Nat) (d : Reg) (lat : Nat) (v : Word) : Posts s (s.write w l d lat v) :=
  s.posts_post ..

theorem State.posts_writeQuiet (s : State) (w l : Nat) (d : Reg) (lat : Nat) (v : Word) : Posts s (s.writeQuiet w l d lat v) :=
  s.posts_post ..

theorem State.posts_writeScalar (s : State) (w : Nat) (d : Reg) (lat : Nat) (v : DWord) (last : Bool) :
    Posts s (s.writeScalar w d lat v last) := by
  unfold State.writeScalar
  have h : ∀ u : State, Posts u ((u.lanesOf w).foldl (fun s l =>
      s.post s.iss.blk 0 (some (s.now + lat)) .none v (s.lastOf w l)) u) :=
    fun u => Posts.foldl _ _ _ fun t a => t.posts_post ..
  cases d <;> cases last <;> simp only [if_true, if_false, Bool.false_eq_true]
  all_goals first | exact Posts.refl _ | exact h _ | exact State.posts_post .. | exact (State.posts_post ..).trans (h _)

theorem State.posts_writePd (s : State) (w l pd lat : Nat) (t : Bool) : Posts s (s.writePd w l pd lat t) := by
  unfold State.writePd
  split
  · exact Posts.refl s
  · exact s.posts_post ..

/-- Two states that agree on what a destination's target is read from. -/
theorem State.target_congr (s t : State) (h : t.iss = s.iss) (hm : ∀ w, (t.here.warp w).map = (s.here.warp w).map)
    (w l : Nat) (d : Reg) : t.target w l d = s.target w l d := by
  cases d with
  | v n => simp only [State.target, State.snap, h, Block.mapOf, hm w]
  | o n => rfl
  | last p => rfl
  | z => rfl
  | s n => rfl

/-- The map of the issuing block after posts. -/
theorem Posts.map_here {s t : State} (bk : Block) (hb : s.block? s.iss.blk = some bk) (h : Posts s t) (w : Nat) :
    (t.here.warp w).map = (s.here.warp w).map := by
  obtain ⟨y, hy, -, hm, -⟩ := h.block bk hb
  have hi : t.iss.blk = s.iss.blk := by rw [h.only.2.2.2.2.2.1]
  simp [State.here, hi, hy, hb, hm]

/-- A fold that writes one result for each of a list of threads: all are in flight. -/
theorem State.writes_fly (d : Reg) (lat : Nat) (f : Nat → Nat → Word) (l : List (Nat × Nat)) (s0 s : State) (bk : Block)
    (hb : s0.block? s0.iss.blk = some bk) (h0 : Posts s0 s) :
    Posts s0 (l.foldl (fun s p => s.write p.1 p.2 d lat (f p.1 p.2)) s) ∧
    ∀ p ∈ l, Flies s0 (l.foldl (fun s p => s.write p.1 p.2 d lat (f p.1 p.2)) s) (s0.target p.1 p.2 d)
      ((f p.1 p.2).setWidth 64) lat := by
  induction l generalizing s with
  | nil => exact ⟨h0, fun p hp => by simp at hp⟩
  | cons q r ih =>
    have hq : Posts s (s.write q.1 q.2 d lat (f q.1 q.2)) := s.posts_write ..
    obtain ⟨h1, h2⟩ := ih (s.write q.1 q.2 d lat (f q.1 q.2)) (h0.trans hq)
    refine ⟨h1, fun p hp => ?_⟩
    rcases List.mem_cons.mp hp with rfl | hp
    · obtain ⟨y, hy, -⟩ := h0.block bk hb
      have hi : s.iss = s0.iss := h0.only.2.2.2.2.2.1
      have hf : Flies s0 (s.write p.1 p.2 d lat (f p.1 p.2)) (s0.target p.1 p.2 d) ((f p.1 p.2).setWidth 64) lat := by
        rw [← State.target_congr s0 s hi (fun w => Posts.map_here bk hb h0 w)]
        exact s.flies_write s0 y (by rw [hi]; exact hy) h0.only.now ..
      exact Flies.posts bk hb (h0.trans hq) hf (Posts.foldl _ _ _ fun t a => t.posts_write ..)
    · exact h2 p hp

/-! ### Opening an unmapped destination (R115, R116) -/

/-- What opening names may change: rows and maps of the issuing block, and the cores' row holders. -/
structure Opens (s t : State) : Prop where
  only : OnlyBlock s t
  block : ∀ x, s.block? s.iss.blk = some x → ∃ y, t.block? s.iss.blk = some y ∧ BlockKept x y ∧ y.pend = x.pend

theorem Opens.refl (s : State) : Opens s s := ⟨OnlyBlock.refl s, fun x h => ⟨x, h, BlockKept.refl x, rfl⟩⟩

theorem Opens.trans {s t u : State} (h : Opens s t) (k : Opens t u) : Opens s u := by
  refine ⟨h.only.trans k.only, fun x hx => ?_⟩
  obtain ⟨y, hy, a, e⟩ := h.block x hx
  have hb : t.iss.blk = s.iss.blk := by rw [h.only.2.2.2.2.2.1]
  obtain ⟨z, hz, a', e'⟩ := k.block y (by rw [hb]; exact hy)
  exact ⟨z, by rw [← hb]; exact hz, a.trans a', e'.trans e⟩

theorem Opens.foldl {α : Type} (f : State → α → State) (l : List α) (s : State) (hf : ∀ t a, Opens t (f t a)) :
    Opens s (l.foldl f s) := by
  induction l generalizing s with
  | nil => exact Opens.refl s
  | cons a r ih => exact (hf s a).trans (ih (f s a))

/-- A change of the issuing block that keeps its registers and its results in flight. -/
theorem State.opens_modBlock (s : State) (f : Block → Block) (hf : ∀ x, BlockKept x (f x) ∧ (f x).pend = x.pend) :
    Opens s (s.modBlock s.iss.blk f) :=
  ⟨⟨rfl, rfl, rfl, rfl, rfl, rfl, fun b hb => Tbl.get_mod_ne s.blocks s.iss.blk b f hb, fun _ => rfl⟩,
   fun x hx => ⟨f x, by rw [State.block_modBlock_self, hx]; rfl, (hf x).1, (hf x).2⟩⟩

theorem Block.kept_modRow (x : Block) (r : Nat) (f : Row → Row) : BlockKept x (x.modRow r f) := BlockKept.refl x

theorem Block.kept_setMap (x : Block) (w : Nat) (n : BitVec 8) (e : Option MapEnt) : BlockKept x (x.setMap w n e) := by
  have h : ∀ v, ((x.setMap w n e).warp v).threads = (x.warp v).threads ∧ ((x.setMap w n e).warp v).s = (x.warp v).s ∧
      ((x.setMap w n e).warp v).j = (x.warp v).j ∧ ((x.setMap w n e).warp v).fmask = (x.warp v).fmask := by
    intro v
    unfold Block.setMap
    rw [Block.warp_mendEcc]
    by_cases hv : v = w
    · subst hv; rw [Block.warp_modWarp_self]; exact ⟨rfl, rfl, rfl, rfl⟩
    · rw [Block.warp_modWarp_ne _ _ _ _ hv]; exact ⟨rfl, rfl, rfl, rfl⟩
  exact ⟨fun v l => by simp only [Block.thread, Warp.thread, (h v).1], fun v => (h v).2.1, fun v => (h v).2.2.1,
    fun v => (h v).2.2.2, rfl, rfl, rfl, rfl, rfl, rfl, rfl⟩

/-- A change of a core's row holders leaves every core bare as it was. -/
theorem State.core_holders (s : State) (c q : Nat) (f : Core → Tbl Nat) :
    ((s.modCore c fun k => { k with holders := f k }).core q).bare = (s.core q).bare := by
  simp only [State.core, State.modCore, Tbl.modD, Tbl.getD]
  by_cases h : q = c
  · subst h; simp [Core.bare]
  · simp [h]

/-- An allocation of a row for the issuing block. -/
theorem State.opens_alloc (s t : State) (c k r : Nat) (z : Bool) (h : s.alloc c s.iss.blk k z = some (t, r)) : Opens s t := by
  unfold State.alloc at h
  split at h
  · cases h
  · next n _ =>
    simp only [Option.some.injEq, Prod.mk.injEq] at h
    have h1 := s.opens_modBlock (fun bk => (bk.modRow n fun x =>
      if (!z && Tbl.get? (s.core c).holders n == some s.iss.blk) = true then { x with ref := 1, empty := 0 }
      else { Row.zero with ref := 1 }).mendEcc (.count n)) fun x => ⟨BlockKept.refl x, rfl⟩
    rw [← h.1]
    obtain ⟨e1, e2, e3, e4, e5, e6, e7, -⟩ := h1.only
    exact ⟨⟨e1, e2, e3, e4, e5, e6, e7, fun q => State.core_holders _ c q _⟩, h1.block⟩

theorem State.opens_openIn (s : State) (ws : List Nat) (d : Reg) : Opens s (s.openIn ws d) := by
  cases d with
  | v n =>
    refine Opens.foldl _ _ _ fun t w => ?_
    split
    · split
      · exact Opens.refl t
      · next u r h =>
        have h1 := t.opens_alloc u _ _ r _ h
        refine h1.trans ?_
        exact u.opens_modBlock _ fun x => ⟨x.kept_setMap w n _, rfl⟩
    · exact Opens.refl t
  | o n => exact Opens.refl s
  | last p => exact Opens.refl s
  | z => exact Opens.refl s
  | s n => exact Opens.refl s

theorem State.opens_open (s : State) (d : Reg) : Opens s (s.open d) := s.opens_openIn _ d

theorem State.opens_openAll (s : State) (ws : List Nat) (ds : List Reg) : Opens s (s.openAll ws ds) :=
  Opens.foldl _ _ _ fun _ _ => Opens.foldl _ _ _ fun u d => u.opens_openIn _ d

/-- The frame of opening, then posting. -/
theorem Opens.posts {s t u : State} (bk : Block) (hb : s.block? s.iss.blk = some bk) (h : Opens s t) (k : Posts t u) :
    OnlyBlock s u ∧ BlockKept bk u.here := by
  obtain ⟨y, hy, a, -⟩ := h.block bk hb
  have hi : t.iss.blk = s.iss.blk := by rw [h.only.2.2.2.2.2.1]
  have hj : u.iss.blk = t.iss.blk := by rw [k.only.2.2.2.2.2.1]
  obtain ⟨z, hz, b, -⟩ := k.block y (by rw [hi]; exact hy)
  refine ⟨h.only.trans k.only, ?_⟩
  simp only [State.here, hj, hz, Option.getD_some]
  exact a.trans b

/-- A PER-LANE WORD: what it changes, and what it puts in flight (R95, R116). -/
theorem State.perLane_spec (s : State) (d : Reg) (lat : Nat) (f : Nat → Nat → Word) (bk : Block)
    (hb : s.block? s.iss.blk = some bk) :
    Posts (s.open d) (s.perLane d lat f) ∧
    ∀ p ∈ s.iss.grp, Flies s (s.perLane d lat f) ((s.open d).target p.1 p.2 d) ((f p.1 p.2).setWidth 64) lat := by
  have ho := s.opens_open d
  have hi : (s.open d).iss = s.iss := ho.only.2.2.2.2.2.1
  obtain ⟨y, hy, -⟩ := ho.block bk hb
  obtain ⟨h1, h2⟩ := State.writes_fly d lat f s.iss.grp (s.open d) (s.open d) y (by rw [hi]; exact hy) (Posts.refl _)
  refine ⟨h1, fun p hp => ?_⟩
  obtain ⟨e, he, ha, hv, hd⟩ := h2 p hp
  refine ⟨e, he, ha, hv, hd.trans ?_⟩
  rw [ho.only.now]

/-- A WORD OF THE SCALAR UNIT: what it changes, and what it puts in flight (R152). -/
theorem State.perWarp_spec (s : State) (n : BitVec 6) (lat : Nat) (f : Nat → DWord) (bk : Block)
    (hb : s.block? s.iss.blk = some bk) :
    Posts s (s.perWarp (.s n) lat f) ∧ ∀ w ∈ s.warps, Flies s (s.perWarp (.s n) lat f) (.scalar w n.toNat) (f w) lat := by
  have key : ∀ (l : List Nat) (t : State), Posts s t →
      Posts s (l.foldl (fun s w => s.writeScalar w (.s n) lat (f w) true) t) ∧
      ∀ w ∈ l, Flies s (l.foldl (fun s w => s.writeScalar w (.s n) lat (f w) true) t) (.scalar w n.toNat) (f w) lat := by
    intro l
    induction l with
    | nil => exact fun t h => ⟨h, fun w hw => by simp at hw⟩
    | cons q r ih =>
      intro t h
      have hq : Posts t (t.writeScalar q (.s n) lat (f q) true) := t.posts_writeScalar ..
      obtain ⟨h1, h2⟩ := ih _ (h.trans hq)
      refine ⟨h1, fun w hw => ?_⟩
      rcases List.mem_cons.mp hw with rfl | hw
      · obtain ⟨y, hy, -⟩ := h.block bk hb
        have hi : t.iss = s.iss := h.only.2.2.2.2.2.1
        have hf := t.flies_write s y (by rw [hi]; exact hy) h.only.now 0 (.scalar w n.toNat) (f w) lat none
        have hp : Posts s (t.post t.iss.blk 0 (some (t.now + lat)) (.scalar w n.toNat) (f w) none) :=
          h.trans (t.posts_post ..)
        refine Flies.posts bk hb (h.trans hq) ?_ (Posts.foldl _ _ _ fun u a => u.posts_writeScalar ..)
        exact Flies.posts bk hb hp hf (Posts.foldl _ _ _ fun u a => u.posts_post ..)
      · exact h2 w hw
  exact key s.warps s (Posts.refl s)

end Sys2Proof.Machine
end

