-- ==== Sys2Proof/Tests/Slice0.lean ====
section
/-! SUPPORT. Sys2Proof/Tests/Slice0.lean: ill-formed terms that the checks refuse, words of the manual, single steps with the
manual's own figures, and a witness for the hypotheses of every statement. -/

namespace Sys2Proof.Tests

open Sys2Proof Sys2Proof.Machine Sys2Proof.Claims

/-! ### Words to test with -/

/-- An F word with every field at rest: `$z`, no trap bit, guard always. -/
def fw : FWord := { d := .z, a := .z, b := .z, c := .z, tba := false, tbb := false, tbc := false, g := 7, gn := false, mod := 0 }
/-- An I word with every field at rest. -/
def iw : IWord := { d := .z, a := .z, g := 7, gn := false, imm := 0 }
/-- An M word with every field at rest. -/
def mw : MWord := { d := .z, a := .z, b := .z, g := 7, gn := false, tbb := false, kind := 0, imm := 0 }
/-- A P half with every field at rest. -/
def ph : PHalf := { d := .z, s := .z, tbs := false, tbd := false, pmod := 0 }

/-! ### WellFormed refuses (R37, R40–R46) -/

-- R42 rule 1: an unused field is `$z`, with trap bit 0
theorem test_wf_unused_field : (Instr.nop { fw with d := .v 0 }).wf = false := by decide
theorem test_wf_trap_bit_of_z : (Instr.iadd { fw with d := .v 1, a := .v 2, tbc := true }).wf = false := by decide
-- R43: a guard where none is legal
theorem test_wf_guard : (Instr.iadd { fw with d := .v 1, g := 3 }).wf = false := by decide
-- R37: an undefined modifier, kind or immediate
theorem test_wf_modifier : (Instr.hint { fw with mod := 3 }).wf = false := by decide
theorem test_wf_nop_modifier : (Instr.nop { fw with mod := 1 }).wf = false := by decide
theorem test_wf_kind : (Instr.amo { mw with a := .s 0, kind := 10 }).wf = false := by decide
-- R42: classes of operands
theorem test_wf_last_as_destination : (Instr.iadd { fw with d := .last .la }).wf = false := by decide
theorem test_wf_scalar_float_destination : (Instr.fadd { fw with d := .s 0, a := .v 1, b := .v 2 }).wf = false := by decide
theorem test_wf_name_operand : (Instr.rfree { fw with a := .o 0 }).wf = false := by decide
theorem test_wf_map_destination : (Instr.rnew { fw with d := .s 0 }).wf = false := by decide
theorem test_wf_address_operand : (Instr.br { fw with a := .v 0 }).wf = false := by decide
theorem test_wf_link : (Instr.call { iw with d := .v 0 }).wf = false := by decide
theorem test_wf_rejoin_number : (Instr.jset { fw with a := .v 16, mod := 1 }).wf = false := by decide
theorem test_wf_scalar_destination : (Instr.mapq { fw with d := .v 0, a := .v 1 }).wf = false := by decide
theorem test_wf_even_scalar : (Instr.tnext { mw with d := .s 3 }).wf = false := by decide
theorem test_wf_load_group : (Instr.ldg { mw with d := .last .la, a := .s 0 }).wf = false := by decide
-- an event whose arguments are out of range
theorem test_wf_event : (Instr.slotKindWrite 64 0).wf = false := by decide
-- R41: a name above `$v127` has no 8-bit specifier
theorem test_wf_pair_name : (Reg.v 128).fits8 = false := by decide
-- R46: two halves with one destination
theorem test_wf_pair : pairOk (.iaddPair { ph with d := .v 1, s := .v 2 }) (.isubPair { ph with d := .v 1, s := .v 3 }) = false := by
  decide
-- R45: limits of composition: two transfers, two memory words, one destination twice
theorem test_wf_two_transfers : composeOk [⟨1, .whole, .bra iw⟩, ⟨2, .whole, .exit fw⟩] = false := by decide
theorem test_wf_two_memory_words : composeOk [⟨1, .whole, .stg { mw with a := .s 0 }⟩, ⟨2, .whole, .stl mw⟩] = false := by decide
theorem test_wf_one_destination_twice :
    composeOk [⟨1, .whole, .movi { iw with d := .v 1 }⟩, ⟨2, .whole, .movi { iw with d := .v 1 }⟩] = false := by decide
theorem test_wf_composition : composeOk [⟨1, .whole, .movi { iw with d := .v 1 }⟩, ⟨2, .whole, .movi { iw with d := .v 2 }⟩] = true := by
  decide

/-! ### Words of the manual, one or more for each family -/

-- "A bundle encoded", "Words" tables of the chapters
theorem test_decode_jset : decodeWord 0x01E160185C2C7001 = .ok (.jset { fw with a := .v 1, mod := 1 }) := by decide
theorem test_decode_iset : decodeWord 0x15A16040442F720A =
    .ok (.iset { fw with a := .v 4, b := .v 8, tba := true, tbb := true, mod := 0x20A }) := by decide
theorem test_decode_bra : decodeWord 0x806170B300000002 = .ok (.bra { iw with g := 1, gn := true, imm := 2 }) := by decide
theorem test_decode_rmov : decodeWord 0x068080885C2C7000 = .ok (.rmov { fw with d := .v 4, a := .v 8 }) := by decide
theorem test_decode_give : decodeWord 0x076160485C2C7045 = .ok (.give { fw with a := .v 4, mod := 0x45 }) := by decide
theorem test_decode_fcvt : decodeWord 0x1BC2805858247041 = .ok (.fcvt { fw with d := .v 20, a := .v 5, c := .v 9, mod := 0x41 }) := by
  decide
theorem test_decode_topki : decodeWord 0x1D430180A4057000 =
    .ok (.topki { fw with d := .v 24, a := .v 24, b := .v 20, c := .o 1, tbb := true }) := by decide
theorem test_decode_movi : decodeWord 0x960090BE0000000B = .ok (.movi { iw with d := .v 4, imm := 11 }) := by decide
theorem test_decode_call : decodeWord 0x812170BE00000002 = .ok (.call { iw with imm := 2 }) := by decide
theorem test_decode_jmpi : decodeWord 0x00E1700A2C2C7004 = .ok (.jmpi { fw with a := .o 0, b := .s 5, mod := 4 }) := by decide
theorem test_decode_ldk : decodeWord 0xC4A042E17C400060 = .ok (.ldk { mw with d := .s 0, kind := 4, imm := 0x60 }) := by decide
theorem test_decode_stg : decodeWord 0xC185D028DC000000 = .ok (.stg { mw with a := .s 0, b := .s 6 }) := by decide
theorem test_decode_phase : decodeWord 0xC685C2E17C200000 = .ok (.phase { mw with kind := 2 }) := by decide
theorem test_decode_bcpy : decodeWord 0xD1A550A87CC00040 = .ok (.bcpy { mw with d := .s 10, a := .s 2, b := .s 3, kind := 12, imm := 0x40 }) := by
  decide
theorem test_decode_bbwt : decodeWord 0xD7A642E17C0001F0 = .ok (.bbwt { mw with d := .s 12, imm := 0x1F0 }) := by decide
theorem test_decode_mma : decodeWord 0xE085D1011C000053 = .ok (.mma { mw with a := .s 4, b := .v 8, imm := 0x53 }) := by decide
theorem test_decode_ftwait : decodeWord 0xF8A150E17C000000 = .ok (.ftwait { mw with d := .s 2, a := .s 3 }) := by decide
-- R47, R48: an operation number that the map reserves
theorem test_decode_reserved_opcode : decodeWord 0x0EE160B85C2C7000 = .error .opcode := by decide
-- R40: a reserved specifier in d
theorem test_decode_reserved_specifier : decodeReg9 0x10C = none ∧ decodeReg8 0x8C = none := by decide

/-! ### What words compute: figures of the manual -/

-- R159's four sums: `$v12`, `$v13` of the addition and of the subtraction
theorem test_iaddx_add : iaddxSum false 0xFFFFFFF0 0x00000020 false = 0x100000010 := by decide
theorem test_iaddx_sub : iaddxSum true 0xFFFFFFF0 0x00000020 true = 0x1FFFFFFD0 := by decide
theorem test_iaddx_sub_borrow : iaddxSum true 0x00000001 0x00000002 true = 0x0FFFFFFFF := by decide
-- R185's residuals: 1.00390625 to BF16; 0.3 to E4M3 in element 2; 3.1 to MK8; 2,000 to MK8 `.nr`
theorem test_cvtef_bf16 : (cvtefE { fw with mod := 0x40 } 0x3F808000 0).1 = 0x3F80 ∧ (cvtefE { fw with mod := 0x40 } 0x3F808000 0).2 = 0x3B800000 := by
  decide

/-! ### A small machine to test on -/

/-- A live thread of user level at address 2^16, with `$o0` = 7, `$o1` = 9. -/
def thr : Thread := { Thread.fresh with live := true, pc := 0x10000, o := [(0, 7), (1, 9)] }
/-- Row 4 of bank 0, one reference, lane 0 = 5. -/
def row4 : Row := { Row.zero with ref := 1, vals := [(0, 5)] }
/-- Row 5 of bank 1, one reference. -/
def row5 : Row := { Row.zero with ref := 1, vals := [(0, 6)] }
/-- A warp of two threads; `$v4` maps to row 4, `$v5` to row 5; `$s2` = 2^40. -/
def wrp : Warp := { Warp.fresh with map := [(4, .row 4), (5, .row 5)], s := [(2, 0x10000000000)], threads := [(0, thr), (1, thr)] }
/-- A block of one such warp on core 0. -/
def blk0 : Block := { loadedBlock with rows := [(4, row4), (5, row5)], warps := [(0, wrp)] }
/-- Context 1, with its handlers from 2^17. -/
def ctx0 : Ctx := { loadedCtx with tvec := 0x20000 }
/-- A machine with a block, in which lane 0 of warp 0 issues a bundle at 2^16 whose checks are done or not. -/
def issuing (bk : Block) (g : List (Nat × Nat)) (checked : Bool) : State :=
  { State.reset with
    ms := { MemSys.fresh with tlb := [(0, [{ ctx := 1, va := 0x10000, bits := 16, pa := 0x10000, perm := 7 }])] },
    blocks := [(0, bk)], ctxs := [(1, ctx0)], cp := { Control.fresh with tasks := [(0, loadedTask)] },
    iss := { core := 0, blk := 0, addr := 0x10000, stall := 0, grp := g, words := [], pos := 1, half := .whole, snap := some bk,
             checked, wait := false } }
/-- Lane 0 of warp 0 issues. -/
def one : State := issuing blk0 [(0, 0)] true
/-- Both lanes issue. -/
def two : State := issuing blk0 [(0, 0), (0, 1)] true

theorem wit_issuing : Issuing one blk0 := ⟨rfl, rfl⟩
theorem wit_alone : Alone one blk0 0 0 := ⟨wit_issuing, rfl⟩
theorem wit_oneWarp : OneWarp two blk0 0 := ⟨⟨rfl, rfl⟩, by decide⟩

/-! ### Witnesses: encoding and the step -/

theorem wit_WordsAndHalvesRoundTrip :
    ((Instr.movi { iw with d := .v 4, imm := 11 }).wf = true ∧ encodeWord (.movi { iw with d := .v 4, imm := 11 }) = some 0x960090BE0000000B) ∧
    (opP 0 { ph with d := .v 127, s := .v 2 } = some (.iaddPair { ph with d := .v 127, s := .v 2 }) ∧
      (Instr.iaddPair { ph with d := .v 127, s := .v 2 }).wf = true ∧ (Reg.v 127).fits8 = true ∧ (Reg.v 2).fits8 = true ∧
      (unaryCode 0 = true → false = false)) := by decide
theorem wit_AcceptedWordsAreEncodings : (∃ i, decodeWord 0x960090BE0000000B = .ok i) ∧ ∃ i, decodeHalf 0x200A1200 = .ok i := ⟨⟨_, rfl⟩, ⟨_, rfl⟩⟩
theorem wit_SpecifiersFollowTheTables : decodeReg8 0x7F = some (.v 127) := by decide
/-- A bundle of one word for each outcome: a pool, another kind, a reserved bit, a code bundle. -/
theorem wit_BundlesAreDecoded :
    ((bundleWord (0x6000000000000000#256) 0).extractLsb' 60 4).toNat = 6 ∧ ((bundleWord (0#256) 0).extractLsb' 60 4).toNat = 0 ∧
    (((bundleWord (0xA000000000000001#256) 0).extractLsb' 60 4).toNat = 10 ∧ (bundleWord (0xA000000000000001#256) 0).extractLsb' 0 49 ≠ 0) ∧
    (∃ x, decodeBundle (0xA000000000000000#256) = .ok x) ∧ (∃ i, decodeWord 0x960090BE0000000B = .ok i ∧ composeOk [⟨1, .whole, i⟩] = true) :=
  ⟨by decide, by decide, by decide, ⟨_, rfl⟩, ⟨_, rfl, by decide⟩⟩

/-- A machine about to issue a bundle for the one thread of its block, which stands at 2^16. -/
def ready (b : BundleBits) (lv : Level) : State :=
  let s := State.reset.loaded b
  { s with blocks := [(0, { loadedBlock with warps := [(0, { Warp.fresh with threads := [(0, { thr with level := lv })] })] })], ctxs := [(1, ctx0)] }
/-- That block. -/
def readyBlock (lv : Level) : Block := { loadedBlock with warps := [(0, { Warp.fresh with threads := [(0, { thr with level := lv })] })] }
/-- MOVI `$o0`, 11 alone in a bundle. -/
def movi11 : BundleBits := bundleOf 2#2 0x9620_10BE_0000_000B#64

theorem wit_StepRunsTheDecodedInstruction : ∃ B p, decodeBundle movi11 = .ok B ∧ B.words = [p] ∧
    Fetches (ready movi11 .user) { ready movi11 .user with agenda := [] } 0 0 0x10000 false [] (readyBlock .user) [(0, 0)] movi11 B := by
  refine ⟨_, _, rfl, rfl, ⟨rfl, rfl, rfl, by decide, .inl ⟨by decide, by decide⟩, by decide, by decide, fun p hp => ⟨0x10000, ?_⟩, rfl, fun p hp => ?_⟩⟩
  · cases hp; decide
  · simp only [List.mem_singleton] at hp; subst hp; decide
/-- A machine whose one thread has been ready for 5,000 cycles. -/
def starved : State :=
  let s := ready movi11 .user
  { s with cyc := 5000, blocks := [(0, { readyBlock .user with warps := [(0, { Warp.fresh with threads := [(0, { thr with since := some 1 })] })] })] }
theorem wit_starved : ∃ t, starved.overdue = some (t, 0, 0, 0x10000, 0) := by
  have h : starved.overdue.map (·.2) = some (0, 0, 0x10000, 0) := by decide +kernel
  obtain ⟨x, hx, hy⟩ := Option.map_eq_some_iff.mp h
  exact ⟨x.1, by rw [hx, ← hy]⟩
/-- A machine in cycle 1 of a slot, where a result of lane 0 of row 4 is due in the next cycle and one of lane 1 is not. -/
def quietly : State :=
  { State.reset with
    cyc := 1, ctxs := [(1, ctx0)],
    blocks := [(0, { blk0 with pend := [{ op := 0, due := some 2, seq := 1, tgt := .row 4 0, val := 11, last := none },
                                        { op := 0, due := some 4, seq := 2, tgt := .row 4 1, val := 12, last := none }] })] }
/-- What holds of the default and of every entry of a table holds of what is read from it. -/
theorem Tbl.getD_ind {α : Type} (P : α → Prop) (t : Tbl α) (k : Nat) (d : α) (hd : P d) (h : ∀ p ∈ t, P p.2) : P (Tbl.getD t k d) := by
  induction t with
  | nil => exact hd
  | cons p t ih =>
    obtain ⟨j, v⟩ := p
    by_cases e : j = k
    · simpa [Tbl.getD, Tbl.get?, e] using h (j, v) (by simp)
    · simpa [Tbl.getD, Tbl.get?, e] using ih fun q hq => h q (by simp [hq])
/-- A block without error marks has no register that reads as bad. -/
theorem errAt_of_none (bk : Block) (he : bk.ecc = []) (hr : ∀ p ∈ bk.rows, p.2.err = 0)
    (ht : ∀ p ∈ bk.warps, ∀ q ∈ p.2.threads, q.2.oErr = 0 ∧ q.2.lastErr = 0) (w l : Nat) (r : Reg) : bk.errAt w l r = false := by
  have row : ∀ k, (bk.row k).err = 0 := fun k => Tbl.getD_ind (fun x : Row => x.err = 0) bk.rows k _ rfl hr
  have thr : (bk.thread w l).oErr = 0 ∧ (bk.thread w l).lastErr = 0 :=
    Tbl.getD_ind (fun x : Thread => x.oErr = 0 ∧ x.lastErr = 0) _ l _ ⟨rfl, rfl⟩
      (Tbl.getD_ind (fun x : Warp => ∀ q ∈ x.threads, q.2.oErr = 0 ∧ q.2.lastErr = 0) bk.warps w _ (by simp [Warp.fresh]) ht)
  cases r with
  | v n => simp only [Block.errAt]; split <;> simp [row]
  | o n => simp [Block.errAt, thr.1]
  | last p => cases p <;> simp [Block.errAt, thr.2]
  | z => rfl
  | s n => simp [Block.errAt, he]
theorem wit_quietly : Quiet quietly :=
  ⟨by decide, by decide, by decide, by decide, fun p hp q hq h hh => absurd hh (by
    have e : ∀ p ∈ quietly.blocks, ∀ q ∈ p.2.live, (p.2.thread q.1 q.2).holds = [] := by decide
    simp [e p hp q hq]), ⟨rfl, by decide⟩, fun p hp w l r => by
      simp only [quietly, List.mem_singleton] at hp
      subst hp
      exact errAt_of_none _ rfl (by decide) (by decide) w l r, by decide, by decide, rfl⟩
theorem wit_StepCarriesOutChoicesAndCounts :
    ({ State.reset with agenda := [.event .bootRomStart] } : State).agenda = .event .bootRomStart :: [] ∧
    ({ State.reset with agenda := [.tick] } : State).agenda = .tick :: [] ∧ State.reset.agenda = [] ∧ State.reset.overdue = none ∧
    (∃ t, starved.overdue = some (t, 0, 0, 0x10000, 0)) ∧ (({ starved with agenda := [] } : State).turnCore 0).dueOn 0 = some (0, 0, 0x10000, 0) ∧
    Quiet quietly := ⟨rfl, rfl, rfl, by decide, wit_starved, by decide +kernel, wit_quietly⟩
/-- A bundle of kind 0 for BadBundlesFault, and ERET at user level for PrivilegedWordsTrap. -/
theorem wit_FaultsBeforeTheWords :
    (let s := ready 0 .user
     s.block? 0 = some (readyBlock .user) ∧ s.mayIssue 0 (readyBlock .user) = true ∧ s.groupAt 0 0 (readyBlock .user) 0x10000 = [(0, 0)] ∧
     s.fetchPa 0 (readyBlock .user) 0 ((readyBlock .user).fragment 0 0x10000) 0x10000 = some 0x10000 ∧ s.cachedBundle 0 0x10000 = some 0 ∧
     s.codeOk 0 1 .user 0x10000 = true ∧ decodeBundle 0 = .error .kind) ∧
    (let b := bundleOf 1#2 (packF 0x12#8 fw)
     let s := ready b .user
     s.groupAt 0 0 (readyBlock .user) 0x10000 = [(0, 0)] ∧ s.cachedBundle 0 0x10000 = some b ∧
     ∃ B, decodeBundle b = .ok B ∧ (B.words.any fun p => p.i.privileged) = true) :=
  ⟨by decide, by decide, by decide, ⟨_, rfl, by decide⟩⟩
/-- A pool bundle, whose decoding fails by name. -/
theorem wit_FaultsBeforeTheWords_pool : decodeBundle (0x6000000000000000#256) = .error .pool := by decide
/-- A block whose one live thread stands at 2^16. -/
def soloBlock : Block := { blk0 with warps := [(0, { wrp with threads := [(0, thr)] })] }
theorem wit_ChecksAtIssue :
    (let s := issuing soloBlock [(0, 0)] false
     s.block? 0 = some soloBlock ∧ s.snap = soloBlock ∧ s.iss.checked = false ∧ s.iss.grp = [(0, 0)] ∧ (Tbl.get? s.ctxs soloBlock.ctx).isSome = true ∧
     (soloBlock.thread 0 0).level = .user ∧ (∀ m ∈ soloBlock.fragment 0 0x10000, m = 0) ∧ s.groupBad 0 soloBlock 0x10000 [] [(0, 0)] = []) ∧
    (∃ e, (issuing soloBlock [(0, 0)] false).groupBad 0 soloBlock 0x10000 [⟨1, .whole, .iadd { fw with d := .o 0, a := .v 9 }⟩] [(0, 0)] = [((0, 0), e)] ∧
      e.code = .unmapped) ∧
    (let b := { blk0 with warps := [(0, { wrp with threads := [(0, thr), (1, { thr with pc := 0x10020 })] })] }
     let q : Placed := ⟨1, .whole, .vote { fw with d := .o 2, a := .o 0 }⟩
     q.i.convergent = true ∧ takesPart b q.i 0 0 = true ∧ 1 ∈ b.liveLanes 0 ∧ 1 ∉ b.fragment 0 0x10000) ∧
    (let p : Placed := ⟨1, .whole, .iadd { fw with d := .o 0, a := .v 9 }⟩
     takesPart blk0 p.i 0 0 = true ∧ p.i.convergent = false ∧ (namesOf blk0 p).find? (fun q => blk0.isUnmapped 0 q) = some (.v 9)) ∧
    (let p : Placed := ⟨1, .whole, .iadd { fw with d := .o 0, a := .v 4, tba := true }⟩
     let b := { blk0 with rows := [(4, { row4 with empty := 1 }), (5, row5)] }
     takesPart b p.i 0 0 = true ∧ p.i.convergent = false ∧ (∀ r ∈ namesOf b p, b.isUnmapped 0 r = false) ∧
       ((usesOf b p).any fun u => u.trap && b.emptyAt 0 0 u.r) = true) ∧
    (let p : Placed := ⟨1, .whole, .movi { iw with d := .v 8 }⟩
     let b := { blk0 with lpb := { loadedLpb with quota := 4 } }
     (∀ r ∈ namesOf b p, b.isUnmapped 0 r = false) ∧ ((usesOf b p).any fun u => u.trap && b.emptyAt 0 0 u.r) = false ∧
     (∀ u ∈ usesOf b p, b.errAt 0 0 u.r = false) ∧ b.ecc = [] ∧ bankBad p.i b 0 0 = false ∧ (∀ r ∈ changes p.i, b.isShared 0 r = false) ∧
     takesPart b p.i 0 0 = true ∧ p.i.convergent = false ∧ allocsOf b p 0 = [0] ∧ b.share ≤ b.heldIn 0) :=
  ⟨by decide, ⟨_, rfl, rfl⟩, by decide, by decide, by decide, by decide⟩
theorem wit_MemoryIsFaithful : Memory.wf (Memory.write [] 3 7) = true := by decide
theorem wit_StepsKeepTheInvariant : State.reset.Inv ∧ ∃ t, step { State.reset with agenda := [.tick] } = .next t :=
  ⟨⟨rfl, by decide⟩, ⟨_, rfl⟩⟩

/-! ### Witnesses: words -/

theorem wit_ArithmeticOnLanes : ∃ i k, aluOf i = some k ∧ k.scalar = false ∧ Issuing one blk0 :=
  ⟨.iadd { fw with d := .o 2, a := .o 0, b := .o 1 }, _, rfl, rfl, wit_issuing⟩
theorem wit_ArithmeticOnScalarUnit : ∃ i k, aluOf i = some k ∧ k.scalar = true ∧ k.d = .s 63 ∧ Issuing one blk0 :=
  ⟨.iadd { fw with d := .s 63, a := .s 2, b := .s 2 }, _, rfl, rfl, rfl, wit_issuing⟩
theorem wit_OtherResults : (∃ i d lat f, laneOf one i = some (d, lat, f) ∧ Issuing one blk0) ∧
    ∃ i n lat f, warpOf one i = some (.s n, lat, f) ∧ Issuing one blk0 :=
  ⟨⟨.qswp { fw with d := .o 2, a := .o 0 }, _, _, _, rfl, wit_issuing⟩, ⟨.elect { fw with d := .s 0 }, _, _, _, rfl, wit_issuing⟩⟩
theorem wit_lanes : (∀ v, (two.lanesOf v).Nodup) ∧ ∀ p ∈ two.iss.grp, p.2 < 32 := by
  refine ⟨fun v => ?_, by decide⟩
  by_cases h : v = 0
  · subst h; decide
  · simp [State.lanesOf, two, issuing, Ne.symm h]
theorem wit_SecondResults : Issuing two blk0 ∧ ({ fw with mod := 0x101 } : FWord).mod.getLsbD 0 = true ∧
    (({ fw with mod := 0x101 } : FWord).mod >>> 8).toNat = 0 + 1 ∧ writesNoPred (.shfl fw) = true ∧
    ((({ fw with mod := 0x700 } : FWord).mod >>> 8).toNat = 6 + 1 ∧ ¬ (Instr.iset { fw with a := .o 0, b := .o 1, mod := 0x700 }).scalarUnit) ∧
    (((({ fw with mod := 0x38 } : FWord).mod >>> 3) &&& 7#11).toNat = 6 + 1 ∧ ¬ (Instr.iaddx { fw with d := .o 2, mod := 0x38 }).scalarUnit) :=
  ⟨⟨rfl, rfl⟩, by decide, by decide, rfl, by decide, by decide⟩
theorem wit_ArithmeticFormulas : ∃ i k f, aluOf i = some k ∧ formula i = some f := ⟨.shl { fw with d := .o 0 }, _, _, rfl, rfl⟩
theorem wit_AtomicOperations : 10 ≤ ({ mw with kind := 10 } : MWord).kind.toNat := by decide
theorem wit_Branches : (∃ g gn f, branchOf two (.bra iw) = some (g, gn, f)) ∧ Issuing two blk0 ∧ two.iss.grp.Nodup :=
  ⟨⟨_, _, _, rfl⟩, ⟨rfl, rfl⟩, by decide⟩
theorem wit_CallsAndReturns : Alone one blk0 0 0 ∧ one.guard 0 0 7 false = true ∧ iw.d = .z ∧ ({ iw with d := .s 63 } : IWord).d = .s 63 ∧
    ({ fw with d := .o 6 } : FWord).d = .o 6 := ⟨wit_alone, by decide, rfl, rfl, rfl⟩
theorem wit_AdviceAndSleep : one.iss.checked = true ∧ Alone one blk0 0 0 ∧ Issuing two blk0 ∧ two.iss.grp.Nodup :=
  ⟨rfl, wit_alone, ⟨rfl, rfl⟩, by decide⟩
theorem wit_ExitEnds : Alone one blk0 0 0 := wit_alone
theorem wit_TrapsEnter : Alone one blk0 0 0 ∧ Tbl.get? one.ctxs blk0.ctx = some ctx0 ∧ (blk0.thread 0 0).level = .user ∧
    blk0.untranslated 0 0 = false ∧ one.reqUntranslated (blk0.core?.getD 0) one.iss.blk 0 0 = false ∧ (blk0.thread 0 0).memFault = none :=
  ⟨wit_alone, rfl, rfl, rfl, rfl, rfl⟩

/-- A store of lane 0 that was found to fault, recorded for replay. -/
def faultedOp : MemOp :=
  { id := 3, i := .stg { mw with a := .s 2, b := .o 0 }, pc := 0x10000, issued := 0, todo := [],
    held := [{ w := 0, lane := 0, lv := .user, addr := 0x40000, data := [1, 0, 0, 0], cmp := 0 }], parked := [], arrive := none }
/-- A block whose thread stands in its handler, with or without a recorded operation. -/
def handling (rec : Bool) : Block :=
  { blk0 with warps := [(0, { wrp with threads := [(0, { thr with level := .supervisor, fcode := if rec then 0x20E else 0x18,
                                                                  recorded := if rec then some 3 else none, resume := 0x10020 })] })],
              ops := if rec then [faultedOp] else [] }
theorem wit_EretReturnsAndReplays :
    (Alone (issuing (handling false) [(0, 0)] true) (handling false) 0 0 ∧
      ((issuing (handling false) [(0, 0)] true).snap.thread 0 0).fcode.getLsbD 9 = false) ∧
    (Alone (issuing (handling true) [(0, 0)] true) (handling true) 0 0 ∧
      ((issuing (handling true) [(0, 0)] true).snap.thread 0 0).fcode.getLsbD 9 = true ∧
      ((handling true).thread 0 0).recorded = some 3 ∧ fw.mod.getLsbD 0 = false ∧
      ({ fw with mod := 1 } : FWord).mod.getLsbD 0 = true ∧ (handling true).ops.find? (·.id == 3) = some faultedOp ∧
      ∃ a ∈ faultedOp.held, a.w = 0 ∧ a.lane = 0) :=
  ⟨⟨⟨⟨rfl, rfl⟩, rfl⟩, by decide⟩, ⟨⟨⟨rfl, rfl⟩, rfl⟩, by decide, by decide, by decide, by decide, rfl, by decide⟩⟩
theorem wit_FaultsAreTaken :
    (one.block? 0 = some blk0 ∧ Tbl.get? one.ctxs blk0.ctx = some ctx0 ∧ (blk0.thread 0 0).level = .user) ∧
    ((issuing (handling false) [(0, 0)] true).block? 0 = some (handling false) ∧ ((handling false).thread 0 0).level = .supervisor ∧
      ctx0.ending = none) := ⟨⟨rfl, rfl, rfl⟩, rfl, rfl, rfl⟩

/-- A block whose warp waits for lanes 0 and 1 at rejoin register 0, and for lane 1 alone at register 15. -/
def joining : Block := { blk0 with warps := [(0, { wrp with j := [(0, { mask := 3, arrived := 0 }), (15, { mask := 2, arrived := 0 })] })] }
theorem wit_RejoinPoints : Alone (issuing joining [(0, 0)] true) joining 0 0 ∧
    (issuing joining [(0, 0)] true).snap.warp 0 = joining.warp 0 ∧
    (((joining.warp 0).rejoin 0).mask.getLsbD 0 = true ∧ ((joining.warp 0).rejoin 0).mask.getLsbD 1 = true ∧
      ((joining.warp 0).rejoin 0).arrived.getLsbD 1 = false ∧ (joining.thread 0 1).live = true) ∧
    (((joining.warp 0).rejoin 15).mask.getLsbD 0 = false ∧ ∀ m, (joining.thread 0 m).heldBy (· == .jwait 15) = false) :=
  ⟨⟨⟨rfl, rfl⟩, rfl⟩, rfl, by decide, by decide, fun m => match m with | 0 => rfl | 1 => rfl | _ + 2 => rfl⟩
theorem wit_SpecialRegisterWrites : Alone one blk0 0 0 ∧ Tbl.get? one.ctxs one.snap.ctx = some ctx0 ∧ (one.snap.thread 0 0).rp = false ∧
    ((issuing (handling true) [(0, 0)] true).snap.thread 0 0).rp = true ∧
    (one.val64 0 0 (.s 2)).setWidth 32 = (one.core 0).accown ∧
    (let s : State := { one with cores := [(0, { Core.fresh with accown := 1 })] }
     (s.val64 0 0 (.s 2)).setWidth 32 ≠ (s.core 0).accown ∧ Alone s blk0 0 0 ∧ Tbl.get? s.ctxs s.snap.ctx = some ctx0) ∧
    (∀ n ∈ [0x14, 0x15, 0x20, 0x22, 0x28, 0x29, 0x2A, 0x2B, 0x2C], ∃ x : FWord, x.sreg = n ∧ x.a = .s 2) := by
  refine ⟨wit_alone, rfl, by decide, by decide, by decide, ⟨by decide, ⟨⟨rfl, rfl⟩, rfl⟩, rfl⟩, fun n hn => ?_⟩
  simp only [List.mem_cons, List.not_mem_nil, or_false] at hn
  rcases hn with rfl | rfl | rfl | rfl | rfl | rfl | rfl | rfl | rfl
  · exact ⟨{ fw with a := .s 2, mod := 0x14 }, by decide, rfl⟩
  · exact ⟨{ fw with a := .s 2, mod := 0x15 }, by decide, rfl⟩
  · exact ⟨{ fw with a := .s 2, mod := 0x20 }, by decide, rfl⟩
  · exact ⟨{ fw with a := .s 2, mod := 0x22 }, by decide, rfl⟩
  · exact ⟨{ fw with a := .s 2, mod := 0x28 }, by decide, rfl⟩
  · exact ⟨{ fw with a := .s 2, mod := 0x29 }, by decide, rfl⟩
  · exact ⟨{ fw with a := .s 2, mod := 0x2A }, by decide, rfl⟩
  · exact ⟨{ fw with a := .s 2, mod := 0x2B }, by decide, rfl⟩
  · exact ⟨{ fw with a := .s 2, mod := 0x2C }, by decide, rfl⟩
set_option maxRecDepth 8000 in
theorem wit_RowsAreAllocated :
    (OneWarp two blk0 0 ∧ two.freeRow 0 0 = some 0 ∧ blk0.mapOf 0 8 ≠ some (.row 0) ∧
      Tbl.get? (two.core 0).holders 0 ≠ some 0) ∧
    (let s : State := { two with cores := [(0, { Core.fresh with holders := [(0, 0)] })] }
     OneWarp s blk0 0 ∧ s.freeRow 0 0 = some 0 ∧ Tbl.get? (s.core 0).holders 0 = some 0) ∧
    (Alone one blk0 0 0 ∧ blk0.mapOf 0 8 = none ∧ one.snap.mapOf 0 8 = none ∧ one.freeRow 0 0 = some 0 ∧
      (Instr.movi { iw with d := .v 8 }).scalarUnit = false) :=
  ⟨⟨wit_oneWarp, by decide, by decide, by decide⟩, ⟨⟨⟨rfl, rfl⟩, by decide⟩, by decide, by decide⟩, wit_alone, rfl, rfl, by decide, rfl⟩
theorem wit_NamesAreEdited : OneWarp two blk0 0 ∧ two.mapped 0 (.v 4) = some (.row 4) ∧ two.mapped 0 (.v 5) = some (.row 5) ∧
    (4#8 ≠ 5#8) ∧ blk0.mapOf 0 4 = some (.row 4) ∧ blk0.mapOf 0 5 = some (.row 5) ∧ (∀ r, blk0.mapOf 0 4 = some (.row r) → r ≠ 5) :=
  ⟨wit_oneWarp, by decide, by decide, by decide, rfl, rfl, fun r h => by cases h; decide⟩

/-- A block with a full box 0 and a giver and takers at others: boxes 1 and 2. -/
def pantry : Block :=
  { blk0 with boxes := [(0, { box := some 4, givers := [], takers := [] }), (1, { box := some 4, givers := [(5, 0, 2)], takers := [] }),
                        (2, { box := none, givers := [], takers := [(0, 9, 2)] })] }
theorem wit_PantryExchangesRows : OneWarp (issuing pantry [(0, 0)] true) pantry 0 ∧
    (issuing pantry [(0, 0)] true).mapped 0 (.v 4) = some (.row 4) ∧ pantry.mapOf 0 4 = some (.row 4) ∧ (pantry.mailbox 1).box = some 4 ∧
    (pantry.mailbox 2).box = none ∧
    (pantry.mailbox 3).takers = [] ∧ (pantry.mailbox 3).box = none ∧ (pantry.mailbox 0).box = some 4 ∧ (pantry.mailbox 0).givers = [] ∧
    (pantry.mailbox 1).givers = [(5, 0, 2)] ∧ (pantry.mailbox 2).takers = [(0, 9, 2)] ∧
    mailboxOf pantry 0 0 { fw with a := .v 4, mod := 0x40 } = 0 ∧ mailboxOf pantry 0 0 { fw with a := .v 4, mod := 0x43 } = 3 :=
  ⟨⟨⟨rfl, rfl⟩, by decide⟩, by decide, rfl, rfl, rfl, by decide, by decide, by decide, by decide, by decide, by decide, by decide, by decide⟩
theorem wit_LocalLoadsAnswerBytes : Issuing one blk0 ∧ ({ mw with d := .o 2 } : MWord).d.isScalar = false ∧ mw.d = .z ∧ mw.d.isScalar = false ∧
    ({ mw with d := .s 63 } : MWord).d = .s 63 := ⟨wit_issuing, rfl, rfl, rfl, rfl⟩
theorem wit_LocalWritesStore : Alone one blk0 0 0 ∧ one.guard 0 0 0 false = false ∧ one.guard 0 0 7 false = true ∧ mw.d = .z ∧ ({ mw with d := .o 2 } : MWord).d.group 1 = [.o 2] :=
  ⟨wit_alone, by decide, by decide, rfl, by decide⟩
theorem wit_OperationsOfMemoryAndTasks :
    (∃ regs last as, joinOf one (.ldg { mw with d := .o 2, a := .s 2 }) = some (regs, last, as) ∧ as ≠ []) ∧ Issuing one blk0 ∧
    (∀ o ∈ blk0.ops, o.id ≠ one.seq) ∧
    (∃ regs last, joinOf one (.stg { mw with a := .s 2, b := .o 0, g := 0 }) = some (regs, last, [])) ∧ one.iss.checked = true :=
  ⟨⟨_, _, _, rfl, by decide⟩, wit_issuing, by decide, ⟨[], false, by decide⟩, rfl⟩
theorem wit_PublicationOfViews : Issuing two blk0 ∧ two.iss.grp ≠ [] ∧ (0 < MWord.scope { mw with kind := 1 }) ∧
    (∀ k < 3, Tbl.risingFrom none (MemSys.fresh.view 0 k) = true) := ⟨⟨rfl, rfl⟩, by decide, by decide, by decide⟩
/-- A core with one copy request of warp 0 under way. -/
def copyReq : CopyReq :=
  { id := 5, b := 0, w := 0, lanes := 1, pc := 0x10000, level := .user, issued := 0, box := false, kind := .plain,
    parts := [{ lane := 0, j := 0, src := some (.win 0 0), dst := .win 0 128, n := 4, spa := [], dpa := [], data := [1, 2, 3, 4], done := false,
                dropped := false, row := 0 }],
    state := .started, promise := none, deadline := none, again := false, plus := 0, bytes := 4, lt := false, late := false, bar := none, node := none }
theorem wit_FencesAndMaintenance : Alone one blk0 0 0 ∧ one.fenceReqs 0 0 0 true = [] ∧
    ({ one with cores := [(0, { Core.fresh with copyQ := [copyReq] })] } : State).fenceReqs 0 0 0 true ≠ [] ∧
    ({ mw with kind := 4 } : MWord).kind.getLsbD 2 = true ∧ MWord.scope { mw with kind := 2 } = 2 ∧ MWord.scope mw ≠ 2 ∧ one.iss.grp.Nodup ∧
    one.iss.grp ≠ [] ∧ MWord.scope { mw with kind := 7 } = 3 ∧ (∀ k < 3, Tbl.risingFrom none (one.ms.view 0 k) = true) :=
  ⟨wit_alone, by decide, by decide, by decide, by decide, by decide, by decide, by decide, by decide, by decide⟩
/-- A block whose lane 0 has a store untranslated. -/
def waitingBlock : Block := { soloBlock with ops := [{ faultedOp with todo := faultedOp.held, held := [] }] }
theorem wit_BlockBarriers : Alone one blk0 0 0 ∧ ({ mw with d := .s 63 } : MWord).d = .s 63 ∧ blk0.untranslated 0 0 = false ∧
    ¬ blk0.live.length ≤ (blk0.barrier 0).arrived + 1 ∧ Alone (issuing soloBlock [(0, 0)] true) soloBlock 0 0 ∧ soloBlock.untranslated 0 0 = false ∧
    soloBlock.live.length ≤ (soloBlock.barrier 0).arrived + 1 ∧
    (Alone (issuing waitingBlock [(0, 0)] true) waitingBlock 0 0 ∧ waitingBlock.untranslated 0 0 = true) ∧
    one.val 0 0 (.reg .z) = (blk0.barrier 0).gen ∧ one.val 0 0 (.reg (.o 0)) ≠ (blk0.barrier 0).gen :=
  ⟨wit_alone, rfl, rfl, by decide, ⟨⟨rfl, rfl⟩, rfl⟩, rfl, by decide, ⟨⟨⟨rfl, rfl⟩, rfl⟩, rfl⟩, by decide, by decide⟩

/-! ### Witnesses: engines -/

theorem wit_ResamplingCollects :
    (Issuing two blk0 ∧ two.iss.grp ≠ []) ∧
    (let o : MemOp := { id := 3, i := .resamp { mw with d := .v 40, a := .v 4 }, pc := 0x10000, issued := 0, todo := [], held := [],
                        parked := [{ w := 0, lane := 0, lv := .user, addr := 0, data := [0, 0, 0, 0], cmp := 0 }], arrive := none }
     let b := { blk0 with warps := [(0, { wrp with threads := [(0, thr)] })], ops := [o] }
     let k := { loadedTask with lpb := { loadedLpb with flags := 1 } }
     let s := { issuing b [] true with cyc := 64, cp := { Control.fresh with tasks := [(0, k)] } }
     Tbl.get? s.cp.tasks 0 = some k ∧ k.lpb.pop = true ∧ (s.blocksOf 0).all (fun p => p.2.core?.isSome && p.2.drain.isNone) = true ∧
     ∃ a r, s.arrivals 0 = some (a :: r) ∧ maxBy (fun (x : Arrival) => x.op.issued) (a :: r) + 64 ≤ s.cyc ∧
       ∃ neg e, (resampSums ((a :: r).map fun x => resampWeight x.weight)).2 = .fin neg 0 e) :=
  ⟨⟨⟨rfl, rfl⟩, by decide⟩, rfl, by decide, by decide, _, _, rfl, by decide, _, _, rfl⟩
theorem wit_CopyRequestsJoin : copyDest (.cpyl { mw with d := .s 1, a := .s 2, b := .o 0 }) = some (.s 1) ∧ OneWarp two blk0 0 ∧
    two.cpylRefused { mw with d := .s 1, a := .s 2, b := .o 0 } 0 = false := ⟨rfl, wit_oneWarp, by decide⟩
/-- Where the lane word has a reserved bit set. -/
def refusedBlock : Block := { blk0 with warps := [(0, { blk0.warp 0 with s := [(1, 0x800000)] })] }
theorem test_shared_bytes_count_once : unionLen [(0, 4), (2, 4), (16, 8)] 0 = 14 := by decide
theorem wit_CopyPartsFollowTheirWords : Alone one blk0 0 0 ∧ one.cpylRefused mw 0 = false ∧
    (issuing refusedBlock [(0, 0)] true).cpylRefused { mw with b := .s 1 } 0 = true ∧
    Alone (issuing refusedBlock [(0, 0)] true) refusedBlock 0 0 ∧ cpylLen (one.val 0 0 (.reg .z)) = 0 ∧ cpylLen 0x200000 ≠ 0 ∧
    (({ mw with kind := 0 } : MWord).kind >>> 2).toNat = 0 ∧ (({ mw with kind := 4 } : MWord).kind >>> 2).toNat = 1 ∧
    (({ mw with kind := 8 } : MWord).kind >>> 2).toNat = 2 ∧ (∃ q, boxOf (.bcpy { mw with a := .s 2, b := .s 3 }) = some q) ∧ OneWarp two blk0 0 :=
  ⟨wit_alone, by decide, by decide, ⟨⟨rfl, rfl⟩, rfl⟩, by decide, by decide, by decide, by decide, by decide, ⟨_, rfl⟩, wit_oneWarp⟩
/-- A block with a byte barrier of rem 4 at offset 16. -/
def barrierBlock : Block := { blk0 with win := [(16, 4)] }
theorem wit_ByteBarriersAndLines : OneWarp (issuing barrierBlock [(0, 0)] true) barrierBlock 0 ∧ barrierBlock.remOf 0 ≤ 0 ∧ 0 < barrierBlock.remOf 16 ∧
    ({ mw with d := .s 63 } : MWord).d = .s 63 := ⟨⟨⟨rfl, rfl⟩, by decide⟩, by decide, by decide, rfl⟩
theorem wit_MatrixRequestsJoin : (∃ q, matOf two 0 (.accz mw) = some q) ∧ OneWarp two blk0 0 := ⟨⟨_, rfl⟩, wit_oneWarp⟩
theorem wit_AccvqDescribes : OneWarp two blk0 0 ∧ ({ mw with d := .s 63 } : MWord).d = .s 63 := ⟨wit_oneWarp, rfl⟩

/-- A core that context 1 owns, with tile 15 claimed by block 0. -/
def owned : State := { one with cores := [(0, { Core.fresh with accown := 1, tiles := [(15, { Tile.zero with ver := 3, claim := some 0 })] })] }
/-- That core with a matrix request in its queue. -/
def matReq : MatReq := { id := 7, b := 0, w := 0, lanes := 1, issued := 0, kind := .accz 5, tile := 15, score := false, token := false, scales := [],
                         start := none, image := [] }
def ownedBusy : State := { one with cores := [(0, { Core.fresh with accown := 1, matQ := [matReq] })] }
/-- A block with a saved tile 15. -/
def savedBlock : Block := { blk0 with saved := [(15, { Tile.zero with ver := 3 })] }
/-- A shape of one element, and a block whose window holds an unfolding descriptor of 1 by 1 kernels. -/
def shape1 : Shape := { base := 0, dims := 3, extents := [1, 1, 1], strides := [1, 1, 1], fmt := 3, rights := 15, ctx := 1 }
def unfoldBlock : Block :=
  { blk0 with warps := [(0, { wrp with threads := [(0, { thr with o := [(2, 0x20000001)] })] })], win := [(4, 1), (5, 1), (6, 1), (7, 1), (8, 1), (9, 1)] }
def unfolding : State :=
  { issuing unfoldBlock [(0, 0)] true with cp := { Control.fresh with shapes := [(0, shape1)], shapeGen := [(0, 1)] } }
theorem wit_AccumulatorFileChangesHands :
    (OneWarp unfolding unfoldBlock 0 ∧ ∃ u, unfolding.unfoldOf unfolding.snap 0 (unfolding.val 0 0 (.reg (.o 2))) = .ok u) ∧
    (Alone one blk0 0 0 ∧ (one.core 0).accown = 0 ∧ (one.core 0).matQ = []) ∧
    (Alone owned blk0 0 0 ∧ (owned.core 0).accown ≠ 0 ∧ (owned.core 0).matQ = [] ∧ ((owned.core 0).tile 15).claim = some 0) ∧
    (Alone ownedBusy blk0 0 0 ∧ (ownedBusy.core 0).accown ≠ 0 ∧ (ownedBusy.core 0).matQ ≠ []) ∧
    (let s := issuing savedBlock [(0, 0)] true
     Alone s savedBlock 0 0 ∧ s.blocksOn 0 = [(0, savedBlock)] ∧ savedBlock.ctx = s.snap.ctx ∧
     Tbl.get? savedBlock.saved 15 = some { Tile.zero with ver := 3 } ∧ ((s.core 0).tile 15).claim = none ∧ Nat.testBit 65535 15 = true ∧
     Nat.testBit 0 15 = false ∧ savedBlock.trunkFault (headSector :: tileSectors 15) = none ∧ s.claimComing 0 15 0 = false) := by
  refine ⟨⟨⟨⟨rfl, rfl⟩, by decide⟩, _, rfl⟩, ⟨wit_alone, rfl, rfl⟩, ⟨⟨⟨rfl, rfl⟩, rfl⟩, by decide, rfl, rfl⟩, ⟨⟨⟨rfl, rfl⟩, rfl⟩, by decide, by decide⟩, ⟨⟨rfl, rfl⟩, rfl⟩, rfl, rfl, rfl, rfl, by decide,
    by decide, by decide, by decide⟩

/-! ### Witnesses: events -/

/-- A block that no bundle of it is being issued for. -/
def quiet (bk : Block) : State := { issuing bk [] true with iss := .none }
/-- A result of fixed latency on its way to lane 0 of row 4, due at a cycle. -/
def landing (d : Option Nat) : Pending := { op := 0, due := d, seq := 1, tgt := .row 4 0, val := 11, last := some (0, 0, 1) }
/-- A load whose value waits for its least time. -/
def arriving : MemOp := { id := 3, i := .ldg { mw with d := .o 2, a := .s 2 }, pc := 0x10000, issued := 0, todo := [], held := [], parked := [], arrive := some 5 }
def arrivingBlock : Block :=
  { blk0 with ops := [arriving], pend := [{ op := 3, due := none, seq := 1, tgt := .oreg 0 2 0, val := 11, last := none }] }
/-- A thread whose `$o0` has a parity error, with its last write in the replay queue. -/
def brokenBlock : Block :=
  { blk0 with warps := [(0, { wrp with threads := [(0, { thr with oErr := 1 })], replay := [{ word := 1, tgt := .oreg 0 0 0, pos := none, vals := [(0, 7)] }] })] }
/-- IADD `$o2`, `$o0`, `$o1` alone in a bundle, in the instruction cache at 2^16. -/
def addO : BundleBits := bundleOf 2#2 (packF 0x40#8 { fw with d := .o 2, a := .o 0, b := .o 1 })
def broken : State := { State.reset.loaded addO with blocks := [(0, brokenBlock)], ctxs := [(1, ctx0)] }
/-- A thread with one hold. -/
def holding (h : Hold) : Block := { blk0 with warps := [(0, { wrp with threads := [(0, { thr with holds := [h], wake := 3 })] })] }
theorem wit_ResultsLand :
    (∃ b, (quiet { b with pend := [landing (some 0)] }).block? 0 = some { b with pend := [landing (some 0)] } ∧ (landing (some 0)).due = some 0 ∧
      0 ≤ (quiet b).cyc ∧ (landing (some 9)).due = some 9 ∧ (quiet b).cyc < 9 ∧ (landing none).due = none) ∧
    (let q : Pending := { landing (some 0) with seq := 2, val := 12 }
     (quiet { blk0 with pend := [landing (some 0), q] }).block? 0 = some { blk0 with pend := [landing (some 0), q] } ∧ (landing (some 0)).seq < q.seq ∧
       q.tgt = .row 4 0) ∧
    ((quiet arrivingBlock).block? 0 = some arrivingBlock ∧ arriving.arrive = some 5 ∧ (quiet arrivingBlock).cyc + 1 < 5 ∧
      5 ≤ ({ quiet arrivingBlock with cyc := 4 } : State).cyc + 1) :=
  ⟨⟨blk0, rfl, rfl, by decide, rfl, by decide, rfl⟩, ⟨rfl, by decide, rfl⟩, rfl, rfl, by decide, by decide⟩
theorem wit_ResultsAndHoldsEnd :
    (let b := holding (.until 4)
     (quiet b).block? 0 = some b ∧ b.core? = some 0 ∧ (b.thread 0 0).holds = [.until 4] ∧ (quiet b).cyc < 4 ∧ 4 ≤ ({ quiet b with cyc := 4 } : State).cyc) ∧
    (let b := holding (.fencel true [5])
     (b.thread 0 0).holds = [.fencel true [5]] ∧ (∀ r ∈ ((quiet b).core 0).copyQ, r.id ∉ [5]) ∧
       ∃ r ∈ (({ quiet b with cores := [(0, { Core.fresh with copyQ := [copyReq] })] } : State).core 0).copyQ, r.id ∈ [5]) ∧
    (broken.block? 0 = some brokenBlock ∧ brokenBlock.core? = some 0 ∧ (0 ∈ brokenBlock.fragment 0 0x10000) ∧
      (∃ p, p ∈ (broken.fetch 0 brokenBlock 0 (brokenBlock.fragment 0 0x10000) 0x10000).words ∧ Reg.o 0 ∈ (usesOf brokenBlock p).map (·.r)) ∧
      brokenBlock.errAt 0 0 (.o 0) = true ∧ brokenBlock.replayOf 0 0 (.o 0) = some 7 ∧ Tbl.get? broken.ctxs brokenBlock.ctx = some ctx0) :=
  ⟨⟨rfl, rfl, rfl, by decide, by decide⟩, ⟨rfl, by decide, by decide⟩,
   rfl, rfl, by decide, ⟨⟨1, .whole, .iadd { fw with d := .o 2, a := .o 0, b := .o 1 }⟩, by decide, by decide⟩, by decide, by decide, rfl⟩
/-- A thread with a trap pending, one with a promise missed, one with a memory fault found. -/
def pageFault : Entry := { code := .page, fpc := 0x10000, faddr := 0x40000, fmask := 1 }
def pending (t : Thread) : Block := { blk0 with warps := [(0, { wrp with threads := [(0, t)] })] }
theorem wit_HandlersAreEntered :
    (let b := pending { thr with trap := some pageFault }
     (quiet b).block? 0 = some b ∧ b.core? = some 0 ∧ Tbl.get? (quiet b).ctxs b.ctx = some ctx0 ∧ (b.thread 0 0).live = true ∧
       (b.thread 0 0).level = .user ∧ (b.thread 0 0).memFault = none ∧ (b.thread 0 0).trap = some pageFault ∧ (b.thread 0 0).recorded = none ∧
       b.untranslated 0 0 = false ∧ (quiet b).reqUntranslated 0 0 0 0 = false) ∧
    (let b := pending { thr with lates := [9] }
     (b.thread 0 0).lates = [9] ∧ b.pausing = false ∧ (b.thread 0 0).trap = none ∧ (b.thread 0 0).memFault = none) ∧
    (let b := pending { thr with memFault := some (3, pageFault) }
     b.drain = none ∧ (b.thread 0 0).memFault = some (3, pageFault) ∧ pageFault.code ≠ .regue ∧ pageFault.code ≠ .memue ∧ pageFault.code ≠ .integrity) :=
  ⟨⟨rfl, rfl, rfl, rfl, rfl, rfl, rfl, rfl, rfl, rfl⟩, ⟨rfl, rfl, rfl, rfl⟩, rfl, rfl, by decide, by decide, by decide⟩
/-- A machine whose core 0 has one unpublished byte in its own view. -/
def unpub : State := { State.reset with ms := { MemSys.fresh with v := [(0, [(0x40000, { val := 7, unpub := true, node := none })])] } }
theorem wit_ViewsMoveFillAndDrop :
    (let c := viewCore .v 0
     (unpublished (unpub.ms.view c 0) (inLineOf 0x40000) = [0x40000] ∧
       Tbl.get? (unpub.ms.view c 0) 0x40000 = some { val := 7, unpub := true, node := none }) ∧ viewNum .v = 0 ∧ unpub.ms.view c 1 = []) ∧
    viewNum .v < truthLevel unpub.dev 0x40000 ∧ Tbl.risingFrom none (unpub.ms.view (viewCore .v 0) (viewNum .v)) = true ∧
    truthLevel unpub.dev 0x40000 ≤ viewNum .d ∧ unpub.ms.sectorFault unpub.dev ((List.range 32).map (0x40000 + ·)) = none ∧
    ({ unpub.ms with sectors := [(0x1000, .uncorrectable)] } : MemSys).sectorFault unpub.dev ((List.range 32).map (0x40000 + ·)) ≠ none :=
  ⟨by decide, by decide, by decide, by decide, by decide, by decide⟩

/-- Block 0 with one operation of one access by lane 0 to 2^18, whose page is in core 0's TLB, and its result in flight. -/
def opOf (i : Instr) (a : Access) : MemOp := { id := 3, i := i, pc := 0x10000, issued := 0, todo := [a], held := [], parked := [], arrive := none }
def accessing (i : Instr) (a : Access) : Block :=
  { blk0 with ops := [opOf i a], pend := [{ op := 3, due := none, seq := 1, tgt := .oreg 0 2 0, val := 0, last := some (0, 0, 1) }] }
def accessOne : Access := { w := 0, lane := 0, lv := .user, addr := 0x40000, data := [1, 2, 3, 4], cmp := 0 }
def withTlb (bk : Block) (perm : Nat) : State :=
  { quiet bk with ms := { MemSys.fresh with tlb := [(0, [{ ctx := 1, va := 0x40000, bits := 16, pa := 0x40000, perm }])] } }
def ldgO : Instr := .ldg { mw with d := .o 2, a := .s 2 }
def stgO : Instr := .stg { mw with a := .s 2, b := .o 0 }
def four : List Nat := [0x40000, 0x40001, 0x40002, 0x40003]
theorem wit_ready (i : Instr) (hi : i = ldgO ∨ i = stgO ∨ i = .amo { mw with d := .o 2, a := .s 2, b := .o 0 } ∨
    i = .acas { mw with d := .o 2, a := .s 2, b := .o 0 } ∨ i = .amos { mw with a := .s 2, b := .o 0 }) :
    Ready (withTlb (accessing i accessOne) 3) 0 0 (accessing i accessOne) (opOf i accessOne) accessOne four := by
  rcases hi with rfl | rfl | rfl | rfl | rfl <;> exact ⟨rfl, rfl, rfl, rfl, rfl, rfl, by decide, rfl, rfl⟩
/-- A counter's access. -/
def counterAccess (n : Nat) : Access := { accessOne with addr := n }
theorem wit_counters : Ready (quiet (accessing (.rctr { mw with d := .o 2 }) (counterAccess 5))) 0 0 (accessing (.rctr { mw with d := .o 2 }) (counterAccess 5))
      (opOf (.rctr { mw with d := .o 2 }) (counterAccess 5)) (counterAccess 5) [] ∧
    (quiet (accessing (.rctr { mw with d := .o 2 }) (counterAccess 5))).ms.nodeOf (.counter 1 5) = none ∧
    (accessing (.rctr { mw with d := .o 2 }) (counterAccess 64)).inLine 3 = true ∧ 63 < (counterAccess 64).addr :=
  ⟨⟨rfl, rfl, rfl, rfl, rfl, rfl, by decide, rfl, rfl⟩, rfl, rfl, by decide⟩
/-- The views of core 0's path where `unpub` has its byte, for the statements of scopes. -/
theorem wit_PlainPath : PlainPath unpub.ms 0 four ∧ four.Nodup ∧ four.length = 4 := by
  refine ⟨⟨fun k => ?_, fun a ha k x h _ => ?_⟩, by decide, rfl⟩
  · match k with
    | 0 => decide
    | 1 => rfl
    | _ + 2 => rfl
  · match k with
    | 0 => fin_cases ha <;> (simp [unpub, MemSys.view, Tbl.get?, Tbl.getD] at h; try simp [← h])
    | 1 => simp [unpub, MemSys.view, Tbl.get?, Tbl.getD, MemSys.fresh] at h
    | _ + 2 => simp [unpub, MemSys.view, Tbl.get?, MemSys.fresh] at h
/-- Clauses of the performing statements: LDG, STG and the atomics as words; the levels at which a load's bytes lie, of which the last
needs another device (its Cellar's size is open: log 3). -/
theorem wit_AccessesPerform :
    (∃ p, (accessing ldgO accessOne).pend = [p] ∧ p.op = 3 ∧ p.due = none ∧ p.forThread 0 0 = true) ∧
    (({ mw with d := .o 2, a := .s 2 } : MWord).d.isScalar = false) ∧ MWord.scope { mw with d := .o 2, a := .s 2 } = 0 ∧
    ((withTlb (accessing ldgO accessOne) 3).tlbHit 0 1 0x40000).isSome = true ∧
    (∀ i ∈ four, (∀ j < 2, Tbl.get? ((withTlb (accessing ldgO accessOne) 3).ms.view 0 j) i = none) ∧ ¬ 2 < truthLevel 0 i ∧ homeOf i = 0) ∧
    (let m : MemSys := { MemSys.fresh with v := [(0, four.map fun a => (a, { val := 7, unpub := false, node := none }))] }
     ∀ i ∈ four, (Tbl.get? (m.view 0 0) i).isSome = true) ∧
    (let m : MemSys := { MemSys.fresh with g := [(0, four.map fun a => (a, { val := 7, unpub := false, node := none }))] }
     ∀ i ∈ four, Tbl.get? (m.view 0 0) i = none ∧ (Tbl.get? (m.view 0 1) i).isSome = true) ∧
    (2 < truthLevel 0 (2 ^ 44) ∧ homeOf (2 ^ 44) ≠ 0) :=
  ⟨⟨_, rfl, rfl, rfl, by decide⟩, rfl, by decide, by decide, by decide, by decide, by decide, by decide⟩
theorem wit_TranslationsDecide :
    (let b := { accessing stgO accessOne with ops := (accessing stgO accessOne).ops ++ [{ opOf stgO accessOne with id := 4 }] }
     (quiet b).block? 0 = some b ∧ b.inLine 4 = false) ∧
    (let b := accessing stgO accessOne
     let s := withTlb b 1
     s.block? 0 = some b ∧ b.core? = some 0 ∧ b.inLine 3 = true ∧ s.xlat 0 1 stgO accessOne = .error .access ∧ s.walkBad 0 1 0x40000 = none ∧
       (b.thread 0 0).memFault = none ∧ (b.thread 0 0).recorded = none) ∧
    (let b := accessing stgO accessOne
     let s := { quiet b with ms := { MemSys.fresh with sectors := [(0, .uncorrectable)] } }
     s.walkBad 0 1 0x40000 = some .memue ∧ Tbl.get? s.ctxs b.ctx = some ctx0) ∧
    (let p : Part := { lane := 0, j := 0, src := some (.win 0 0), dst := .glob 0x40000, n := 4, spa := [], dpa := [], data := [], done := false, dropped := false, row := 0 }
     let r := { copyReq with state := .untranslated, parts := [p] }
     let s := { withTlb blk0 3 with cores := [(0, { Core.fresh with copyQ := [r] })] }
     (s.core 0).copyQ = [r] ∧ s.block? r.b = some blk0 ∧ r.owed = false ∧ r.kind = .plain ∧ blk0.opsBefore r = [] ∧
       (accessing stgO accessOne).opsBefore r ≠ [] ∧ ∃ q, s.xlatPart 0 1 r p = .ok q) :=
  ⟨⟨rfl, by decide⟩, ⟨rfl, rfl, by decide, by decide, by decide, rfl, rfl⟩, ⟨by decide +kernel, rfl⟩, rfl, rfl, rfl, rfl, by decide, by decide, _, rfl⟩
/-- A request that waits to start, from window to window. -/
def queuedReq : CopyReq :=
  { copyReq with state := .queued, parts := [{ lane := 0, j := 0, src := some (.win 0 0), dst := .win 0 128, n := 4, spa := [], dpa := [], data := [],
                                               done := false, dropped := false, row := 0 }] }
def withCopy (bk : Block) (r : CopyReq) : State := { quiet bk with cores := [(0, { Core.fresh with copyQ := [r] })] }
theorem wit_CopiesStart :
    ((withCopy blk0 queuedReq).core 0).copyQ = [queuedReq] ∧ queuedReq.state = .queued ∧ queuedReq.kind = .plain ∧ queuedReq.owed = false ∧
    (∃ p, queuedReq.parts = [p] ∧ p.dropped = false ∧ p.src = some (.win queuedReq.b 0) ∧ p.dst = .win 0 128 ∧ p.spa = [] ∧ p.dpa = [] ∧ 0 < p.n) ∧
    (withCopy blk0 queuedReq).block? queuedReq.b = some blk0 ∧ (withCopy blk0 queuedReq).ctxEnding blk0.ctx = false ∧ blk0.opsBefore queuedReq = [] :=
  ⟨rfl, rfl, rfl, rfl, ⟨_, rfl, rfl, rfl, rfl, rfl, rfl, by decide⟩, rfl, rfl, rfl⟩
theorem wit_CopySteps :
    (let b := { blk0 with lines := [(1, [5])] }
     ((withCopy b copyReq).core 0).copyQ = [copyReq] ∧ copyReq.state = .started ∧ copyReq.bar = none ∧ (withCopy b copyReq).block? 0 = some b ∧ b.place = .core 0 ∧
       b.drain = none ∧ (∃ p, copyReq.parts = [p] ∧ p.done = false ∧ p.dropped = false ∧ p.dst = .win 0 128 ∧ p.data.length = p.n ∧ p.dpa = [] ∧
         p.got < 2 ^ p.n ∧ (∀ i < p.n, Nat.testBit 15 i = true) ∧ ¬ ∀ i < p.n, p.got.testBit i = true ∨ Nat.testBit 5 i = true) ∧
       1 ∈ linesOf 128 4 ∧ Tbl.get? b.lines 1 = some [copyReq.id]) ∧
    (let r := { copyReq with lt := true, promise := some 0, deadline := some 0 }
     ((withCopy blk0 r).core 0).copyQ = [r] ∧ (blk0.liveLanes r.w).Nodup ∧ r.late = false ∧ 0 ≤ (withCopy blk0 r).cyc ∧ blk0.pausing = false ∧
       ∀ p ∈ r.parts, ∀ d o z, p.dst = .win d o → (withCopy blk0 r).block? d = some z → z.pausing = false) :=
  ⟨⟨rfl, rfl, rfl, rfl, rfl, rfl, ⟨_, rfl, rfl, rfl, rfl, rfl, rfl, by decide, by decide, by decide⟩, by decide, by decide⟩, rfl, by decide, rfl, by decide, rfl,
   fun p hp d o z hd hz => by
     simp only [copyReq, List.mem_singleton] at hp; subst hp; cases hd; cases hz; rfl⟩
/-- A core with matrix requests, started or not. -/
def withMat (bk : Block) (q : List MatReq) : State := { quiet bk with cores := [(0, { Core.fresh with matQ := q, accown := 1 })] }
theorem wit_MatrixSteps :
    (let e := { matReq with id := 6, kind := .accst 2 0 0, tile := 2, start := some 0 }
     (withMat blk0 [matReq]).findMat 0 7 = some (matReq, []) ∧ (withMat blk0 [e, matReq]).findMat 0 7 = some (matReq, [e]) ∧ matReq.start = none ∧
      ((withMat blk0 [matReq]).core 0).matBusy ≤ (withMat blk0 [matReq]).cyc ∧ (withMat blk0 [matReq]).block? matReq.b = some blk0 ∧
      (∀ p ∈ matReq.winReads, ∀ n ∈ linesOf p.1 p.2, Tbl.get? blk0.lines n = none) ∧ e.blocks matReq = false ∧ e.start.isSome = true) ∧
    (let r := { matReq with start := some 0 }
     (withMat blk0 [r]).findMat 0 7 = some (r, []) ∧ (withMat blk0 [r]).cyc < 0 + (withMat blk0 [r]).lat 0 r.duration ∧
       0 + (withMat blk0 [r]).lat 0 r.duration ≤ ({ withMat blk0 [r] with cyc := 10000 } : State).cyc) ∧
    (let r := { matReq with kind := .accst 2 0 0, start := some 0, lanes := maskOf [0] }
     let b := { blk0 with pend := [{ op := 7, due := none, seq := 1, tgt := .oreg 0 2 0, val := 0, last := none }] }
     (withMat b [r]).findMat 0 7 = some (r, []) ∧ ∃ p, b.pend = [p] ∧ p.op = r.id ∧ p.due = none ∧ p.forThread r.w 0 = true) :=
  ⟨⟨rfl, rfl, rfl, by decide, rfl, by decide, by decide, rfl⟩, ⟨rfl, by decide, by decide⟩, rfl, _, rfl, rfl, rfl, by decide⟩
/-- A block that stands at a request on tile 3 of core 0, which block 9 claims: gone, in the Trunk, or on its way back. -/
def wanting (z : Tbl Block) : State :=
  let s := ready (bundleOf 3#2 ((encodeWord (.accz { mw with imm := 3 })).getD 0)) .user
  { s with cores := [(0, { Core.fresh with accown := 1, tiles := [(3, { Tile.zero with claim := some 9 })] })], blocks := s.blocks ++ z }
theorem wit_TilesChangeHands :
    (∀ z ∈ [[], [(9, { blk0 with place := .trunk false 0 0 0 none })], [(9, { blk0 with place := .moving 0 5 0, restoring := true })]],
      (wanting z).block? 0 = some (readyBlock .user) ∧ ((wanting z).core 0).accown = BitVec.ofNat 32 (readyBlock .user).ctx ∧
      (((wanting z).core 0).tile 3).claim = some 9 ∧ (wanting z).wantsTile 0 0 (readyBlock .user) 3 = true) ∧ (wanting []).block? 9 = none ∧
    (let s := { quiet savedBlock with cores := [(0, { Core.fresh with accown := 1 })] }
     s.block? 0 = some savedBlock ∧ (s.core 0).accown = BitVec.ofNat 32 savedBlock.ctx ∧ s.blocksOn 0 = [(0, savedBlock)] ∧ (s.core 0).accown ≠ 0 ∧
       Tbl.get? savedBlock.saved 15 = some { Tile.zero with ver := 3 } ∧ ((s.core 0).tile 15).claim = none ∧ s.claimComing 0 15 0 = false) :=
  ⟨by decide, rfl, rfl, rfl, rfl, by decide, rfl, rfl, by decide⟩

/-! ### Witnesses: promises, the task engine's words, resampling -/

/-- A block whose lane 0 copies 4 bytes: window offset 128 in its lane word, a global address in `$s2`. -/
def copying : Block := { soloBlock with warps := [(0, { wrp with threads := [(0, thr)], s := [(1, 0x200080), (2, 0x40000)] })] }
def copies (q : List CopyReq) : State :=
  { issuing copying [(0, 0)] true with
    ms := { MemSys.fresh with tlb := [(0, [{ ctx := 1, va := 0x40000, bits := 16, pa := 0x40000, perm := 7 }])] },
    cores := [(0, { Core.fresh with copyQ := q })] }
theorem wit_PromisesFollowTheTable :
    (let x := { mw with a := .s 2, b := .s 1 }
     Alone (copies []) copying 0 0 ∧ (copies []).cpylRefused x 0 = false ∧ ((copies []).core 0).copyQ = [] ∧ cpylLen ((copies []).val 0 0 (.reg x.b)) = 4 ∧
       (copies []).translate 0 1 .user .load (globalAddr ((copies []).addr 0 0 x.a) 0 x.imm) = .ok 0x40000 ∧ homeOf 0x40000 = (copies []).dev) ∧
    (let y := { mw with b := .s 1, kind := 8 }
     (copies [copyReq]).cpylRefused y 0 = false ∧ ((copies [copyReq]).core 0).copyQ = [copyReq] ∧ copyReq.state = .started ∧ copyReq.kind = .plain ∧
       (∃ p, copyReq.parts = [p] ∧ p.dst = .win 0 128 ∧ 128 < 128 + p.n) ∧ cpylOff ((copies []).val 0 0 (.reg y.b)) = 128 ∧ (y.kind >>> 2).toNat = 2) :=
  ⟨⟨⟨⟨rfl, rfl⟩, rfl⟩, by decide, rfl, by decide, by decide, by decide⟩, by decide, rfl, rfl, rfl, ⟨_, rfl, rfl, by decide⟩, by decide, by decide⟩
/-- One request of each kind for the times. -/
theorem wit_MatrixTimes : (∀ v, ({ matReq with kind := .accz v } : MatReq).kind = .accz v) ∧
    ({ matReq with lanes := 0x00FF00FF } : MatReq).lanes = 0x00FF00FF ∧ ({ matReq with kind := .mma 0 true 0 0 0 none } : MatReq).kind = .mma 0 true 0 0 0 none :=
  ⟨fun _ => rfl, rfl, rfl⟩

/-- A future at slot 0 of generation 1, its handle, and a machine with one operation on it. -/
def future (st : FutSt) (target : DWord) : Future := { value := 5, target, st, ctx := 1, waiters := [] }
def larder (f : List Future) (i : Instr) (addr : Nat) : State :=
  { quiet (accessing i { accessOne with addr }) with cp := { Control.fresh with tasks := [(0, loadedTask)], futures := f.zipIdx.map fun p => (p.2, p.1), futGen := [(0, 1)] } }
theorem wit_atMaster (f : List Future) (i : Instr) (addr : Nat)
    (h : f = [] ∨ (∃ st t, f = [future st t])) (hi : i = .ftnew mw ∨ i = .ftful mw ∨ i = .ftget mw ∨ i = .ftwait mw ∨ i = .ftdrop mw ∨ i = .spawn mw) :
    AtMaster (larder f i addr) 0 0 (accessing i { accessOne with addr }) (opOf i { accessOne with addr }) { accessOne with addr } := by
  rcases h with rfl | ⟨st, t, rfl⟩ <;> rcases hi with rfl | rfl | rfl | rfl | rfl | rfl <;>
    exact ⟨rfl, rfl, rfl, rfl, rfl, ⟨rfl, rfl⟩, by simp [larder, quiet, issuing, Control.fresh]⟩
/-- A Larder without a free entry. -/
theorem wit_fullTable (f : Future) (m : Nat) :
    leastBelow m (fun i => decide (0 ≤ i) && (Tbl.get? ((List.range m).map fun k => (k, f)) i).isNone) = none := by
  have hm : ∀ (n : Nat) (l : List Nat), n ∈ l → (Tbl.get? (l.map fun k => (k, f)) n).isNone = false := by
    intro n l
    induction l with
    | nil => intro h; cases h
    | cons a r ih =>
      intro h
      simp only [List.map_cons, Tbl.get?]
      split
      · rfl
      · next hne => exact ih ((List.mem_cons.mp h).resolve_left fun e => hne e.symm)
  refine List.find?_eq_none.mpr fun n hn => ?_
  simp [hm n _ hn]
theorem wit_fullLarder : freeSlot ((List.range 65536).map fun k => (k, future .empty 0)) = none := by
  unfold freeSlot
  exact wit_fullTable _ 65536
theorem wit_larder (st : FutSt) (t : DWord) : (larder [future st t] (.ftget mw) 0).cp.waited = [] ∧ handleKind (mkHandle 1 0 1) = 1 ∧ handleSlot (mkHandle 1 0 1) = 0 ∧
    (larder [future st t] (.ftget mw) 0).look 1 (mkHandle 1 0 1) = some { st := st, value := 5, ver := none } ∧
    (larder [future st t] (.ftget mw) 0).waitersOf (mkHandle 1 0 1) = [] ∧ (larder [future st t] (.ftget mw) 0).cp.named (mkHandle 1 0 1) = false :=
  ⟨rfl, by decide, by decide, by cases st <;> rfl, by cases st <;> rfl, by cases st <;> rfl⟩
theorem wit_Futures :
    (7#64 ≤ (future .empty 7).value + BitVec.ofNat 64 (ofBytes accessOne.data) ∧ (future .empty 0x05060709).value + BitVec.ofNat 64 (ofBytes accessOne.data) < 0x05060709#64) ∧
    ({ mw with kind := 1 } : MWord).kind.getLsbD 0 = true ∧
    (larder [] (.ftget mw) 0).look 1 (mkHandle 1 0 1) = none ∧ freeSlot (larder [] (.ftnew mw) 0).cp.futures = some 0 ∧
    (let s := { larder [] (.ftdrop mw) 0 with cp := { Control.fresh with tasks := [(0, { loadedTask with st := .done })], taskGen := [(0, 1)] } }
     (∃ v, s.look 1 (mkHandle 3 0 1) = some v ∧ v.ver = none ∧ v.st ≠ .empty) ∧ (Tbl.get? s.cp.tasks 0).any Task.unsettled = false ∧
       handleKind (mkHandle 3 0 1) = 3) ∧
    (let s := { larder [future .empty 0] (.ftdrop mw) 0 with cp := { Control.fresh with futures := [(0, { future .empty 0 with waiters := [(0, 0, 1)] })], futGen := [(0, 1)] } }
     s.waitersOf (mkHandle 1 0 1) ≠ [] ∧ (s.look 1 (mkHandle 1 0 1)).isSome = true) :=
  ⟨by decide, by decide, by decide +kernel, by decide +kernel, ⟨⟨_, rfl, by decide, by decide⟩, by decide, by decide⟩, by decide, by decide⟩
/-- A thread of block 0 asks for a chunk into `$s4` and `$s5`, with a task's intervals. -/
def asking (is : List Interval) (pop : Bool) : State × Block :=
  let i : Instr := .tnext { mw with d := .s 4 }
  let p := fun (n : Nat) => ({ op := 3, due := none, seq := 1, tgt := .scalar 0 n, val := 0, last := none } : Pending)
  let b := { accessing i accessOne with pend := [p 4, p 5] }
  ({ quiet b with cp := { Control.fresh with tasks := [(0, { loadedTask with lpb := { loadedLpb with grain := 2, flags := if pop then 1 else 0 }, intervals := is })] } }, b)
theorem wit_ChunksAreHandedOut :
    (∀ is ∈ [[], [{ b := 0, e := 10, blk := 0 }], [{ b := 0, e := 10, blk := 1 }]], ∀ pop, ∃ k, (asking is pop).1.block? 0 = some (asking is pop).2 ∧
      AtMaster (asking is pop).1 0 0 (asking is pop).2 (opOf (.tnext { mw with d := .s 4 }) accessOne) accessOne ∧
      Tbl.get? (asking is pop).1.cp.tasks 0 = some k ∧ 1 ≤ k.lpb.grain ∧ k.lpb.pop = pop ∧ k.unclaimed = [] ∧ k.intervals = is ∧ k.lpb.grain < 10 - 0 ∧
      ∃ p q, (asking is pop).2.pend = [p, q] ∧ p.tgt = .scalar 0 4 ∧ q.tgt = .scalar 0 5) := by
  intro is his pop
  simp only [List.mem_cons, List.not_mem_nil, or_false] at his
  rcases his with rfl | rfl | rfl <;> cases pop <;>
    exact ⟨_, rfl, ⟨rfl, rfl, rfl, rfl, rfl, ⟨rfl, rfl⟩, by simp [asking, Control.fresh]⟩, rfl, by decide, by decide, rfl, rfl, by decide, _, _, rfl, rfl, rfl⟩
/-- A thread spawns a task of the parameter block at 0x40100, or of the zeros at 0x40200. -/
def spawning (addr : Nat) : State :=
  { larder [] (.spawn mw) addr with
    ms := { MemSys.fresh with v := [(0, (List.range 256).map fun i => (addr + i,
                                { val := Tbl.getD [(0x40110, 1), (0x40118, 1), (0x40120, 1), (0x40122, 1), (0x40129, 0x10)] (addr + i) 0,
                                  unpub := false, node := none }))],
                              tlb := [(0, [{ ctx := 1, va := 0x40000, bits := 16, pa := 0x40000, perm := 7 }])] } }
/-- What the thread reads there, after the publication, satisfies f. -/
def spawnReads (addr : Nat) (f : State → List Byte → Bool) : Prop :=
  ∃ s1 bs, ({ spawning addr with ms := (spawning addr).ms.publish 0 0 2 } : State).readPath 0 1 0 .user addr 256 = .ok (s1, bs) ∧ f s1 bs = true
theorem wit_spawnReads (addr : Nat) (f : State → List Byte → Bool)
    (h : (match ({ spawning addr with ms := (spawning addr).ms.publish 0 0 2 } : State).readPath 0 1 0 .user addr 256 with
      | .ok (s1, bs) => f s1 bs
      | .error _ => false) = true) : spawnReads addr f := by
  unfold spawnReads
  split at h
  · next s1 bs e => exact ⟨s1, bs, e, h⟩
  · cases h
theorem wit_TasksAreSpawned :
    ((spawning 0x40101).cp.waited = [] ∧ 0x40101 % 256 ≠ 0 ∧ (spawning 0x40100).ctxEnding 1 = false) ∧
    spawnReads 0x40100 (fun s1 bs => let p := Lpb.ofBytes bs
      p.bad false false (s1.liveHandle 1) == none && p.schedset == 0 && freeSlot s1.cp.tasks == some 1 && decide (s1.cp = (spawning 0x40100).cp) &&
        p.deps.all (· == 0) && decide (p.lo < p.hi)) ∧
    spawnReads 0x40200 (fun s1 bs => (Lpb.ofBytes bs).bad false false (s1.liveHandle 1) == some 0x18) :=
  ⟨⟨rfl, by decide, rfl⟩, wit_spawnReads _ _ (by decide +kernel), wit_spawnReads _ _ (by decide +kernel)⟩

/-- A population of one thread, arrived at RESAMP with weight 1, with n particles asked for. -/
def resampOp (n : BitVec 20) : MemOp :=
  { id := 3, i := .resamp { mw with d := .v 4, a := .v 4, imm := n }, pc := 0x10000, issued := 0, todo := [], held := [],
    parked := [{ w := 0, lane := 0, lv := .user, addr := 0, data := [0, 0, 0x80, 0x3F], cmp := 0 }], arrive := none }
def population (n : BitVec 20) : State :=
  { quiet { soloBlock with ops := [resampOp n] } with
    cyc := 64, cp := { Control.fresh with tasks := [(0, { loadedTask with lpb := { loadedLpb with flags := 1, capacity := 32 } })] } }
theorem wit_Collects (n : BitVec 20) (hn : n = 1 ∨ n = 2) : ∃ k a c, Collects (population n) 0 k [a] { mw with d := .v 4, a := .v 4, imm := n } [c] ∧ 1 ≤ c ∧ c = n.toNat ∧
    (∃ pb, (population n).block? a.b = some pb ∧ pb.mapOf 0 4 = some (.row 4) ∧ pb.mappers 4 = [0] ∧ (∀ p ∈ pb.pend, p.op = 3 → False)) ∧
    (((population n).endResamp 0).vacant 0 k a.b a.w [])[0]? = some (0, 0, 1) := by
  have w : ∀ neg e, ¬ ((resampSums [resampWeight 0x3F800000]).2 = .fin neg 0 e) := by
    have h : (resampSums [resampWeight 0x3F800000]).2 = .fin false (2 ^ 52) (-52) := by decide +kernel
    intro neg e h2; rw [h] at h2; cases h2
  rcases hn with rfl | rfl
  · exact ⟨_, _, _, ⟨rfl, rfl, rfl, rfl, by decide, by decide, rfl, by decide, by decide, fun y hy => by cases hy; rfl, w, by decide +kernel⟩, by decide, rfl,
      ⟨_, rfl, rfl, by decide, by decide⟩, by decide +kernel⟩
  · exact ⟨_, _, _, ⟨rfl, rfl, rfl, rfl, by decide, by decide, rfl, by decide, by decide, fun y hy => by cases hy; rfl, w, by decide +kernel⟩, by decide, rfl,
      ⟨_, rfl, rfl, by decide, by decide⟩, by decide +kernel⟩

/-! ### Witnesses: tasks, recovery, relocation -/

/-- A block with no thread left, and a task with one block still to be admitted. -/
def emptyBlock : Block := { blk0 with warps := [(0, { wrp with threads := [(0, { thr with live := false })] })] }
def readyTask : Task := { loadedTask with st := .ready, admitted := 0, nextBlk := 0, lastAdmit := none }
def bindAll : BindRec := { ctx := 1, cls := 1, valid := true, mask := 0xFFFFFFFF, bmax := 16 }
def admitting : State :=
  { State.reset with ctxs := [(1, ctx0)], cp := { Control.fresh with tasks := [(0, readyTask)] },
                     mp := { Mgmt.fresh with active := { SlotBank.default with binds := [(0, bindAll)] } } }
theorem wit_BlocksStartAndFinish :
    (Tbl.get? admitting.cp.tasks 0 = some readyTask ∧ admitting.ctxEnding readyTask.ctx = false ∧ admitting.cp.master ≠ none ∧ readyTask.lpb.pop = false ∧
      readyTask.st = .ready ∧ readyTask.lpb.lo < readyTask.lpb.hi ∧ admitting.staggerOk readyTask = true ∧
      admitting.placeFor 1 0 0 readyTask.lpb (fun _ => true) = some 0) ∧
    (let k := { loadedTask with intervals := [{ b := 0, e := 1, blk := 0 }] }
     let s := { quiet emptyBlock with cp := { Control.fresh with tasks := [(0, k)] } }
     s.block? 0 = some emptyBlock ∧ emptyBlock.core? = some 0 ∧ s.isComplete 0 emptyBlock 0 = true ∧ Tbl.get? s.cp.tasks 0 = some k ∧
       k.st = .running ∧ k.completed + 1 = k.admitted ∧ k.unclaimed = [] ∧ (∀ i ∈ k.intervals, i.blk = emptyBlock.blk)) :=
  ⟨⟨rfl, rfl, by decide, by decide, rfl, by decide, by decide, by decide⟩, rfl, rfl, by decide, rfl, rfl, rfl, rfl, by decide⟩
/-- A node under verified commit that is done, and one that runs. -/
def doneNode (dropped : Bool) : Task := { loadedTask with node := true, committed := false, st := .done, dropped }
def nodeState (k : Task) (bs : Tbl Block) (due : List (Nat × Bool)) : State :=
  { State.reset with blocks := bs, ctxs := [(1, ctx0)], cp := { Control.fresh with tasks := [(0, k)] }, mp := { Mgmt.fresh with rollDue := due } }
theorem wit_NodesAndContextsEnd :
    (Tbl.get? (nodeState (doneNode false) [] []).cp.tasks 0 = some (doneNode false) ∧ (nodeState (doneNode false) [] []).mayCommit 0 (doneNode false) = true ∧
      (doneNode false).dropped = false ∧ (nodeState (doneNode true) [] []).mayCommit 0 (doneNode true) = true ∧ (doneNode true).dropped = true) ∧
    (let s := nodeState { loadedTask with node := true, committed := false } [(0, blk0)] [(0, false)]
     Tbl.risingFrom none s.blocks = true ∧ s.mp.rollDue = [(0, false)] ∧ (s.nodeTag 0).isSome = true ∧ 0 ∈ s.cp.affected [0] ∧ s.block? 0 = some blk0 ∧ s.cp.master ≠ none ∧
       ({ s with ms := { s.ms with staged := [{ node := some 0, loc := .byte 7, prior := .num 5 }] } } : State).ms.staged =
         [{ node := some 0, loc := .byte 7, prior := .num 5 }]) ∧
    (let s := { State.reset with ctxs := [(1, { ctx0 with ending := some (4, 0, 0) })] }
     Tbl.get? s.ctxs 1 = some { ctx0 with ending := some (4, 0, 0) } ∧ ∀ p ∈ s.blocks, p.2.ctx ≠ 1) :=
  ⟨⟨rfl, by decide, rfl, by decide, rfl⟩, ⟨by decide, rfl, by decide, by decide, rfl, by decide, rfl⟩, rfl, by decide⟩
set_option maxRecDepth 8000 in
theorem wit_BlocksRelocate :
    (let b := { blk0 with drain := some (.toCore 0 64) }
     (quiet b).block? 0 = some b ∧ b.core? = some 0 ∧ (quiet b).drained 0 b 0 = true ∧ (quiet b).coreOk 64 = true ∧ (quiet b).tileClash 0 64 = false ∧
       ({ quiet b with mp := { Mgmt.fresh with caps := [(64, { CoreCap.fresh with present := false })] } } : State).landing 0 b 0 64 = none) ∧
    (let b := { blk0 with drain := some (.toTrunk 0 true) }
     b.core? = some 0 ∧ (quiet b).drained 0 b 0 = true) ∧
    (let b := { blk0 with place := .moving 3 5 0, rows := [(4, row4)], warps := [(0, { wrp with map := [(4, .row 4)] })] }
     (quiet b).block? 0 = some b ∧ (quiet b).cyc < 5 ∧ 5 ≤ ({ quiet b with cyc := 5 } : State).cyc ∧ b.held = [4] ∧
       (quiet b).freeRow 3 (4 % 4) = some 0 ∧ b.mapOf 0 4 = some (.row 4)) ∧
    (let b := { blk0 with place := .trunk true 0 0 3 (some 2) }
     let s := { quiet b with cyc := 4 }
     s.block? 0 = some b ∧ s.ctxEnding b.ctx = false ∧ s.outgoing 2 = false ∧ 3 < s.cyc ∧ b.isPop = false ∧ s.coreOk 2 = true ∧ (quiet b).cyc ≤ 3) ∧
    (let s := { quiet blk0 with cyc := 32 * Config.slotCycles, cores := [(0, { Core.fresh with failed := true })],
                                mp := { Mgmt.fresh with active := { SlotBank.default with binds := [(0, bindAll)] } } }
     s.block? 0 = some blk0 ∧ s.inMaintenance = true ∧ s.movable 0 blk0 = true ∧ s.mustLeave blk0 0 = true ∧
       s.placeFor 1 0 0 blk0.lpb (fun e => e != 0 && !s.tileClash 0 e) = some 8) :=
  ⟨⟨rfl, rfl, by decide, by decide, by decide, by decide⟩, ⟨rfl, by decide⟩, ⟨rfl, by decide, by decide, by decide, by decide, by decide⟩, ⟨rfl, by decide, by decide, by decide, by decide, by decide, by decide⟩,
   rfl, by decide, by decide, by decide, by decide⟩

/-! ### Witnesses: the management plane -/

/-- The machine at the start of slot 32 of a frame, the maintenance slot of the default table. -/
def maintaining (m : Mgmt) (bs : Tbl Block) (cs : Tbl Core) : State :=
  { State.reset with cyc := 32 * Config.slotCycles, mp := m, blocks := bs, cores := cs }
theorem wit_SlotTableAndFirmware :
    (({ State.reset with slotSeen := some 0 } : State).slotSeen = some ({ State.reset with slotSeen := some 0 } : State).slotNumber ∧
      ({ State.reset with cyc := 1 } : State).cyc % Config.slotCycles ≠ 0) ∧
    (State.reset.slotSeen ≠ some State.reset.slotNumber ∧ State.reset.cyc % Config.slotCycles = 0 ∧ State.reset.mp.fenceDue = [] ∧ State.reset.mp.commit = none ∧
      State.reset.mp.stage < 3) ∧
    (let m := { Mgmt.fresh with commit := some 3, clusters := [(0, { Cluster.fresh with peakReg := 7 })] }
     let s := maintaining m [] []
     s.slotSeen ≠ some s.slotNumber ∧ Tbl.get? s.mp.clusters 0 = some { Cluster.fresh with peakReg := 7 } ∧ s.mp.commit = some 3 ∧
       3 ≠ s.cyc ∧ s.cyc % Config.slotCycles = 0) ∧
    (1 ∈ State.reset.mp.shadow.kinds.set 0 2 ∧ 1 ∈ State.reset.mp.shadow.kinds ∧ 1 ∉ State.reset.mp.shadow.kinds.set 32 0) :=
  ⟨⟨rfl, by decide⟩, ⟨by decide, rfl, rfl, rfl, by decide⟩, ⟨by decide, rfl, rfl, by decide, by decide⟩, by decide, by decide, by decide⟩
theorem wit_ScansAndFences :
    (State.reset.cyc % Config.scanPitch = 0 ∧ ({ State.reset with cyc := 1 } : State).cyc % Config.scanPitch ≠ 0 ∧ Tbl.get? State.reset.scanSeen 0 ≠ some 0 ∧ 0 ∈ State.reset.mp.dies ∧ (State.reset.cap 0).present = true) ∧
    (let s := { State.reset with cores := [(0, { Core.fresh with scan := some 0 })] }
     (s.core 0).scan = some 0 ∧ s.cyc + 1 < 0 + Config.scanPitch ∧ 0 + Config.scanPitch ≤ ({ s with cyc := Config.scanPitch } : State).cyc + 1 ∧
       ∀ v, ∃ k : Core, ({ s with cores := [(0, { Core.fresh with scan := some 0, verdict := some v })] } : State).cores = [(0, k)] ∧ k.verdict = some v) ∧
    (let s := maintaining Mgmt.fresh [] [(0, { Core.fresh with failed := true })]
     (s.core 0).failed = true ∧ (s.cap 0).present = true ∧ s.inMaintenance = true ∧ s.emptied 0 = true ∧ 0 < (s.cluster (clusterOf 0)).spares) ∧
    (let s := maintaining { Mgmt.fresh with clusters := [(0, { Cluster.fresh with spares := 0 })] } [] [(0, { Core.fresh with failed := true })]
     (s.core 0).failed = true ∧ s.inMaintenance = true ∧ s.emptied 0 = true ∧ (s.cluster (clusterOf 0)).spares = 0) ∧
    (0 ∈ State.reset.mp.dies ∧ State.reset.cp.master = some 0 ∧ 7 ∉ State.reset.mp.dies) ∧
    (let s := { State.reset with cp := { Control.fresh with master := none } }
     s.cp.master = none ∧ minBy id s.mp.dies = some 0) :=
  ⟨⟨by decide, by decide, by decide, by decide, rfl⟩, ⟨rfl, by decide, by decide, fun v => ⟨_, rfl, rfl⟩⟩, ⟨rfl, rfl, rfl, by decide, by decide⟩, ⟨rfl, rfl, by decide, rfl⟩,
   ⟨by decide, rfl, by decide⟩, rfl, by decide⟩
/-- Core 0 with some of its capacity lost. -/
def capped (y : CoreCap) : Mgmt := { Mgmt.fresh with caps := [(0, y)] }
/-- A cluster of its own for tests of gating. -/
def clustered (x : Cluster) : Mgmt := { Mgmt.fresh with clusters := [(0, x)] }
theorem wit_UnitsAndClusters :
    (4 ∉ (State.reset.cap 0).dead ∧ 4 ∉ (State.reset.cap 0).failing ∧ (State.reset.cap 0).spareCol = true ∧ (State.reset.cap 0).badCol = false ∧
      ((maintaining (capped { CoreCap.fresh with spareCol := false }) [] []).cap 0).spareCol = false) ∧
    (let s := maintaining (capped { CoreCap.fresh with failing := [4] }) [] []
     4 ∈ (s.cap 0).failing ∧ s.rowHeld 0 4 = false ∧ 0 < (s.cap 0).spareRows) ∧
    (let s := maintaining (capped { CoreCap.fresh with failing := [4], spareRows := 0 }) [] []
     4 ∈ (s.cap 0).failing ∧ s.rowHeld 0 4 = false ∧ (s.cap 0).spareRows = 0) ∧
    (let s := maintaining (capped { CoreCap.fresh with badCol := true }) [] []
     (s.cap 0).badCol = true ∧ s.inMaintenance = true ∧ State.reset.inMaintenance = false) ∧
    (let s := maintaining (capped { CoreCap.fresh with broken := true }) [] []
     (s.cap 0).broken = true ∧ (s.cap 0).present = true ∧ s.inMaintenance = true ∧ s.emptied 0 = true ∧ 0 < (s.cluster (clusterOf 0)).spares) ∧
    (let s := maintaining (clustered { Cluster.fresh with broken := true }) [] []
     (s.cluster 0).broken = true ∧ s.inMaintenance = true ∧ (List.range 8).all (fun i => s.emptied (8 * 0 + i)) = true ∧
       0 < Tbl.getD s.mp.spareCl (0 / 8) 0) ∧
    (let s := maintaining (clustered { Cluster.fresh with idle := 4 }) [] []
     s.inMaintenance = true ∧ (s.cluster 0).present = true ∧ (s.cluster 0).gated = false ∧ (s.cluster 0).broken = false ∧
       s.mp.gateSlots ≤ (s.cluster 0).idle ∧ s.allScanned 0 = true ∧
       (List.range 8).all (fun i => s.emptied (8 * 0 + i)) = true) ∧
    (let b := { blk0 with place := .trunk false 0 0 3 none }
     let s := { maintaining { clustered { Cluster.fresh with gated := true } with
       active := { SlotBank.default with binds := [(0, { bindAll with mask := 1 })] } } [(0, b)] [] with ctxs := [(1, ctx0)] }
     s.inMaintenance = true ∧ (s.cluster 0).gated = true ∧ s.needs 0 = true) ∧
    (let s := maintaining Mgmt.fresh [] []
     s.inMaintenance = true ∧ 2 ≤ 2 ∧ (s.cluster 0).present = true ∧ (List.range 8).all (fun i => s.emptied (8 * 0 + i)) = true) ∧
    (Tbl.get? ({ State.reset with ctxs := [(1, { ctx0 with lease := .active })] } : State).ctxs 1 = some { ctx0 with lease := .active }) :=
  ⟨⟨by decide, by decide, rfl, rfl, rfl⟩, ⟨by decide, rfl, by decide⟩, ⟨by decide, rfl, rfl⟩, ⟨rfl, rfl, rfl⟩, ⟨rfl, rfl, rfl, by decide, by decide⟩,
   ⟨rfl, rfl, by decide, by decide⟩, ⟨rfl, rfl, rfl, rfl, by decide, by decide, by decide⟩, ⟨rfl, rfl, by decide⟩, ⟨rfl, by decide, rfl, by decide⟩, rfl⟩
/-- The machine at a stage of boot. -/
def staged (n : Nat) : State := { State.reset with mp := { Mgmt.fresh with stage := n } }
/-- Whether the image is good is open (log 11), so that hypothesis is shown for its two constants at values that meet it. -/
theorem wit_BootAndTheOutside :
    ((staged 0).mp.stage = 0 ∧ (staged 1).mp.stage = 1 ∧ (staged 2).mp.stage = 2 ∧ (staged 3).mp.stage = 3 ∧ (staged 4).mp.stage = 4 ∧
      ((staged 4).cluster 31).present = true ∧ (staged 5).mp.stage ≠ 0 ∧ (staged 5).mp.stage ≠ 3 ∧
      (staged 2).mp.hbmFailed = false ∧ ({ (staged 2) with mp := { (staged 2).mp with hbmFailed := true } } : State).mp.hbmFailed = true) ∧
    (∀ v ∈ State.reset.ms.staged, v.loc ≠ .byte 7) ∧
    ((∀ i < 4, State.reset.physOk (0x100 + i) = true) ∧ State.reset.ms.sectorFault State.reset.dev ((List.range 4).map (0x100 + ·)) = none ∧
      (∀ i < [1#8, 2#8].length, State.reset.physOk (0x100 + i) = true ∧ State.reset.ms.nodeOf (.byte (0x100 + i)) = none) ∧
      State.reset.ms.sectors = [] ∧ State.reset.ms.lost = []) ∧
    ((quiet blk0).block? 0 = some blk0 ∧ blk0.core? = some 0 ∧ homeOf 0x100 = (quiet blk0).dev ∧ devOffset 0x100 < Config.hbmBytes) :=
  ⟨⟨rfl, rfl, rfl, rfl, rfl, rfl, by decide, by decide, rfl, rfl⟩, by decide, ⟨by decide, by decide, by decide, rfl, rfl⟩, rfl, rfl, rfl, by decide⟩

/-- A page table at 0x1000 that maps the first 2^30 bytes to themselves, and an LPB at 0x100; zeros stand at 0x200. -/
def mapped : State :=
  { State.reset with
    ms := { MemSys.fresh with truth := [(0x118, 1), (0x120, 1), (0x122, 1), (0x129, 0x10), (0x1000, 1), (0x1001, 0x20), (0x2000, 1), (0x2001, 0x30),
                                        (0x3000, 0x1F)] },
    ctxs := [(1, { ctx0 with root := 0x1000 })], mp := { Mgmt.fresh with stage := 5 } }
/-- A sound message of the host. -/
def hostMsg : MsgHdr := { sender := .host, tag := 9, bad := false }
/-- The bytes of the LPB at 0x100. -/
def lpbBytes : List Byte := (List.range 256).map fun i => if i = 0x18 ∨ i = 0x20 ∨ i = 0x22 then 1 else if i = 0x29 then 0x10 else 0
/-- A shape of one dimension. -/
def oneDim : ShapeFields := { base := 0x1000, extents := [4, 0, 0, 0], strides := [1, 0, 0, 0], fmt := 0, dims := 1, rights := 1, reserved := 0 }
set_option maxRecDepth 8000 in
theorem wit_LaunchReads :
    mapped.hostRead 1 (0x100#64).toNat 256 = .ok lpbBytes ∧ (Lpb.ofBytes lpbBytes).bad true false (mapped.liveHandle 1) = none ∧
    (Lpb.ofBytes lpbBytes).schedset = 0 ∧ mapped.hostRead 1 (0x200#64).toNat 256 = .ok (List.replicate 256 0) ∧
    (Lpb.ofBytes (List.replicate 256 0)).bad true false (mapped.liveHandle 1) = some 0x18 := by decide +kernel
set_option maxRecDepth 8000 in
theorem wit_MessagesActOrAreRefused :
    (messageOf mapped (.ctxend hostMsg 4) = some (hostMsg, false, true) ∧ refusalOf mapped hostMsg true false true = some 6) ∧
    (refusalOf mapped hostMsg true true true = none ∧ freeSlot mapped.ctxs 1 = some 2) ∧
    (Tbl.get? mapped.ctxs 1 = some { ctx0 with root := 0x1000 } ∧ hostMsg.bad = false ∧ hostMsg.sender = .host ∧ mapped.mp.stage = 5 ∧
      ({ ctx0 with root := 0x1000 } : Ctx).ending = none ∧ ({ ctx0 with root := 0x1000 } : Ctx).lease = .none ∧ mapped.mp.ctxSeen = false ∧
      ({ mapped with mp := { mapped.mp with ctxSeen := true } } : State).mp.ctxSeen = true) ∧
    (1 ≤ oneDim.dims.toNat ∧ oneDim.dims.toNat ≤ 4 ∧ oneDim.reserved = 0 ∧ freeSlot mapped.cp.shapes = some 0) ∧
    (let sh : Shape := { base := 0, dims := 1, extents := [], strides := [], fmt := 0, rights := 1, ctx := 1 }
     let s := { mapped with cp := { Control.fresh with shapes := [(0, sh)], shapeGen := [(0, 1)] } }
     s.cp.shape? 1 (mkHandle 1 0 1) = some sh ∨ s.cp.shape? 1 (mkHandle 2 0 1) = some sh) ∧
    ((0x100#64).toNat % 256 = 0 ∧ (0x200#64).toNat % 256 = 0 ∧ freeSlot mapped.cp.tasks = some 0) :=
  ⟨⟨rfl, rfl⟩, ⟨rfl, by decide +kernel⟩, ⟨rfl, rfl, rfl, rfl, rfl, rfl, rfl, rfl⟩, ⟨by decide, by decide, rfl, by decide +kernel⟩, by decide, by decide, by decide, by decide +kernel⟩

/-! ### The manual's figures -/

/-- R165: codes of MK8 and their values in units of 2^-10. -/
theorem test_mk8_values : mk8Widen 0x07 = .fin false 4 (-10) ∧ mk8Widen 0x0C = .fin false 8 (-10) ∧ mk8Widen 0x20 = .fin false 2048 (-10) ∧
    mk8Widen 0x7F = .fin false 2016 (-10) ∧ mk8Widen 0x80 = .nan := by decide
/-- R170's table: 3.1, 0.99, 1.5 × 2^-8, −768, 2^-11 and 2,000 to MK8. -/
theorem test_mk8_rounds : mk8Convert .rn false (f32.val 0x40466666) = 0x24 ∧ mk8Convert .rn false (f32.val 0x3F7D70A4) = 0x5F ∧
    mk8Convert .rn false (.fin false 3 (-9)) = 0x0C ∧ mk8Convert .rn false (.fin true 768 0) = 0x82 ∧
    mk8Convert .rn false (.fin false 1 (-11)) = 0 ∧ mk8Convert .rn false (.fin false 2000 0) = 0x01 ∧
    mk8Convert .rn true (.fin false 2000 0) = 0x80 := by decide +kernel
/-- R167: FP32 65,519 to FP16 is 65,504; 65,520 overflows. -/
theorem test_f16_overflow : f16.convert .rn false (.fin false 65519 0) = 0x7BFF ∧ f16.convert .rn false (.fin false 65520 0) = 0x7C00 := by
  decide +kernel
/-- R170: 1.00390625 to BF16 with `.rs`, just below and at the draw t = 2^31; with `.rn` it is a tie. -/
theorem test_bf16_stochastic : bf16.convert (.rs 0x7FFFFFFF) false (f32.val 0x3F808000) = 0x3F81 ∧
    bf16.convert (.rs 0x80000000) false (f32.val 0x3F808000) = 0x3F80 ∧ bf16.convert .rn false (f32.val 0x3F808000) = 0x3F80 := by decide +kernel
/-- R189's list: which of two keys is better, equal scores by the lower index. -/
theorem test_topk_keys : topkBetter false 0xFF80FFFF 0x402E0007 = false ∧ topkBetter false 0x40400002 0x402E0003 = true ∧
    topkBetter false 0x402E0007 0x402E0003 = false := by decide
/-- R300: the copies of 64 particles by the weights of spec/19: 4, 1, 0, 0 in block 0 and 3, 0, 0, 0 in block 1. -/
theorem test_resample_counts :
    (resampCounts ((List.range 64).map fun i => resampWeight (if i = 2 then 0xC0000000 else if i < 32 then (if i % 4 = 0 then 0x40800000 else
      if i % 4 = 1 then 0x3F800000 else 0) else if i % 4 = 0 then 0x40400000 else 0)) 0x80000000 64).take 34 =
    [4, 1, 0, 0, 4, 1, 0, 0, 4, 1, 0, 0, 4, 1, 0, 0, 4, 1, 0, 0, 4, 1, 0, 0, 4, 1, 0, 0, 4, 1, 0, 0, 3, 0] := by decide +kernel

/-! ### One step -/

/-- A table word is what the decoder reads from a bundle whose W1 it is. -/
theorem test_table_word : decodeTableWord 64 0x9620_10BE_0000_000B = some (.movi { iw with d := .o 0, imm := 11 }) := by decide
/-- What is in flight for `$o0` of lane 0 and where lane 0 goes on, after a step. -/
def flying (o : Host.Outcome State Fault Refusal) : Option (List (DWord × Option Nat) × DWord) :=
  match o with
  | .next t => (t.block? 0).map fun b => ((b.pend.filter fun p => p.tgt == .oreg 0 0 0).map (fun p => (p.val, p.due)), (b.thread 0 0).pc)
  | .fault _ => none
  | .refused _ => none
/-- A word placed for the next fetch runs: MOVI `$o0`, 11 leaves its result in flight for two cycles, and the thread goes on after the bundle. -/
theorem test_step_movi : flying (step (State.reset.withFetchWord 64 0x9620_10BE_0000_000B)) = some ([(11, some 2)], 0x10020) := by decide +kernel
/-- BRA by two bundles from its own address (R136). -/
theorem test_step_bra : flying (step (State.reset.withFetchWord 64 0x8061_70BE_0000_0002)) = some ([], 0x10040) := by decide +kernel
/-- TRAP enters the handler of code 0x1A, 64 bytes a code from the vector; the user thread becomes supervisor (R144, R145). -/
theorem test_step_trap :
    (match step { ready (bundleOf 1#2 ((encodeWord (.trap { iw with imm := 5 })).getD 0)) .user with cyc := 3 } with
      | .next t => (t.block? 0).map fun b => ((b.thread 0 0).pc, (b.thread 0 0).level)
      | .fault _ => none
      | .refused _ => none) = some (0x20680, .supervisor) := by decide +kernel
/-- A tick counts the cycle. -/
theorem test_step_tick : (match step { State.reset with agenda := [.tick] } with
    | .next t => t.cyc
    | .fault _ => 0
    | .refused _ => 0) = 1 := by decide +kernel

/-! ### Witnesses: the forms of transfers, rejoin registers, local accesses and holds -/

theorem wit_CallForms : one.iss.half = .whole ∧ one.guard 0 0 0 false = false ∧ ({ iw with d := .o 6 } : IWord).d = .o 6 ∧
    ({ fw with d := .s 63 } : FWord).d = .s 63 := ⟨rfl, by decide, rfl, rfl⟩
/-- A warp whose two lanes wait at rejoin register 0, which a JSET has just loaded with a mask. -/
def rejoining (m : Word) : Block :=
  { blk0 with warps := [(0, { wrp with threads := [(0, { thr with holds := [.jwait 0] }), (1, thr)], j := [(0, { mask := m, arrived := 1 })], jset := [0] })] }
theorem wit_JsetForms :
    ((Tbl.keys (blk0.warp 0).threads).Nodup ∧ ∀ n ∈ Tbl.keys (blk0.warp 0).threads, n < 32) ∧
    (∀ m : Word, (quiet (rejoining m)).block? 0 = some (rejoining m) ∧ (rejoining m).place = .core 0 ∧ (rejoining m).pend = [] ∧
      Tbl.keys (rejoining m).warps = [0] ∧ ((rejoining m).warp 0).jset = [0]) ∧
    (∀ m : Word, ((rejoining m).warp 0).waiting 0 = 1) ∧
    (∀ n < 32, (((rejoining 1).warp 0).rejoin 0).mask.getLsbD n = true →
      (((rejoining 1).warp 0).rejoin 0).arrived.getLsbD n = true ∨ ((rejoining 1).thread 0 n).live = false) ∧
    ((((rejoining 3).warp 0).rejoin 0).mask.getLsbD 1 = true ∧
      (((rejoining 3).warp 0).rejoin 0).arrived.getLsbD 1 = false ∧ ((rejoining 3).thread 0 1).live = true) :=
  ⟨by decide, fun _ => ⟨rfl, rfl, rfl, rfl, rfl⟩, fun _ => rfl, by decide, rfl, rfl, rfl⟩
theorem wit_LocalAccessesLag :
    (OneWarp (issuing waitingBlock [(0, 0)] true) waitingBlock 0 ∧ Lags (issuing waitingBlock [(0, 0)] true) waitingBlock 0) ∧
    OneWarp two blk0 0 ∧ ¬ Lags two blk0 0 :=
  ⟨⟨⟨⟨rfl, rfl⟩, by decide⟩, 0, by decide, rfl⟩, wit_oneWarp, by intro h; obtain ⟨l, hl, h⟩ := h; simp [Block.untranslated, blk0, loadedBlock] at h⟩
theorem wit_CoreCycles :
    ((quiet blk0).moreCycles 0 = false ∧ 0 ≤ (quiet blk0).coreNow 0 ∧ (quiet blk0).coreNow 0 < 9) ∧
    (let r := { matReq with start := some 0 }
     (withMat blk0 [matReq]).coreNow 0 = 0 ∧ ((withMat blk0 [matReq]).core 0).matBusy ≤ (withMat blk0 [matReq]).coreNow 0 ∧
       (withMat blk0 [r]).coreNow 0 < 0 + r.duration ∧ 0 + r.duration ≤ ({ withMat blk0 [r] with cyc := 10000 } : State).coreNow 0) ∧
    (let b := holding (.fencel true [5])
     ({ b with carried := [copyReq] } : Block).carried.any (fun r => r.id == 5) = true) := ⟨by decide, by decide, by decide⟩
/-- The charged context of a move is open (log 21), so it is there by that very number. -/
theorem wit_MovesPublish : let s := { unpub with ctxs := [(Config.evictor (lineOf 0x40000) 0, ctx0)] }
    Tbl.get? s.ctxs (Config.evictor (lineOf 0x40000) s.cyc) = some ctx0 ∧
    ∃ a y, lineOf a = lineOf 0x40000 ∧ Tbl.get? (s.ms.view 0 0) a = some y ∧ y.unpub = true :=
  ⟨by simp [Tbl.get?, unpub, State.reset], 0x40000, _, rfl, rfl, rfl⟩
theorem wit_FaultFound : let b := accessing stgO accessOne
    (b.thread 0 0).live = true ∧ (b.thread 0 0).memFault = none ∧ (b.thread 0 0).recorded = none ∧ (opOf stgO accessOne).missed = false :=
  ⟨rfl, rfl, rfl, rfl⟩
/-- Forms of an unmapped destination: a lane result, CVTEF's second, a local load and atomic, and a global load. -/
theorem wit_UnmappedForms :
    (∃ lat f, laneOf one (.qswp { fw with d := .v 8, a := .o 0 }) = some (.v 8, lat, f)) ∧
    ({ fw with c := .v 8 } : FWord).d = .z ∧ ({ mw with d := .v 8 } : MWord).d.isScalar = false ∧
    ({ mw with d := .v 8 } : MWord).d.group ({ mw with d := .v 8 } : MWord).regs = [.v 8] ∧ ({ mw with d := .v 8 } : MWord).d.group 1 = [.v 8] ∧
    one.guard 0 0 7 false = true ∧ scalarResult (.ldg { mw with d := .v 8, a := .s 2 }) = false ∧
    ∃ last as, joinOf one (.ldg { mw with d := .v 8, a := .s 2 }) = some ([.v 8], last, as) ∧ as ≠ [] :=
  ⟨⟨_, _, rfl⟩, rfl, rfl, by decide, by decide, by decide, rfl, _, _, rfl, by decide⟩

/-! ### Witnesses: relocation, spares and soft errors -/

theorem wit_RelocationForms :
    (let b := { blk0 with drain := some (.toTrunk 0 true) }
     (quiet b).ctxEnding b.ctx = false ∧ ({ quiet b with ctxs := [(1, { ctx0 with ending := some (4, 0, 0) })] } : State).ctxEnding b.ctx = true) ∧
    (let b := { blk0 with place := .moving 3 0 0, carried := [copyReq] }
     (quiet b).block? 0 = some b ∧ b.drain = none ∧ ∀ p ∈ (quiet b).blocksOn 3, p.2.carried = []) := by decide
/-- A share of 1,024 rows for each of a block's banks. -/
def wide : Block := { blk0 with lpb := { loadedLpb with warps := 16 } }
theorem wit_RowForms :
    (let s := maintaining Mgmt.fresh [(0, blk0)] []
     s.rowHeld 0 4 = true ∧ s.rowHeld 0 8 = false ∧ (s.cap 0).failing.length < (s.cap 0).spareRows) ∧
    (let s := maintaining (capped { CoreCap.fresh with failing := [4] }) [] []
     (s.cap 0).failing.length ≤ (s.cap 0).spareRows) ∧
    (let y := { CoreCap.fresh with failing := [4], spareRows := 0 }
     (maintaining (capped y) [] []).reserved 0 + 1 + (y.dead.filter (· % 4 == 4 % 4)).length ≤ 1024 ∧
       1024 < (maintaining (capped y) [(0, wide)] []).reserved 0 + 1 + (y.dead.filter (· % 4 == 4 % 4)).length ∧
       (maintaining (capped y) [(0, { wide with rows := [] })] []).rowHeld 0 4 = false) := by decide
theorem wit_ClassForms : ∀ v, let s := maintaining (clustered { Cluster.fresh with admitted := v }) [(0, blk0)] []
    s.inMaintenance = true ∧ (s.cluster 0).present = true ∧ (List.range 8).all (fun i => s.emptied (8 * 0 + i)) = false ∧ (s.cluster 0).admitted = v := by
  decide
theorem wit_SoftErrorForms :
    eccPlace (.count 0 4) = some (0, .count 4) ∧ (quiet blk0).block? 0 = some blk0 ∧ blk0.trunkHolds 1024 = true ∧ blk0.trunkHolds 1025 = false ∧
    (let v : Staged := { node := some 0, loc := .byte 7, prior := .num 5 }
     let l := List.replicate 3 v
     (l.filter (·.isByte))[2]? = some v) ∧
    (∀ v ∈ State.reset.ms.staged, v.bad = none) ∧
    State.reset.ms.committedFault State.reset.dev ((List.range 4).map (0x100 + ·)) = none := by decide

/-! ### Witnesses: words that wait for their bundle, and what a group reads -/

/-- A block whose window's first line is empty. -/
def emptyLine : Block := { blk0 with lines := [(0, [5])] }
theorem wit_LocalWordsWait :
    (Issuing (issuing waitingBlock [(0, 0)] true) waitingBlock ∧ Lag (issuing waitingBlock [(0, 0)] true) waitingBlock) ∧
    (¬ Lag one blk0 ∧ ∀ p ∈ one.iss.grp, blk0.lineEmpty (one.localOff mw p.1 p.2) = false) ∧ emptyLine.lineEmpty 0 = true ∧
    ∀ i, i = .stl mw ∨ i = .amol { mw with d := .o 2 } ∨ i = .ldl { mw with d := .o 2 } →
      (quiet (accessing i { accessOne with addr := 0 })).block? 0 = some (accessing i { accessOne with addr := 0 }) ∧
      (accessing i { accessOne with addr := 0 }).core? = some 0 ∧
      (accessing i { accessOne with addr := 0 }).ops = [opOf i { accessOne with addr := 0 }] ∧
      ∃ p, (accessing i { accessOne with addr := 0 }).pend = [p] ∧ p.op = 3 ∧ p.due = none ∧ p.forThread 0 0 = true :=
  ⟨⟨⟨rfl, rfl⟩, (0, 0), by decide, rfl⟩, ⟨by rintro ⟨p, hp, h⟩; simp [Block.untranslated, blk0, loadedBlock] at h, by decide⟩, by decide, fun i hi => by
    rcases hi with rfl | rfl | rfl <;> exact ⟨rfl, rfl, rfl, _, rfl, rfl, rfl, rfl⟩⟩
theorem wit_LastArrivalsRelease :
    (let b := rejoining 1
     let s := issuing b [(0, 0)] true
     Alone s b 0 0 ∧ s.snap.warp 0 = b.warp 0 ∧ (b.thread 0 0).live = true ∧ ((b.warp 0).rejoin 0).mask.getLsbD 0 = true ∧
       ∀ m < 32, m ≠ 0 → ((b.warp 0).rejoin 0).mask.getLsbD m = true → ((b.warp 0).rejoin 0).arrived.getLsbD m = true ∨ (b.thread 0 m).live = false) ∧
    (let b := { blk0 with warps := [(0, { wrp with threads := [(0, thr), (1, { thr with holds := [.jwait 0] })], j := [(0, { mask := 3, arrived := 2 })] })] }
     (∀ m < 32, m ≠ 0 → ((b.warp 0).rejoin 0).mask.getLsbD m = true → ((b.warp 0).rejoin 0).arrived.getLsbD m = true ∨ (b.thread 0 m).live = false) ∧
       (b.thread 0 1).atJwait 0 = true) :=
  ⟨⟨⟨⟨rfl, rfl⟩, rfl⟩, rfl, rfl, rfl, by decide⟩, by decide, rfl⟩
theorem wit_ChosenGroups :
    Chosen (({ starved with agenda := [] } : State).turnCore 0) 0 0 0x10000 ((({ starved with agenda := [] } : State).turnCore 0).block? 0 |>.getD blk0) [(0, 0)] :=
  .inr ⟨0, by decide +kernel, by decide +kernel⟩
theorem wit_CoreHolds : let b := holding (.untilCore 4)
    (b.thread 0 0).holds = [.untilCore 4] ∧ (quiet b).coreNow 0 < 4 ∧ 4 ≤ ({ quiet b with cyc := 20 } : State).coreNow 0 := by decide
theorem wit_RegistersAreRepaired : ∃ p ∈ (broken.fetch 0 brokenBlock 0 (brokenBlock.fragment 0 0x10000) 0x10000).words,
    (0, Reg.o 0) ∈ wordsRead brokenBlock p 0 0 :=
  ⟨⟨1, .whole, .iadd { fw with d := .o 2, a := .o 0, b := .o 1 }⟩, by decide, by decide⟩
theorem wit_TilesOfTheOwner : one.iss.regs.accown = 0 ∧ ({ owned with iss := { owned.iss with regs := { owned.iss.regs with accown := 1 } } } : State).iss.regs.accown ≠ 0 :=
  ⟨rfl, by decide⟩

/-! ### Witnesses: what copies and matrix requests compute -/

/-- A box of two by one by one by one elements at origin 1, and a shape of two elements of FP32. -/
def box2 : Box := { o := [1, 0, 0, 0], e := [2, 1, 1, 1], loff := 64, p1 := 8, p2 := 8, p3 := 8, bar := 0xFFFFFFFF, aux0 := 128, aux1 := 0, aux2 := 0 }
def shape2 : Shape := { base := 0x1000, dims := 1, extents := [2], strides := [1], fmt := 0, rights := 15, ctx := 1 }
theorem wit_BoxElementsHaveTheirPlaces :
    0 < box2.ek 0 ∧ 1 < box2.ek 0 ∧ 0 < box2.ek 1 ∧ 0 < box2.ek 2 ∧ 0 < box2.ek 3 ∧ shape2.dims ≤ 4 ∧
    (0 ≤ box2.ok 0 + (0 : Int) ∧ box2.ok 0 + (0 : Int) < shape2.extents.getD 0 0) ∧ ¬ box2.ok 0 + (1 : Int) < shape2.extents.getD 0 0 ∧
    ({ box2 with e := [32, 1, 1, 1] } : Box).ek 0 % 32 = 0 := by decide
/-- The boxes' parts by hand: element 0 at 0x1004 to window byte 64, element 1 outside; element 1 of a copy between windows. -/
theorem test_boxParts : (boxParts .ld box2 (some shape2) 7 []).map (fun p => (p.src, p.dst, p.n)) =
      [(some (.glob 0x1004), .win 7 64, 4), (none, .win 7 68, 4)] ∧
    (boxParts .bb box2 none 7 [9]).map (fun p => (p.src, p.dst)) = [(some (.win 7 128), .win 9 64), (some (.win 7 132), .win 9 68)] := by decide
/-- An MMA of E4M3 at half depth by quarter 0 alone, on a window that holds two rows of A and two columns of B. -/
def mma1 : MatReq := { matReq with lanes := 0xFF, kind := .mma 1 false 0 1024 0 none }
def unfold1 : Unfold := { handle := 0, shape := shape1, aoff := 0, kw := 1, kh := 1, sw := 1, sh := 1, dw := 1, dh := 1, pw := 1, ph := 0, pad := 0, scale := 0,
                          scaleShape := none, soff := 0, ow := 3, oh := 1 }
theorem wit_TilesAreComputed : Tbl.risingFrom none [(0, 0x3F800000#32)] = true ∧ (∀ m < 8, mma1.lanes.getLsbD (8 * 0 + m) = true) ∧
    (∃ m < 8, mma1.lanes.getLsbD (8 * 1 + m) = false) ∧ unfold1.shape.fmt = [9, 3, 4, 6, 1, 2].getD 1 0 ∧ unfold1.scale = 0 ∧
    (∀ u : Unfold, u = { unfold1 with scale := 9, scaleShape := some { shape1 with fmt := 5 }, pw := 0 } → u.scale ≠ 0 ∧
      0 < u.ow * u.oh ∧ 0 < u.shape.extents.getD 0 0 * u.kw * u.kh ∧ 0 < blk0.lpb.window) := by
  refine ⟨by decide, by decide, by decide, by decide, by decide, ?_⟩
  rintro u rfl
  decide
/-- Row 0 of A holds 0.5 at k = 0, column 0 of B holds 1.5 there, and a scale of 2 for the row: 1 + 2 · 0.75. -/
theorem test_mma : elem (({ mma1 with scales := [(0, (0x7F80#32, 0x7F7F#32))] } : MatReq).imageOf { blk0 with win := [(0, 0x30), (1024, 0x3C)] }
    [(0, 0x3F800000#32)]) 0 0 = 0x40200000 := by decide +kernel

/-! ### Witnesses: what nodes make and free -/

/-- The one thread of block 0 at the master, its task a node that may still be rolled back. -/
def nodeLarder (f : List Future) (i : Instr) (addr : Nat) : State :=
  { larder f i addr with cp := { (larder f i addr).cp with tasks := [(0, { loadedTask with node := true, committed := false })] } }
theorem wit_NodesMakeAndFree :
    ((larder [] (.ftnew mw) 0).mayRoll 0 = none ∧ (larder [] (.ftnew mw) 0).nodeTag 0 = none ∧ ∀ p ∈ (larder [] (.ftnew mw) 0).cp.futures, p.2.kept = false) ∧
    (nodeLarder [future .full 0] (.ftdrop mw) 0).mayRoll 0 = some 0 ∧
    (let s := nodeLarder [{ future .full 0 with freedBy := some 0 }] (.ftget mw) 0
     s.look 1 (mkHandle 1 0 1) = none ∧ s.freedBy 1 (mkHandle 1 0 1) = some 0 ∧ s.mayStep 0 (some 0) = true ∧ s.mayStep 1 (some 0) = false) := by decide
theorem wit_SpawnsWithoutKept : (∀ q ∈ (spawning 0x40100).cp.tasks, q.2.kept = false) ∧
    spawnReads 0x40100 (fun s1 bs => (Lpb.ofBytes bs).deps.all fun h => s1.freedBy 1 h == none) := ⟨by decide, wit_spawnReads _ _ (by decide +kernel)⟩
theorem wit_RecordsOfNodes :
    ({ readyTask with kept := true } : Task).kept = true ∧ readyTask.kept = false ∧ (doneNode true).droppedBy = none ∧
    (let s := nodeState { loadedTask with node := true, committed := false } [(0, blk0)] [(0, false)]
     ({ s with cp := { s.cp with futures := [(0, { future .full 0 with maker := some 0 }), (1, { future .full 0 with freedBy := some 0 })] } } : State).cp.affected [0] =
       s.cp.affected [0]) := ⟨rfl, rfl, rfl, rfl⟩
set_option maxRecDepth 8000 in
theorem wit_AbsentCores :
    (let b := { blk0 with drain := some (.toCore 0 64) }
     let s := { quiet b with mp := { Mgmt.fresh with caps := [(0, { CoreCap.fresh with present := false }), (64, { CoreCap.fresh with present := false })] } }
     s.block? 0 = some b ∧ s.coreOk 64 = false ∧ (s.cap 0).present = false ∧ s.placeFor 1 0 0 b.lpb (fun d => d != 0 && !s.tileClash 0 d) = none) ∧
    (let b := { blk0 with place := .moving 3 0 0, warps := [(0, { wrp with threads := [(0, { thr with holds := [.untilCore 9] })] })] }
     let s := { quiet b with mp := { Mgmt.fresh with caps := [(3, { CoreCap.fresh with present := false })] } }
     s.ctxEnding b.ctx = false ∧ (s.cap 3).present = false ∧ s.placeFor 1 0 0 b.lpb (fun d => !s.tileClash 0 d) = none ∧
       ((quiet b).cap 3).present = true ∧ .untilCore 9 ∈ (b.thread 0 0).holds) := by decide

end Sys2Proof.Tests
end

section
/-! PROOF. The truth as a memory: reads after writes, and the canonical form as one form for each content (R2, R17, R21). -/

namespace Sys2Proof.Machine

open Sys2Proof

/-! ### Reads after writes -/

/-- A byte written is read back. -/
@[simp] theorem Memory.read_write_self (m : List Host.Cell) (a : Nat) (v : Byte) :
    Memory.read (Memory.write m a v) a = v := Tbl.getD_putD_self m a Memory.default v

/-- A write of a byte leaves every other byte alone. -/
@[simp] theorem Memory.read_write_ne (m : List Host.Cell) (a x : Nat) (v : Byte) (h : x ≠ a) :
    Memory.read (Memory.write m a v) x = Memory.read m x := Tbl.getD_putD_ne m a x Memory.default v Memory.default h

/-- A write of bytes leaves every byte outside of its range alone. -/
theorem Memory.read_writes_outside (m : List Host.Cell) (a : Nat) (bs : List Byte) (x : Nat)
    (h : x < a ∨ a + bs.length ≤ x) : Memory.read (Memory.writes m a bs) x = Memory.read m x := by
  induction bs generalizing m a with
  | nil => rfl
  | cons b r ih =>
    rw [List.length_cons] at h
    calc Memory.read (Memory.writes m a (b :: r)) x
        = Memory.read (Memory.write m a b) x := ih _ _ (by omega)
      _ = Memory.read m x := Memory.read_write_ne m a x b (by omega)

@[simp] theorem Memory.reads_zero (m : List Host.Cell) (a : Nat) : Memory.reads m a 0 = [] := rfl

/-- The first byte read, and the bytes read above it. -/
theorem Memory.reads_succ (m : List Host.Cell) (a n : Nat) :
    Memory.reads m a (n + 1) = Memory.read m a :: Memory.reads m (a + 1) n := by
  simp [Memory.reads, List.range_succ_eq_map, Nat.add_right_comm, Nat.add_assoc]

/-- Bytes written are read back: the later writes lie above the first byte and leave it alone. -/
theorem Memory.reads_writes_self (m : List Host.Cell) (a : Nat) (bs : List Byte) :
    Memory.reads (Memory.writes m a bs) a bs.length = bs := by
  induction bs generalizing m a with
  | nil => rfl
  | cons b r ih =>
    have first : Memory.read (Memory.writes m a (b :: r)) a = b :=
      (Memory.read_writes_outside _ (a + 1) r a (by omega)).trans (Memory.read_write_self m a b)
    rw [List.length_cons, Memory.reads_succ, first]
    exact congrArg (b :: ·) (ih _ _)

/-! ### Tables with rising keys are determined by their entries -/

@[simp] theorem Tbl.get_cons_self {α : Type} (k : Nat) (v : α) (r : Tbl α) : Tbl.get? ((k, v) :: r) k = some v :=
  if_pos rfl

theorem Tbl.get_cons_ne {α : Type} (k i : Nat) (v : α) (r : Tbl α) (h : i ≠ k) :
    Tbl.get? ((k, v) :: r) i = Tbl.get? r i := if_neg h.symm

/-- A table whose keys rise from above j has no entry at or below j. -/
theorem Tbl.get_eq_none_of_rising {α : Type} (t : Tbl α) (j i : Nat) (ht : Tbl.risingFrom (some j) t = true)
    (h : i ≤ j) : Tbl.get? t i = none := by
  induction t generalizing j with
  | nil => rfl
  | cons p r ih =>
    obtain ⟨k, v⟩ := p
    obtain ⟨above, rest⟩ := (Tbl.rising_cons _ k v r).mp ht
    have hk : j < k := above j rfl
    rw [Tbl.get_cons_ne k i v r (by omega)]
    exact ih k rest (by omega)

/-- The least key of a table that rises has an entry, so no equal table begins above it. -/
theorem Tbl.head_le_of_get_eq {α : Type} (k l : Nat) (v w : α) (r q : Tbl α) (hq : Tbl.risingFrom (some l) q = true)
    (h : Tbl.get? ((k, v) :: r) k = Tbl.get? ((l, w) :: q) k) : l ≤ k := by
  by_contra hlt
  rw [Tbl.get_cons_self, Tbl.get_cons_ne l k w q (by omega), Tbl.get_eq_none_of_rising q l k hq (by omega)] at h
  cases h

/-- Two tables with rising keys and the same entry at every key are equal: their first keys are the same, and so are
their first entries; below the first key neither rest has an entry, above it each rest is the table. -/
theorem Tbl.eq_of_get_eq {α : Type} (t u : Tbl α) (lo lo' : Option Nat) (ht : Tbl.risingFrom lo t = true)
    (hu : Tbl.risingFrom lo' u = true) (h : ∀ i, Tbl.get? t i = Tbl.get? u i) : t = u := by
  induction t generalizing u lo lo' with
  | nil =>
    cases u with
    | nil => rfl
    | cons p q =>
      have := h p.1
      rw [Tbl.get_cons_self] at this
      cases this
  | cons p r ih =>
    obtain ⟨k, v⟩ := p
    cases u with
    | nil =>
      have := h k
      rw [Tbl.get_cons_self] at this
      cases this
    | cons p q =>
      obtain ⟨l, w⟩ := p
      have hr := ((Tbl.rising_cons lo k v r).mp ht).2
      have hq := ((Tbl.rising_cons lo' l w q).mp hu).2
      obtain rfl : k = l :=
        le_antisymm (Tbl.head_le_of_get_eq l k w v q r hr (h l).symm) (Tbl.head_le_of_get_eq k l v w r q hq (h k))
      obtain rfl : v = w := by simpa using h k
      have rest : ∀ i, Tbl.get? r i = Tbl.get? q i := fun i => by
        rcases Nat.lt_or_ge k i with hi | hi
        · simpa [Tbl.get_cons_ne k i v _ (Nat.ne_of_gt hi)] using h i
        · rw [Tbl.get_eq_none_of_rising r k i hr hi, Tbl.get_eq_none_of_rising q k i hq hi]
      rw [ih q _ _ hr hq rest]

/-! ### The canonical form is unique -/

theorem Memory.wf_iff (m : List Host.Cell) :
    Memory.wf m = true ↔ Tbl.risingFrom none m = true ∧ ∀ p ∈ m, p.2 ≠ Memory.default := by
  simp [Memory.wf]

/-- An entry found is an entry of the table. -/
theorem Tbl.mem_of_get {α : Type} (t : Tbl α) (k : Nat) (v : α) (h : Tbl.get? t k = some v) : (k, v) ∈ t := by
  induction t with
  | nil => cases h
  | cons p r ih =>
    obtain ⟨j, w⟩ := p
    by_cases e : k = j
    · subst e
      rw [Tbl.get_cons_self, Option.some.injEq] at h
      exact h ▸ List.mem_cons_self
    · exact List.mem_cons_of_mem _ (ih (Tbl.get_cons_ne j k w r e ▸ h))

/-- In the canonical form an address is listed just where it reads as another byte than the default. -/
theorem Memory.get_of_wf (m : List Host.Cell) (a : Nat) (h : Memory.wf m = true) :
    Tbl.get? m a = if Memory.read m a = Memory.default then none else some (Memory.read m a) := by
  obtain ⟨-, listed⟩ := (Memory.wf_iff m).mp h
  unfold Memory.read Tbl.getD
  cases e : Tbl.get? m a with
  | none => simp
  | some v => simp [listed _ (Tbl.mem_of_get m a v e)]

/-- Two canonical memories that read alike are equal. -/
theorem Memory.eq_of_read_eq (m n : List Host.Cell) (hm : Memory.wf m = true) (hn : Memory.wf n = true)
    (h : ∀ a, Memory.read m a = Memory.read n a) : m = n :=
  Tbl.eq_of_get_eq m n none none ((Memory.wf_iff m).mp hm).1 ((Memory.wf_iff n).mp hn).1 fun a => by
    rw [Memory.get_of_wf m a hm, Memory.get_of_wf n a hn, h a]

end Sys2Proof.Machine

namespace Sys2Proof.Proofs

open Sys2Proof Sys2Proof.Machine

/-- Settles O11, by induction on the bytes written, and for uniqueness on the two lists of cells. -/
theorem memoryIsFaithful : Obligations.MemoryIsFaithful :=
  ⟨fun m a bs h => ⟨Memory.wf_writes m a bs h, Memory.reads_writes_self m a bs, Memory.read_writes_outside m a bs⟩,
    Memory.eq_of_read_eq⟩

end Sys2Proof.Proofs
end

section
/-! PROOF. Publication (R17, R22): a byte that stands unpublished where the truth already lies is never published. -/

namespace Sys2Proof.Proofs

open Sys2Proof Sys2Proof.Machine Sys2Proof.Claims

/-- A memory whose device view holds an unpublished byte of its own device, for which level 2 is the truth itself (R17). -/
def strayInDeviceView : MemSys :=
  { MemSys.fresh with d := [(0, { val := 0, unpub := true, node := none })] }

/-- A publication to level 3 moves only bytes that lie below the truth, so the stray byte stays unpublished at level 2. -/
theorem strayInDeviceView_stays_unpublished :
    unpublished ((strayInDeviceView.publish 0 0 3).view 0 2) (fun _ => true) = [0] := by decide

/-- Refutes O35: PublicationReachesItsLevel asks of every memory with rising views that no byte below the scope is unpublished after a
publication, and `strayInDeviceView` keeps one. No step of the machine makes such a view, but the statement does not exclude it. -/
theorem not_publicationOfViews : ¬ Obligations.PublicationOfViews := by
  rintro ⟨-, reaches, -⟩
  have empty := (reaches strayInDeviceView 0 0 3 2 (by decide) (by decide) (by decide)).1
  rw [strayInDeviceView_stays_unpublished] at empty
  cases empty

end Sys2Proof.Proofs
end

section
/-! PROOF. Tables under filters and maps, and the table that a table with rising keys is. -/

namespace Sys2Proof.Machine

open Sys2Proof

/-- A filter by keys keeps the entries of the keys it picks. -/
theorem Tbl.get_filter_key {α : Type} (t : Tbl α) (p : Nat → Bool) (a : Nat) :
    Tbl.get? (t.filter fun x => p x.1) a = if p a then Tbl.get? t a else none := by
  induction t with
  | nil => simp [Tbl.get?]
  | cons q r ih =>
    obtain ⟨j, v⟩ := q
    rw [List.filter_cons]
    by_cases h : j = a
    · subst h
      cases hp : p j <;> simp [hp, Tbl.get?, ih]
    · cases hp : p j <;> simp [Tbl.get?, h, ih]

/-- A filter of a table with rising keys answers for a key just where its one entry is picked. -/
theorem Tbl.get_filter_of_rising {α : Type} (t : Tbl α) (q : Nat × α → Bool) (a : Nat) (lo : Option Nat)
    (h : Tbl.risingFrom lo t = true) :
    Tbl.get? (t.filter q) a = (Tbl.get? t a).filter fun v => q (a, v) := by
  induction t generalizing lo with
  | nil => rfl
  | cons e r ih =>
    obtain ⟨j, v⟩ := e
    have rest := ((Tbl.rising_cons lo j v r).mp h).2
    rw [List.filter_cons]
    by_cases hj : j = a
    · subst hj
      have absent : Tbl.get? (r.filter q) j = none := by
        rw [ih _ rest, Tbl.get_eq_none_of_rising r j j rest (Nat.le_refl j)]; rfl
      cases hq : q (j, v) <;> simp [hq, Option.filter, absent]
    · cases hq : q (j, v) <;> simp [Tbl.get_cons_ne j a v _ (Ne.symm hj), ih _ rest]

/-- In a table with rising keys the entries are what `get?` finds. -/
theorem Tbl.mem_iff_get {α : Type} (t : Tbl α) (k : Nat) (v : α) (lo : Option Nat) (h : Tbl.risingFrom lo t = true) :
    (k, v) ∈ t ↔ Tbl.get? t k = some v := by
  refine ⟨fun hm => ?_, Tbl.mem_of_get t k v⟩
  induction t generalizing lo with
  | nil => cases hm
  | cons e r ih =>
    obtain ⟨j, w⟩ := e
    have rest := ((Tbl.rising_cons lo j w r).mp h).2
    rcases List.mem_cons.mp hm with heq | hr
    · cases heq; simp
    · have found := ih _ rest hr
      have ne : k ≠ j := fun e => by
        rw [e, Tbl.get_eq_none_of_rising r j j rest (Nat.le_refl j)] at found
        cases found
      rw [Tbl.get_cons_ne j k w r ne, found]

/-- The keys of a table with rising keys are above its bound, and each stands once. -/
theorem Tbl.keys_of_rising {α : Type} (t : Tbl α) (lo : Option Nat) (h : Tbl.risingFrom lo t = true) :
    (t.map (·.1)).Nodup ∧ ∀ j, lo = some j → ∀ k ∈ t.map (·.1), j < k := by
  induction t generalizing lo with
  | nil => simp
  | cons e r ih =>
    obtain ⟨j, w⟩ := e
    obtain ⟨above, rest⟩ := (Tbl.rising_cons lo j w r).mp h
    obtain ⟨once, higher⟩ := ih _ rest
    refine ⟨List.nodup_cons.mpr ⟨fun hj => absurd (higher j rfl j hj) (Nat.lt_irrefl j), once⟩, fun i hi k hk => ?_⟩
    rcases List.mem_cons.mp hk with rfl | hk
    · exact above i hi
    · exact Nat.lt_trans (above i hi) (higher j rfl k hk)

/-- What two tables in a row answer: the first, else the second. -/
theorem Tbl.get_append {α : Type} (t u : Tbl α) (a : Nat) :
    Tbl.get? (t ++ u) a = (Tbl.get? t a).or (Tbl.get? u a) := by
  induction t with
  | nil => rfl
  | cons e r ih =>
    obtain ⟨j, v⟩ := e
    by_cases h : j = a
    · subst h; simp
    · simp [Tbl.get?, h, ih]

/-- A table mapped by its values. -/
@[simp] theorem Tbl.get_mapVal {α β : Type} (t : Tbl α) (f : α → β) (a : Nat) :
    Tbl.get? (Tbl.mapVal t f) a = (Tbl.get? t a).map f := by
  induction t with
  | nil => rfl
  | cons e r ih =>
    obtain ⟨j, v⟩ := e
    by_cases h : j = a
    · subst h; simp [Tbl.mapVal]
    · simpa [Tbl.mapVal, Tbl.get?, h] using ih

/-- What is read of a table with one entry changed. -/
@[simp] theorem Tbl.getD_put_self {α : Type} (t : Tbl α) (k : Nat) (d v : α) : Tbl.getD (Tbl.put t k v) k d = v := by
  simp [Tbl.getD]
@[simp] theorem Tbl.getD_put_ne {α : Type} (t : Tbl α) (k i : Nat) (d v : α) (h : i ≠ k) :
    Tbl.getD (Tbl.put t k v) i d = Tbl.getD t i d := by
  simp [Tbl.getD, h]

/-- A table listed for some of the numbers of a range, offset by a base. -/
theorem Tbl.get_filterMap_range {α : Type} (n base a : Nat) (f : Nat → Option α) :
    Tbl.get? ((List.range n).filterMap fun i => (f i).map fun v => (base + i, v)) a =
      if base ≤ a ∧ a < base + n then f (a - base) else none := by
  induction n with
  | zero => simp [Tbl.get?]
  | succ n ih =>
    rw [List.range_succ, List.filterMap_append, Tbl.get_append, ih]
    by_cases ha : a = base + n
    · subst ha
      cases hf : f n <;> simp [hf, Tbl.get?]
    · have last : Tbl.get? ([n].filterMap fun i => (f i).map fun v => (base + i, v)) a = none := by
        cases hf : f n <;> simp [hf, Tbl.get?, Ne.symm ha]
      rw [last, Option.or_none]
      exact if_congr (by omega) rfl rfl

end Sys2Proof.Machine
end

section
/-! PROOF. The views of a path byte by byte: what a Move, Fill and Drop of a line leaves at every level and in the truth (R17, R20, R21). -/

namespace Sys2Proof.Machine

open Sys2Proof

/-! ### Replacing a view -/

@[simp] theorem MemSys.view_setView_self (m : MemSys) (c lv : Nat) (x : Tbl VByte) : (m.setView c lv x).view c lv = x := by
  unfold MemSys.setView MemSys.view
  split
  · simp
  · split <;> simp

/-- The levels of a path are three: from level 2 up the view is the device's. -/
theorem MemSys.view_of_le (m : MemSys) (c k : Nat) (h : 2 ≤ k) : m.view c k = m.d := by
  unfold MemSys.view
  rw [if_neg (by omega), if_neg (by omega)]

/-- Replacing one view leaves the other levels alone. -/
theorem MemSys.view_setView_ne (m : MemSys) (c lv k : Nat) (x : Tbl VByte) (h : min k 2 ≠ min lv 2) :
    (m.setView c lv x).view c k = m.view c k := by
  unfold MemSys.setView MemSys.view
  by_cases h0 : lv = 0
  · simp [h0, show ¬ k = 0 by omega]
  · by_cases h1 : lv = 1
    · simp only [h1, if_true, Nat.one_ne_zero, if_false]
      by_cases hk : k = 0
      · simp [hk]
      · rw [if_neg hk, if_neg (by omega), if_neg hk, if_neg (by omega)]
    · simp only [h0, h1, if_false]
      by_cases hk : k = 0
      · simp [hk]
      · simp only [hk, if_false]; rw [if_pos (by omega), if_pos (by omega)]

@[simp] theorem MemSys.setView_truth (m : MemSys) (c lv : Nat) (x : Tbl VByte) : (m.setView c lv x).truth = m.truth := by
  unfold MemSys.setView; split
  · rfl
  · split <;> rfl

/-- A write into the truth leaves every view alone. -/
@[simp] theorem MemSys.view_writeTruth (m : MemSys) (pa : Nat) (v : Byte) (n : Option Nat) (e : Option Word) (c k : Nat) :
    (m.writeTruth pa v n e).view c k = m.view c k := by
  unfold MemSys.writeTruth MemSys.overlay
  cases m.staged.find? (·.loc == .byte pa) with
  | none => cases n <;> rfl
  | some w => dsimp only; split <;> rfl

@[simp] theorem MemSys.truth_writeTruth (m : MemSys) (pa : Nat) (v : Byte) (n : Option Nat) (e : Option Word) :
    (m.writeTruth pa v n e).truth = Memory.write m.truth pa v := by
  unfold MemSys.writeTruth MemSys.overlay
  cases m.staged.find? (·.loc == .byte pa) with
  | none => cases n <;> rfl
  | some w => dsimp only; split <;> rfl

/-- What has become of sectors leaves views and truth alone. -/
@[simp] theorem MemSys.view_heal (m : MemSys) (pas : List Nat) (c k : Nat) : (m.heal pas).view c k = m.view c k := by
  unfold MemSys.heal; split <;> rfl
@[simp] theorem MemSys.truth_heal (m : MemSys) (pas : List Nat) : (m.heal pas).truth = m.truth := by
  unfold MemSys.heal; split <;> rfl
@[simp] theorem MemSys.view_settleSectors (m : MemSys) (v : Tbl VByte) (pas : List Nat) (c k : Nat) :
    (m.settleSectors v pas).view c k = m.view c k := by
  unfold MemSys.settleSectors; split
  · rfl
  · exact MemSys.view_heal _ pas c k
@[simp] theorem MemSys.truth_settleSectors (m : MemSys) (v : Tbl VByte) (pas : List Nat) :
    (m.settleSectors v pas).truth = m.truth := by
  unfold MemSys.settleSectors; split
  · rfl
  · exact MemSys.truth_heal _ pas

/-! ### Moves -/

/-- The truth of a byte lies at level 2 or 3. -/
theorem truthLevel_bounds (dev a : Nat) : 2 ≤ truthLevel dev a ∧ truthLevel dev a ≤ 3 := by
  unfold truthLevel; split <;> omega

/-- The unpublished bytes of a view with rising keys. -/
theorem mem_unpublished (v : Tbl VByte) (p : Nat → Bool) (a : Nat) (lo : Option Nat) (h : Tbl.risingFrom lo v = true) :
    a ∈ unpublished v p ↔ p a = true ∧ ∃ x, Tbl.get? v a = some x ∧ x.unpub = true := by
  simp only [unpublished, List.mem_map, List.mem_filter, Bool.and_eq_true, Prod.exists, exists_and_right, exists_eq_right]
  refine ⟨fun ⟨x, hx, hu, hp⟩ => ⟨hp, x, (Tbl.mem_iff_get v a x lo h).mp hx, hu⟩, fun ⟨hp, x, hx, hu⟩ => ⟨x, ?_, hu, hp⟩⟩
  exact Tbl.mem_of_get v a x hx

theorem nodup_unpublished (v : Tbl VByte) (p : Nat → Bool) (lo : Option Nat) (h : Tbl.risingFrom lo v = true) :
    (unpublished v p).Nodup :=
  (Tbl.keys_of_rising _ lo (Tbl.rising_filter v _ lo h)).1

/-- A byte that nothing has touched, on core c's path and in the truth. -/
structure KeptByte (m n : MemSys) (c a : Nat) : Prop where
  views : ∀ k, Tbl.get? (n.view c k) a = Tbl.get? (m.view c k) a
  truth : Memory.read n.truth a = Memory.read m.truth a

theorem KeptByte.refl (m : MemSys) (c a : Nat) : KeptByte m m c a := ⟨fun _ => rfl, rfl⟩

theorem KeptByte.trans {m n o : MemSys} {c a : Nat} (h : KeptByte m n c a) (k : KeptByte n o c a) : KeptByte m o c a :=
  ⟨fun i => (k.views i).trans (h.views i), k.truth.trans h.truth⟩

/-- A byte `b` that has moved from a level to the next, or into the truth where that is next, and stays clean where it was. -/
structure MovedByte (m n : MemSys) (dev c lv a : Nat) (b : VByte) : Prop where
  left : Tbl.get? (n.view c lv) a = some { b with unpub := false }
  arrived : truthLevel dev a ≤ lv + 1 → Memory.read n.truth a = b.val
  next : lv + 1 < truthLevel dev a →
    Tbl.get? (n.view c (lv + 1)) a = some { b with unpub := true } ∧ Memory.read n.truth a = Memory.read m.truth a
  others : ∀ k, k < 3 → k ≠ lv → k ≠ lv + 1 ∨ truthLevel dev a ≤ lv + 1 → Tbl.get? (n.view c k) a = Tbl.get? (m.view c k) a

/-- A byte stays as another byte's step left it. -/
theorem MovedByte.kept {m n o : MemSys} {dev c lv a : Nat} {b : VByte} (h : MovedByte m n dev c lv a b) (k : KeptByte n o c a) :
    MovedByte m o dev c lv a b :=
  ⟨(k.views lv).trans h.left, fun t => k.truth.trans (h.arrived t),
    fun t => ⟨(k.views _).trans (h.next t).1, k.truth.trans (h.next t).2⟩,
    fun i hi hl ht => (k.views i).trans (h.others i hi hl ht)⟩

/-- A move is the same seen from a state in which the byte was as it is now. -/
theorem KeptByte.moved {m n o : MemSys} {dev c lv a : Nat} {b : VByte} (k : KeptByte m n c a) (h : MovedByte n o dev c lv a b) :
    MovedByte m o dev c lv a b :=
  ⟨h.left, h.arrived, fun t => ⟨(h.next t).1, (h.next t).2.trans k.truth⟩,
    fun i hi hl ht => (h.others i hi hl ht).trans (k.views i)⟩

/-- One byte's move, where it lies unpublished below the truth. -/
theorem MemSys.rawMove_moved (m : MemSys) (dev c lv a : Nat) (b : VByte) (hb : Tbl.get? (m.view c lv) a = some b)
    (hu : b.unpub = true) (hl : lv < truthLevel dev a) : MovedByte m (m.rawMove dev c lv a) dev c lv a b := by
  obtain ⟨-, hi⟩ := truthLevel_bounds dev a
  simp only [MemSys.rawMove, hb, hu, if_true, MemSys.place]
  by_cases ht : truthLevel dev a ≤ lv + 1
  · rw [if_pos ht]
    refine ⟨by simp, fun _ => by simp, fun h => absurd h (by omega), fun k hk hne _ => ?_⟩
    rw [MemSys.view_writeTruth, MemSys.view_setView_ne _ _ _ _ _ (by omega)]
  · rw [if_neg ht]
    refine ⟨?_, fun h => absurd h ht, fun _ => ⟨by simp, by simp⟩, fun k hk hne hk1 => ?_⟩
    · rw [MemSys.view_setView_ne _ _ _ _ _ (by omega), MemSys.view_setView_self, Tbl.get_put_self]
    · rw [MemSys.view_setView_ne _ _ _ _ _ (by omega), MemSys.view_setView_ne _ _ _ _ _ (by omega)]

/-- One byte's move leaves every other byte alone. -/
theorem MemSys.rawMove_kept (m : MemSys) (dev c lv a x : Nat) (hx : x ≠ a) : KeptByte m (m.rawMove dev c lv a) c x := by
  have put : ∀ (n : MemSys) (j k : Nat) (y : VByte),
      Tbl.get? ((n.setView c j (Tbl.put (n.view c j) a y)).view c k) x = Tbl.get? (n.view c k) x := fun n j k y => by
    by_cases hk : min k 2 = min j 2
    · have same : ∀ o : MemSys, o.view c k = o.view c j := fun o => by
        rcases Nat.lt_or_ge k 2 with h | h
        · rw [show k = j by omega]
        · rw [o.view_of_le c k h, o.view_of_le c j (by omega)]
      rw [same, MemSys.view_setView_self, Tbl.get_put_ne _ _ _ _ hx, same]
    · rw [MemSys.view_setView_ne _ _ _ _ _ hk]
  unfold MemSys.rawMove
  cases Tbl.get? (m.view c lv) a with
  | none => exact KeptByte.refl m c x
  | some b =>
    dsimp only
    split
    · unfold MemSys.place
      split
      · exact ⟨fun k => by rw [MemSys.view_writeTruth, put], by simp [hx]⟩
      · exact ⟨fun k => by rw [put, put], by simp⟩
    · exact KeptByte.refl m c x

/-- The moves of a list of bytes that lie unpublished below the truth: each has moved, and no other byte is touched. -/
theorem MemSys.rawMoves_spec (dev c lv : Nat) (as : List Nat) (m : MemSys) (once : as.Nodup)
    (lie : ∀ a ∈ as, lv < truthLevel dev a ∧ ∃ b, Tbl.get? (m.view c lv) a = some b ∧ b.unpub = true) :
    let n := as.foldl (fun m a => m.rawMove dev c lv a) m
    (∀ a ∈ as, ∀ b, Tbl.get? (m.view c lv) a = some b → MovedByte m n dev c lv a b) ∧ ∀ x, x ∉ as → KeptByte m n c x := by
  induction as generalizing m with
  | nil => exact ⟨fun a ha => (List.not_mem_nil ha).elim, fun x _ => KeptByte.refl m c x⟩
  | cons a r ih =>
    obtain ⟨fresh, rest⟩ := List.nodup_cons.mp once
    have kept : ∀ x, x ≠ a → KeptByte m (m.rawMove dev c lv a) c x := fun x hx => m.rawMove_kept dev c lv a x hx
    have ne : ∀ x ∈ r, x ≠ a := fun x hx e => fresh (e ▸ hx)
    obtain ⟨moved, others⟩ := ih (m.rawMove dev c lv a) rest fun x hx => by
      obtain ⟨hl, b, hb, hu⟩ := lie x (List.mem_cons_of_mem a hx)
      exact ⟨hl, b, ((kept x (ne x hx)).views lv).trans hb, hu⟩
    refine ⟨fun x hx b hb => ?_, fun x hx => ?_⟩
    · rcases List.mem_cons.mp hx with rfl | hx
      · obtain ⟨hl, b', hb', hu⟩ := lie x List.mem_cons_self
        obtain rfl : b = b' := Option.some.inj (hb.symm.trans hb')
        exact (m.rawMove_moved dev c lv x b hb hu hl).kept (others x fresh)
      · have k := kept x (ne x hx)
        exact k.moved (moved x hx b ((k.views lv).trans hb))
    · obtain ⟨hx, hr⟩ := not_or.mp fun h => hx (List.mem_cons.mpr h)
      exact (kept x hx).trans (others x hr)

/-- Where no unpublished byte of another node stands, nothing has to make way. -/
theorem MemSys.makeWay_eq_self (m : MemSys) (dev c lv a : Nat) (n : Option Nat)
    (h : ∀ y, Tbl.get? (m.view c lv) a = some y → y.unpub = true → y.node = n) : m.makeWay dev c lv a n = m := by
  unfold MemSys.makeWay
  cases e : Tbl.get? (m.view c lv) a with
  | none => rfl
  | some y =>
    cases hu : y.unpub with
    | false => simp [hu]
    | true => simp [hu, h y e hu]

/-- A fold of steps that each leave the state alone. -/
theorem foldl_eq_self {α β : Type} (f : β → α → β) (l : List α) (s : β) (h : ∀ a ∈ l, f s a = s) : l.foldl f s = s := by
  induction l with
  | nil => rfl
  | cons a r ih => rw [List.foldl_cons, h a List.mem_cons_self, ih fun x hx => h x (List.mem_cons_of_mem a hx)]

/-- The move of the unpublished bytes in p from a level whose keys rise, where at the next level no unpublished byte of another node
stands in the way: each has moved, and no other byte is touched. -/
theorem MemSys.moveAll_spec (m : MemSys) (dev c lv : Nat) (p : Nat → Bool) (rises : Tbl.risingFrom none (m.view c lv) = true)
    (clear : ∀ a x y, p a = true → Tbl.get? (m.view c lv) a = some x → x.unpub = true → lv + 1 < truthLevel dev a →
      Tbl.get? (m.view c (lv + 1)) a = some y → y.unpub = true → y.node = x.node) :
    (∀ a x, p a = true → Tbl.get? (m.view c lv) a = some x → x.unpub = true → lv < truthLevel dev a →
      MovedByte m (m.moveAll dev c lv p) dev c lv a x) ∧
    ∀ a, (p a = true → ∀ x, Tbl.get? (m.view c lv) a = some x → x.unpub = true → ¬ lv < truthLevel dev a) →
      KeptByte m (m.moveAll dev c lv p) c a := by
  unfold MemSys.moveAll
  dsimp only
  generalize has : unpublished (m.view c lv) (fun a => p a && decide (lv < truthLevel dev a)) = as
  have mem : ∀ a, a ∈ as ↔ (p a = true ∧ lv < truthLevel dev a) ∧ ∃ x, Tbl.get? (m.view c lv) a = some x ∧ x.unpub = true :=
    fun a => by rw [← has, mem_unpublished _ _ _ none rises]; simp
  have way : as.foldl (fun (m' : MemSys) a => if lv + 1 ≥ truthLevel dev a then m'
      else m'.makeWay dev c (lv + 1) a ((Tbl.get? (m.view c lv) a).bind (·.node))) m = m := by
    refine foldl_eq_self _ as m fun a ha => ?_
    obtain ⟨⟨hp, -⟩, x, hx, hu⟩ := (mem a).mp ha
    split
    · rfl
    · rw [hx]
      exact m.makeWay_eq_self dev c (lv + 1) a x.node fun y => clear a x y hp hx hu (by omega)
  rw [way]
  obtain ⟨moved, others⟩ := MemSys.rawMoves_spec dev c lv as m
    (has ▸ nodup_unpublished _ _ none rises) fun a ha => ⟨((mem a).mp ha).1.2, ((mem a).mp ha).2⟩
  refine ⟨fun a x hp hx hu hl => (moved a ((mem a).mpr ⟨⟨hp, hl⟩, x, hx, hu⟩) x hx).kept ⟨fun k => by simp, by simp⟩, fun a ha => ?_⟩
  refine (others a fun hm => ?_).trans ⟨fun k => by simp, by simp⟩
  obtain ⟨⟨hp, hl⟩, x, hx, hu⟩ := (mem a).mp hm
  exact ha hp x hx hu hl

/-! ### Fills and drops -/

/-- The line of a byte. -/
theorem lineOf_eq_iff (a line : Nat) : lineOf a = lineOf line ↔ lineOf line ≤ a ∧ a < lineOf line + 128 := by
  unfold lineOf; omega

/-- The byte at an address of a line that is filled: the one that stands there, else the next level's, clean, unless it would come from a
sector that cannot be read (R21, R352). -/
def MemSys.filledByte (m : MemSys) (dev c lv a : Nat) : Option VByte :=
  match Tbl.get? (m.view c lv) a with
  | some x => some x
  | none => if truthLevel dev a ≤ lv + 1 ∧ m.readable dev a = false then none
            else (m.at dev c (lv + 1) a).map fun x => { x with unpub := false }

/-- A Fill lists, between what stands below and above the line, the line's bytes as they are filled. -/
theorem MemSys.fillLine_eq (m : MemSys) (dev c lv line : Nat) :
    m.fillLine dev c lv line = m.setView c lv
      (((m.view c lv).filter fun x => decide (x.1 < lineOf line)) ++
        ((List.range 128).filterMap fun i => (m.filledByte dev c lv (lineOf line + i)).map fun v => (lineOf line + i, v)) ++
        (m.view c lv).filter fun x => decide (lineOf line + 128 ≤ x.1)) := by
  unfold MemSys.fillLine
  dsimp only
  congr 3
  refine List.filterMap_congr fun i hi => ?_
  have own : Tbl.get? ((m.view c lv).filter fun x => decide (lineOf line ≤ x.1) && decide (x.1 < lineOf line + 128)) (lineOf line + i) =
      Tbl.get? (m.view c lv) (lineOf line + i) := by
    rw [Tbl.get_filter_key _ fun b => decide (lineOf line ≤ b) && decide (b < lineOf line + 128)]
    simp [List.mem_range.mp hi]
  rw [own, MemSys.filledByte]
  cases Tbl.get? (m.view c lv) (lineOf line + i) with
  | some x => rfl
  | none =>
    by_cases hr : truthLevel dev (lineOf line + i) ≤ lv + 1 ∧ m.readable dev (lineOf line + i) = false
    · simp [hr]
    · have good : (decide (lv + 1 ≥ truthLevel dev (lineOf line + i)) && !m.readable dev (lineOf line + i)) = false := by
        simpa using hr
      simp only [good, hr, if_false, Bool.false_eq_true, Option.map_map]
      rfl

/-- What a level holds after a Fill of a line there. -/
theorem MemSys.get_fillLine (m : MemSys) (dev c lv line a : Nat) :
    Tbl.get? ((m.fillLine dev c lv line).view c lv) a =
      if lineOf a = lineOf line then m.filledByte dev c lv a else Tbl.get? (m.view c lv) a := by
  rw [MemSys.fillLine_eq, MemSys.view_setView_self, Tbl.get_append, Tbl.get_append,
    Tbl.get_filter_key _ (fun b => decide (b < lineOf line)), Tbl.get_filter_key _ (fun b => decide (lineOf line + 128 ≤ b)),
    Tbl.get_filterMap_range 128 (lineOf line) a fun i => m.filledByte dev c lv (lineOf line + i)]
  by_cases low : a < lineOf line
  · simp [low, lineOf_eq_iff, Nat.not_le_of_lt low, show ¬ lineOf line + 128 ≤ a by omega]
  · by_cases high : lineOf line + 128 ≤ a
    · simp [low, high, lineOf_eq_iff, Nat.not_lt_of_le high]
    · have inside : lineOf line ≤ a ∧ a < lineOf line + 128 := by omega
      simp [low, high, lineOf_eq_iff, inside]

@[simp] theorem MemSys.truth_fillLine (m : MemSys) (dev c lv line : Nat) : (m.fillLine dev c lv line).truth = m.truth := by
  simp [MemSys.fillLine]

@[simp] theorem MemSys.truth_dropAt (m : MemSys) (c lv : Nat) (p : Nat → Bool) : (m.dropAt c lv p).truth = m.truth := by
  simp [MemSys.dropAt]

/-- A Drop from a level whose keys rise takes the clean bytes in p, and leaves every other byte there. -/
theorem MemSys.get_dropAt (m : MemSys) (c lv : Nat) (p : Nat → Bool) (a : Nat) (rises : Tbl.risingFrom none (m.view c lv) = true) :
    Tbl.get? ((m.dropAt c lv p).view c lv) a = (Tbl.get? (m.view c lv) a).filter fun x => x.unpub || !p a := by
  rw [MemSys.dropAt, MemSys.view_setView_self, Tbl.get_filter_of_rising _ _ _ none rises]

end Sys2Proof.Machine
end

section
/-! PROOF. The events of the views and of the instruction cache (R20, R21, R220, R352, R354). -/

namespace Sys2Proof.Machine

open Sys2Proof Sys2Proof.Claims

/-! ### Charges and cached translations touch byte counters and translations alone -/

/-- A state that differs in translations and in the byte counters of context x alone. -/
structure ChargedOnly (s t : State) (x : Nat) : Prop where
  memory : t.ms = { s.ms with tlb := t.ms.tlb }
  rest : t.cyc = s.cyc ∧ t.cores = s.cores ∧ t.blocks = s.blocks ∧ t.cp = s.cp ∧ t.mp = s.mp ∧ t.iss = s.iss ∧ t.seq = s.seq
  ctxs : ∀ z, (z ≠ x → Tbl.get? t.ctxs z = Tbl.get? s.ctxs z) ∧
    (Tbl.get? t.ctxs z).map (fun k => { k with acct := [] }) = (Tbl.get? s.ctxs z).map fun k => { k with acct := [] }

theorem ChargedOnly.refl (s : State) (x : Nat) : ChargedOnly s s x :=
  ⟨rfl, ⟨rfl, rfl, rfl, rfl, rfl, rfl, rfl⟩, fun _ => ⟨fun _ => rfl, rfl⟩⟩

theorem ChargedOnly.trans {s t u : State} {x : Nat} (h : ChargedOnly s t x) (k : ChargedOnly t u x) : ChargedOnly s u x := by
  obtain ⟨m, ⟨c1, c2, c3, c4, c5, c6, c7⟩, e⟩ := h
  obtain ⟨m', ⟨d1, d2, d3, d4, d5, d6, d7⟩, e'⟩ := k
  refine ⟨?_, ⟨d1.trans c1, d2.trans c2, d3.trans c3, d4.trans c4, d5.trans c5, d6.trans c6, d7.trans c7⟩,
    fun z => ⟨fun hz => ((e' z).1 hz).trans ((e z).1 hz), (e' z).2.trans (e z).2⟩⟩
  rw [m', m]

theorem ChargedOnly.foldl {α : Type} (f : State → α → State) (l : List α) (s : State) (x : Nat)
    (hf : ∀ t a, ChargedOnly t (f t a) x) : ChargedOnly s (l.foldl f s) x := by
  induction l generalizing s with
  | nil => exact ChargedOnly.refl s x
  | cons a r ih => exact (hf s a).trans (ih (f s a))

/-- A charge to a context. -/
theorem State.charge_only (s : State) (x i n : Nat) : ChargedOnly s (s.charge x i n) x := by
  refine ⟨rfl, ⟨rfl, rfl, rfl, rfl, rfl, rfl, rfl⟩, fun z => ⟨fun hz => Tbl.get_mod_ne s.ctxs x z _ hz, ?_⟩⟩
  by_cases hz : z = x
  · subst hz
    simp only [State.charge, State.modCtx, Tbl.get_mod_self, Option.map_map]
    cases Tbl.get? s.ctxs z <;> rfl
  · simp only [State.charge, State.modCtx, Tbl.get_mod_ne _ _ _ _ hz]

theorem State.chargeSlice_only (s : State) (x lv pa : Nat) : ChargedOnly s (s.chargeSlice x lv pa) x := by
  unfold State.chargeSlice
  split
  · exact (s.charge_only x 2 128).trans (State.charge_only _ x 3 _)
  · exact ChargedOnly.refl s x

theorem State.tlbPut_only (s : State) (c x : Nat) (e : TlbEnt) : ChargedOnly s (s.tlbPut c e) x :=
  ⟨rfl, ⟨rfl, rfl, rfl, rfl, rfl, rfl, rfl⟩, fun _ => ⟨fun _ => rfl, rfl⟩⟩

theorem State.tlbPath_only (s : State) (c x va : Nat) : ChargedOnly s (s.tlbPath c x va) x := by
  unfold State.tlbPath
  split
  · exact ChargedOnly.foldl _ _ _ _ fun t a => t.tlbPut_only c x _
  · exact ChargedOnly.refl s x

theorem State.tlbAdd_only (s : State) (c x va : Nat) (f : Leaf) : ChargedOnly s (s.tlbAdd c x va f) x := by
  unfold State.tlbAdd
  split
  · exact ChargedOnly.refl s x
  · exact s.tlbPut_only c x _

/-- A translation caches entries, and charges what its walk brings to home slices (R203, R220). -/
theorem State.cached_only (s : State) (c x va : Nat) : ChargedOnly s (s.cached c x va) x := by
  unfold State.cached
  split
  · exact ChargedOnly.refl s x
  · have walked := (ChargedOnly.foldl (fun (s : State) pa => s.chargeSlice x (truthLevel s.dev pa) pa) (s.walkReads c x va) s x
      fun t pa => t.chargeSlice_only x _ pa).trans (State.tlbPath_only _ c x va)
    dsimp only
    split
    · exact walked
    · exact walked.trans (State.tlbAdd_only _ c x va _)

/-! ### The events -/

theorem State.dirty_iff (s : State) (lv : ViewLevel) (u line : Nat)
    (rises : Tbl.risingFrom none (s.ms.view (viewCore lv u) (viewNum lv)) = true) :
    (unpublished (s.ms.view (viewCore lv u) (viewNum lv)) (inLineOf line)).isEmpty = false ↔
      ∃ a y, lineOf a = lineOf line ∧ Tbl.get? (s.ms.view (viewCore lv u) (viewNum lv)) a = some y ∧ y.unpub = true := by
  simp only [List.isEmpty_eq_false_iff_exists_mem, mem_unpublished _ _ _ none rises, inLineOf, beq_iff_eq, exists_and_left]

/-- R20, R21, R220: MOVE. -/
theorem movesPublish : MovesPublish := by
  intro s lv u line c k x dirty moves rises clear
  obtain ⟨moved, kept⟩ := s.ms.moveAll_spec s.dev c k (inLineOf line) rises fun a y z ha hy hu hl hz hzu =>
    clear a y z ⟨by simpa [inLineOf] using ha, hy, hu, by omega⟩ hz hzu
  have bytes : ∀ t : State, t.ms = s.ms.moveAll s.dev c k (inLineOf line) →
      (∀ a y, moves a y → Tbl.get? (t.ms.view c k) a = some { y with unpub := false } ∧
        (truthLevel s.dev a ≤ k + 1 → Memory.read t.ms.truth a = y.val) ∧
        (k + 1 < truthLevel s.dev a → Tbl.get? (t.ms.view c (k + 1)) a = some y ∧ Memory.read t.ms.truth a = Memory.read s.ms.truth a)) ∧
      ∀ a, (∀ y, ¬ moves a y) → Tbl.get? (t.ms.view c k) a = Tbl.get? (s.ms.view c k) a ∧
        Tbl.get? (t.ms.view c (k + 1)) a = Tbl.get? (s.ms.view c (k + 1)) a ∧ Memory.read t.ms.truth a = Memory.read s.ms.truth a := by
    intro t ht
    rw [ht]
    refine ⟨fun a y ⟨hl, hy, hu, hk⟩ => ?_, fun a ha => ?_⟩
    · have m := moved a y (by simpa [inLineOf] using hl) hy hu hk
      refine ⟨m.left, m.arrived, fun h => ⟨?_, (m.next h).2⟩⟩
      rw [(m.next h).1, ← hu]
    · have m := kept a fun hl y hy hu hk => ha y ⟨by simpa [inLineOf] using hl, hy, hu, hk⟩
      exact ⟨m.views k, m.views (k + 1), m.truth⟩
  let t : State := { s with ms := s.ms.moveAll s.dev c k (inLineOf line) }
  cases hd : (unpublished (s.ms.view c k) (inLineOf line)).isEmpty with
  | true =>
    have clean : ¬ dirty := fun h => Bool.noConfusion (hd.symm.trans ((s.dirty_iff lv u line rises).mpr h))
    refine ⟨t, ?_, ⟨rfl, rfl, rfl, rfl, rfl, fun z => ⟨fun _ => rfl, rfl⟩⟩, fun _ => rfl, fun h => absurd h clean, bytes t rfl⟩
    show Host.Outcome.next _ = _
    rw [hd]; rfl
  | false =>
    have isDirty : dirty := (s.dirty_iff lv u line rises).mp hd
    have charged := t.charge_only x 3 128
    refine ⟨t.charge x 3 128, ?_, ⟨rfl, rfl, rfl, rfl, rfl, fun z => ⟨fun hz => (charged.ctxs z).1 fun e => hz (e ▸ rfl), (charged.ctxs z).2⟩⟩,
      fun h => absurd isDirty h, fun _ y hy => ?_, bytes _ rfl⟩
    · show Host.Outcome.next _ = _
      rw [hd]; rfl
    · show Tbl.get? (Tbl.mod s.ctxs x _) x = _
      rw [Tbl.get_mod_self, hy]; rfl

/-- R20, R21, R352: FILL and DROP. -/
theorem fillsAndDrops : FillsAndDrops := by
  intro s lv u line c k
  refine ⟨fun hk => ?_, fun hk => ?_, fun rises => ?_⟩
  · refine ⟨{ s with ms := s.ms.fillLine s.dev c k line }, ?_, ⟨rfl, rfl, rfl, rfl, rfl, rfl⟩, by simp, fun a => ?_⟩
    · exact congrArg Host.Outcome.next (if_neg (Nat.not_le_of_lt hk))
    · rw [MemSys.get_fillLine]; rfl
  · exact congrArg Host.Outcome.next (if_pos hk)
  · refine ⟨{ s with ms := s.ms.dropAt c k (inLineOf line) }, rfl, ⟨rfl, rfl, rfl, rfl, rfl, rfl⟩, by simp, fun a x hx => ?_⟩
    rw [MemSys.get_dropAt _ _ _ _ _ rises, hx]
    cases hu : x.unpub <;> simp [hu, inLineOf, Option.filter]

/-- R220, R352, R354: the instruction cache. -/
theorem instructionCache : InstructionCache := by
  intro s c pa bad
  refine ⟨fun good => ?_, fun hbad => ?_, ?_⟩
  · let bits : BundleBits := BitVec.ofNat 256 (ofBytes (Memory.reads s.ms.truth pa 32))
    let keep := fun (t : State) => ({ t with ms := { t.ms with icache := Tbl.modD t.ms.icache c [] fun i => Tbl.put i pa bits } } : State)
    have runs : ∀ t, ChargedOnly s t (((s.misser c pa).map (·.1)).getD 0) →
        (keep t).ms.truth = s.ms.truth ∧ (keep t).cachedBundle c pa = some bits ∧ ∀ a, a ≠ pa → (keep t).cachedBundle c a = s.cachedBundle c a := by
      intro t h
      have hi : t.ms.icache = s.ms.icache := by rw [h.memory]
      refine ⟨?_, by simp [keep, State.cachedBundle, Tbl.modD], fun a ha => by simp [keep, State.cachedBundle, Tbl.modD, hi, ha]⟩
      show t.ms.truth = _
      rw [h.memory]
    have go : ∀ t, (match s.misser c pa with
        | some (x, a) => (s.cached c x a.toNat).chargeSlice x (truthLevel s.dev pa) pa
        | none => s) = t → exec (.icacheFill c pa) s = .next (keep t) := by
      rintro t rfl
      exact if_neg (by rw [show s.ms.sectorFault s.dev ((List.range 32).map (pa + ·)) = none from good]; decide)
    cases hm : s.misser c pa with
    | none =>
      exact ⟨keep s, go s (by rw [hm]), ⟨rfl, rfl, rfl, rfl, rfl, fun z => ⟨fun _ => rfl, rfl⟩⟩,
        runs s (ChargedOnly.refl s _)⟩
    | some p =>
      obtain ⟨x, a⟩ := p
      have h : ChargedOnly s ((s.cached c x a.toNat).chargeSlice x (truthLevel s.dev pa) pa) x :=
        (s.cached_only c x a.toNat).trans (State.chargeSlice_only _ x _ pa)
      obtain ⟨h1, h2, h3, h4, h5, -, -⟩ := h.rest
      exact ⟨_, go _ (by rw [hm]), ⟨h1, h2, h3, h4, h5, fun z => ⟨fun hz => (h.ctxs z).1 fun e => hz (by rw [e]; rfl), (h.ctxs z).2⟩⟩,
        runs _ (by rw [hm]; exact h)⟩
  · exact if_pos (Option.isSome_iff_ne_none.mpr hbad)
  · refine ⟨_, rfl, ⟨rfl, rfl, rfl, rfl, rfl, rfl⟩, rfl, fun a => ?_⟩
    have picks := fun (t : Tbl BundleBits) => Tbl.get_filter_key t (fun b => lineOf b != lineOf pa) a
    cases hi : Tbl.get? s.ms.icache c with
    | none => simp [State.cachedBundle, Tbl.getD, hi, Tbl.get?]
    | some t =>
      simp only [State.cachedBundle, Tbl.getD, Tbl.get_mod_self, hi, Option.map_some, Option.getD_some, picks]
      by_cases hl : lineOf a = lineOf pa <;> simp [hl]

end Sys2Proof.Machine

namespace Sys2Proof.Proofs

open Sys2Proof Sys2Proof.Machine

/-- Settles O47: what a Move of a line does is the fold of its bytes' moves, and a Fill is read off the line as it is filled. -/
theorem viewsMoveFillAndDrop : Obligations.ViewsMoveFillAndDrop := ⟨movesPublish, fillsAndDrops, instructionCache⟩

end Sys2Proof.Proofs
end

section
/-! PROOF. Cores, several threads of a block, and window bytes: what is read after a change (R17, R198, R224). -/

namespace Sys2Proof.Machine

open Sys2Proof

@[simp] theorem State.core_modCore_self (s : State) (c : Nat) (f : Core → Core) : (s.modCore c f).core c = f (s.core c) := by
  simp [State.modCore, State.core, Tbl.modD]
@[simp] theorem State.core_modCore_ne (s : State) (c d : Nat) (f : Core → Core) (h : d ≠ c) : (s.modCore c f).core d = s.core d := by
  simp [State.modCore, State.core, Tbl.modD, h]
@[simp] theorem State.block_modCore (s : State) (c b : Nat) (f : Core → Core) : (s.modCore c f).block? b = s.block? b := rfl
@[simp] theorem State.core_modBlock (s : State) (b c : Nat) (f : Block → Block) : (s.modBlock b f).core c = s.core c := rfl

/-- A change of several threads, each named once, reaches just those. -/
theorem Block.thread_modThreads (bk : Block) (ps : List (Nat × Nat)) (f : Thread → Thread) (once : ps.Nodup) (w l : Nat) :
    (bk.modThreads ps f).thread w l = if (w, l) ∈ ps then f (bk.thread w l) else bk.thread w l := by
  induction ps generalizing bk with
  | nil => rfl
  | cons p r ih =>
    obtain ⟨v, k⟩ := p
    obtain ⟨fresh, rest⟩ := List.nodup_cons.mp once
    show ((bk.modThread v k f).modThreads r f).thread w l = _
    rw [ih _ rest]
    by_cases h : (w, l) = (v, k)
    · cases h; simp [fresh]
    · rw [Block.thread_modThread_ne _ _ _ _ _ _ h]; simp [h]

/-! ### Window bytes -/

/-- A write to the window changes nothing else of the block. -/
theorem Block.winWrite_frame (bk : Block) (off : Nat) (bs : List Byte) :
    bk.winWrite off bs = { bk with win := (bk.winWrite off bs).win } := by
  induction bs generalizing bk off with
  | nil => rfl
  | cons b r ih => rw [Block.winWrite, ih]

/-- The window after a write: the bytes written, and the others as they were. -/
theorem Block.winByte_winWrite (bk : Block) (off : Nat) (bs : List Byte) (a : Nat) :
    (bk.winWrite off bs).winByte a = if off ≤ a ∧ a < off + bs.length then bs.getD (a - off) 0 else bk.winByte a := by
  induction bs generalizing bk off with
  | nil => simp [Block.winWrite]
  | cons b r ih =>
    rw [Block.winWrite, ih]
    by_cases here : a = off
    · subst here; simp [Block.winByte]
    · have apart : Block.winByte { bk with win := Tbl.putD bk.win off 0 b } a = bk.winByte a := by simp [Block.winByte, here]
      rw [apart]
      by_cases inside : off + 1 ≤ a ∧ a < off + 1 + r.length
      · rw [if_pos inside, if_pos (by simp only [List.length_cons]; omega), show a - off = (a - (off + 1)) + 1 by omega, List.getD_cons_succ]
      · rw [if_neg inside, if_neg (by simp only [List.length_cons]; omega)]

@[simp] theorem Block.length_winRead (bk : Block) (off n : Nat) : (bk.winRead off n).length = n := by simp [Block.winRead]

/-! ### Window lines -/

theorem Block.unmarkLine_frame (bk : Block) (line q : Nat) :
    bk.unmarkLine line q = { bk with lines := (bk.unmarkLine line q).lines } := by
  unfold Block.unmarkLine
  split
  · rfl
  · split <;> rfl

/-- The end of a request's mark on a line leaves the other lines' marks alone. -/
theorem Block.lines_unmarkLine_ne (bk : Block) (line q k : Nat) (h : k ≠ line) :
    Tbl.get? (bk.unmarkLine line q).lines k = Tbl.get? bk.lines k := by
  unfold Block.unmarkLine
  split
  · rfl
  · split
    · rfl
    · dsimp only; split
      · exact Tbl.get_erase_ne _ _ _ h
      · exact Tbl.get_put_ne _ _ _ _ h

/-- A full line stays full, and one whose only mark ends becomes full (R224). -/
theorem Block.lines_unmarkLine_full (bk : Block) (line q : Nat)
    (h : Tbl.get? bk.lines line = none ∨ Tbl.get? bk.lines line = some [q]) : Tbl.get? (bk.unmarkLine line q).lines line = none := by
  unfold Block.unmarkLine
  rcases h with h | h
  · simp [h]
  · simp [h]

end Sys2Proof.Machine
end

section
/-! PROOF. The steps of a copy request (R19, R26, R224, R229, R234, R238, R314). -/

namespace Sys2Proof.Machine

open Sys2Proof Sys2Proof.Claims

/-! ### Start -/

/-- A move of no byte leaves the truth alone. -/
theorem MemSys.truth_moveUp_none (m : MemSys) (dev c lo hi : Nat) : (m.moveUp dev c lo hi ([] : List Nat).contains).truth = m.truth := by
  refine foldl_keep (fun n : MemSys => n.truth = m.truth) _ _ m rfl fun n lv hn => ?_
  split
  · have none : unpublished (n.view c lv) (fun a => ([] : List Nat).contains a && decide (lv < truthLevel dev a)) = [] := by
      simp [unpublished]
    rw [MemSys.moveAll, none]
    exact (MemSys.truth_settleSectors _ _ _).trans hn
  · exact hn

/-- In a queue of one request that is found with none before it. -/
theorem State.findReq_of_alone (s : State) (c : Nat) (r : CopyReq) (h : (s.core c).copyQ = [r]) : s.findReq c r.id = some (r, []) := by
  simp [State.findReq, h]

/-- A request alone in its queue, changed. -/
theorem State.copyQ_modReq_alone (s : State) (c : Nat) (r : CopyReq) (f : CopyReq → CopyReq) (h : (s.core c).copyQ = [r]) :
    ((s.modReq c r.id f).core c).copyQ = [f r] := by
  simp [State.modReq, h]

/-- A request that owes no promise takes none. -/
theorem State.payPromise_of_not_owed (s : State) (c q : Nat) (h : ∀ r ∈ (s.core c).copyQ, r.owed = false) : s.payPromise c q = s := by
  have none : (s.core c).copyQ.find? (fun r => r.id == q && r.owed) = none := by
    simp only [List.find?_eq_none]; intro r hr; simp [h r hr]
  simp [State.payPromise, none]

/-- Nothing is met where no physical address is read. -/
theorem MemSys.homeLost_nil (m : MemSys) (dev : Nat) : m.homeLost dev [] = false := by simp [MemSys.homeLost]

/-- R19, R26, R238: COPY_START of a window source. -/
theorem copiesStart : CopiesStart := by
  intro s c off o d r bk p alone queued kind owed parts hb going early kept src dst spa dpa pos
  have q : s.findReq c r.id = some (r, []) := s.findReq_of_alone c r alone
  have paid : s.payPromise c r.id = s := s.payPromise_of_not_owed c _ fun x hx => by
    rw [alone, List.mem_singleton] at hx; rw [hx, owed]
  have resolved : s.resolve c bk.ctx bk r = .ok [p] := by
    simp [State.resolve, parts, State.resolve1, kind]
  have cached : s.cachePart c bk.ctx p = s := by simp [State.cachePart, src, dst]
  have same : { r with parts := [p] } = r := by rw [← parts]
  have good : s.reqSector c [p] r.kind = [] := by
    simp [State.reqSector, spa, kind, MemSys.homeLost_nil, MemSys.fromTruth, MemSys.sectorFault, MemSys.faultOf]
  have data : startData r [s.sourceBytes c bk r p] = [bk.winRead off p.n] := by
    have read : bk.winRead off p.n ≠ [] := List.ne_nil_of_length_pos (by simpa using pos)
    simp [startData, State.sourceBytes, kind, src, CopyKind.srcLen, kept, parts, read]
  let t := ({ s with ms := s.ms.moveUp s.dev c 0 3 ([] : List Nat).contains } : State).modReq c r.id fun q =>
    { q with state := .started, again := false, parts := [{ p with data := bk.winRead off p.n }] }
  have began : s.begins c bk.ctx bk r [p] = t := by
    have still : (s.inheritAll bk.task []).saw bk.task (s.effectsAt c 0 []) = s := by
      simp [State.inheritAll, State.saw, State.effectsAt]
    have filled : s.fillFor c bk.ctx [] = s := rfl
    unfold State.begins
    simp [spa, same, good, still, filled, data, dpa, kept, t]
  have runs : s.copyBegin c r.id = s.begins c bk.ctx bk r [p] := by
    simp only [State.copyBegin, q, hb, List.any_nil, paid, resolved, List.foldl_cons, List.foldl_nil, cached, queued, going, early]
    rfl
  exact ⟨t, congrArg Host.Outcome.next (runs.trans began), rfl, MemSys.truth_moveUp_none _ _ _ _ _, rfl,
    State.copyQ_modReq_alone _ c r _ alone⟩

/-! ### Delivery -/

/-- Some bytes of a run written to the window, each at its place from the k-th on. -/
def Block.writeSome (bk : Block) (off : Nat) (l : List (Byte × Bool)) (k : Nat) : Block :=
  (l.zipIdx k).foldl (fun (k : Block) y => if y.1.2 then k.winWrite (off + y.2) [y.1.1] else k) bk

theorem Block.writeSome_cons (bk : Block) (off k : Nat) (y : Byte × Bool) (l : List (Byte × Bool)) :
    bk.writeSome off (y :: l) k = (if y.2 then bk.winWrite (off + k) [y.1] else bk).writeSome off l (k + 1) := rfl

/-- Writing some bytes changes the window alone. -/
theorem Block.writeSome_frame (bk : Block) (off k : Nat) (l : List (Byte × Bool)) :
    bk.writeSome off l k = { bk with win := (bk.writeSome off l k).win } := by
  induction l generalizing bk k with
  | nil => rfl
  | cons y r ih =>
    rw [Block.writeSome_cons, ih]
    split
    · rw [Block.winWrite_frame]
    · rfl

/-- The window after some bytes of a run are written: those, and the others as they were. -/
theorem Block.winByte_writeSome (bk : Block) (off k a : Nat) (l : List (Byte × Bool)) :
    (bk.writeSome off l k).winByte a =
      if off + k ≤ a ∧ a < off + k + l.length ∧ (l.getD (a - (off + k)) (0, false)).2 = true
      then (l.getD (a - (off + k)) (0, false)).1 else bk.winByte a := by
  induction l generalizing bk k with
  | nil => simp [Block.writeSome]
  | cons y r ih =>
    rw [Block.writeSome_cons, ih]
    by_cases here : a = off + k
    · subst here
      cases hy : y.2 <;> simp [Block.winByte_winWrite, hy]
    · have apart : (if y.2 then bk.winWrite (off + k) [y.1] else bk).winByte a = bk.winByte a := by
        split
        · rw [Block.winByte_winWrite, if_neg (by simp only [List.length_cons, List.length_nil]; omega)]
        · rfl
      rw [apart]
      by_cases low : a < off + k
      · rw [if_neg (by omega), if_neg (by omega)]
      · rw [show a - (off + k) = (a - (off + (k + 1))) + 1 by omega, List.getD_cons_succ]
        exact if_congr (by simp only [List.length_cons]; constructor <;> (rintro ⟨h1, h2, h3⟩; exact ⟨by omega, by omega, h3⟩)) rfl rfl

/-- The marks of a request end on the lines of a list but for those that it has bytes left in (R224). -/
def Block.unmarkLines (bk : Block) (q : Nat) (left : Nat → Bool) (ls : List Nat) : Block :=
  ls.foldl (fun k ln => if left ln then k else k.unmarkLine ln q) bk

theorem Block.unmarkLines_frame (bk : Block) (q : Nat) (left : Nat → Bool) (ls : List Nat) :
    bk.unmarkLines q left ls = { bk with lines := (bk.unmarkLines q left ls).lines } := by
  refine foldl_keep (fun k : Block => k = { bk with lines := k.lines }) _ ls bk rfl fun k ln hk => ?_
  split
  · exact hk
  · rw [Block.unmarkLine_frame, hk]

/-- A line that the request has bytes left in keeps its marks. -/
theorem Block.lines_unmarkLines_left (bk : Block) (q line : Nat) (left : Nat → Bool) (ls : List Nat) (h : left line = true) :
    Tbl.get? (bk.unmarkLines q left ls).lines line = Tbl.get? bk.lines line := by
  refine foldl_keep (fun k : Block => Tbl.get? k.lines line = Tbl.get? bk.lines line) _ ls bk rfl fun k ln hk => ?_
  split
  · exact hk
  · next hl => rw [Block.lines_unmarkLine_ne _ _ _ _ fun e => hl (by rw [← e, h]), hk]

/-- A line whose only mark is the request's, and that it has no byte left in, becomes full. -/
theorem Block.lines_unmarkLines_full (bk : Block) (q line : Nat) (left : Nat → Bool) (ls : List Nat) (done : left line = false)
    (mem : line ∈ ls) (mark : Tbl.get? bk.lines line = some [q]) : Tbl.get? (bk.unmarkLines q left ls).lines line = none := by
  have stays : ∀ (k : Block) (r : List Nat), Tbl.get? k.lines line = none → Tbl.get? (k.unmarkLines q left r).lines line = none :=
    fun k r hk => foldl_keep (fun k : Block => Tbl.get? k.lines line = none) _ r k hk fun k ln hk => by
      split
      · exact hk
      · by_cases e : line = ln
        · exact e ▸ Block.lines_unmarkLine_full _ _ _ (.inl (e ▸ hk))
        · rw [Block.lines_unmarkLine_ne _ _ _ _ e, hk]
  induction ls generalizing bk with
  | nil => cases mem
  | cons ln r ih =>
    by_cases e : line = ln
    · subst e
      refine stays _ r ?_
      simp only [done, Bool.false_eq_true, if_false]
      exact Block.lines_unmarkLine_full _ _ _ (.inr mark)
    · refine ih _ ((List.mem_cons.mp mem).resolve_left e) ?_
      dsimp only
      split
      · exact mark
      · rw [Block.lines_unmarkLine_ne _ _ _ _ e, mark]

/-- The bits of a part's delivered bytes after some more. -/
theorem Part.testBit_after (p : Part) (fresh : List Bool) (i : Nat) :
    (p.after fresh).got.testBit i = (p.got.testBit i || fresh.getD i false) := by
  have go : ∀ (l : List Bool) (k m : Nat), ((l.zipIdx k).foldl (fun (m : Nat) y => if y.1 then m ||| 2 ^ y.2 else m) m).testBit i =
      (m.testBit i || (decide (k ≤ i) && l.getD (i - k) false)) := by
    intro l
    induction l with
    | nil => simp
    | cons b r ih =>
      intro k m
      rw [List.zipIdx_cons, List.foldl_cons, ih]
      by_cases e : i = k
      · subst e
        cases b <;> simp [show ¬ i + 1 ≤ i by omega]
      · have bit : (if b then m ||| 2 ^ k else m).testBit i = m.testBit i := by
          split
          · simp [Nat.testBit_two_pow, Ne.symm e]
          · rfl
        rw [bit]
        by_cases low : i < k
        · simp [show ¬ k + 1 ≤ i by omega, show ¬ k ≤ i by omega]
        · rw [show i - k = (i - (k + 1)) + 1 by omega, List.getD_cons_succ]
          simp [show k + 1 ≤ i by omega, show k ≤ i by omega]
  exact (go fresh 0 p.got).trans (by simp)

/-- The bytes of a plain part that is still read: those of the mask not delivered yet. -/
theorem getD_freshBytes (r : CopyReq) (p : Part) (mask i : Nat) (kind : r.kind = .plain) (kept : p.dropped = false) :
    (freshBytes r p mask).getD i false = (decide (i < p.n) && (!p.got.testBit i && mask.testBit i)) := by
  by_cases h : i < p.n <;> simp [freshBytes, kind, kept, h]

/-- In a request of one part nothing written later stands in the way. -/
theorem keepMask_of_alone (r : CopyReq) (p : Part) (mask : Nat) (parts : r.parts = [p]) : keepMask r 0 p mask = freshBytes r p mask := by
  simp [keepMask, parts]

/-- What a part has of its bytes after those of a mask: it is done when it has them all. -/
theorem Part.after_freshBytes (r : CopyReq) (p : Part) (mask : Nat) (kind : r.kind = .plain) (kept : p.dropped = false)
    (low : p.got < 2 ^ p.n) :
    (∀ i, (p.after (freshBytes r p mask)).got.testBit i = (p.got.testBit i || (decide (i < p.n) && mask.testBit i))) ∧
    ((p.after (freshBytes r p mask)).done = true ↔ ∀ i, i < p.n → p.got.testBit i = true ∨ mask.testBit i = true) := by
  have bits : ∀ i, (p.after (freshBytes r p mask)).got.testBit i = (p.got.testBit i || (decide (i < p.n) && mask.testBit i)) := fun i => by
    rw [Part.testBit_after, getD_freshBytes r p mask i kind kept]
    cases p.got.testBit i <;> simp
  refine ⟨bits, (show _ ↔ (p.after (freshBytes r p mask)).got = 2 ^ p.n - 1 by simp [Part.after]).trans ⟨fun h i hi => ?_, fun h => ?_⟩⟩
  · have all := bits i
    rw [h, Nat.testBit_two_pow_sub_one] at all
    simpa [hi] using all.symm
  · refine Nat.eq_of_testBit_eq fun i => ?_
    rw [bits, Nat.testBit_two_pow_sub_one]
    by_cases hi : i < p.n
    · simpa [hi] using h i hi
    · have high : p.got.testBit i = false := Nat.testBit_lt_two_pow (Nat.lt_of_lt_of_le low (Nat.pow_le_pow_right (by decide) (Nat.le_of_not_lt hi)))
      simp [hi, high]

/-- The lines of block b's window that request r has bytes left in once a step has delivered some more (R224). -/
def linesLeft (r : CopyReq) (b : Nat) (fresh : List Bool) (line : Nat) : Bool :=
  r.parts.zipIdx.any fun x => !x.1.done && (match x.1.dst with
    | .win d q => d == b && (List.range x.1.n).any fun i =>
        (q + i) / 128 == line && !x.1.got.testBit i && !(x.2 == 0 && fresh.getD i false)
    | .glob _ => false)

/-- A line has bytes left just where one of the part's bytes there is neither delivered nor in the mask. -/
theorem linesLeft_iff (r : CopyReq) (b off mask : Nat) (p : Part) (line : Nat) (parts : r.parts = [p]) (kind : r.kind = .plain)
    (todo : p.done = false) (kept : p.dropped = false) (dst : p.dst = .win b off) :
    linesLeft r b (freshBytes r p mask) line = true ↔
      ∃ i, i < p.n ∧ (off + i) / 128 = line ∧ p.got.testBit i = false ∧ mask.testBit i = false := by
  have fresh := fun i => getD_freshBytes r p mask i kind kept
  simp only [linesLeft, parts, List.zipIdx_cons, List.zipIdx_nil, List.any_cons, List.any_nil, Bool.or_false, todo, dst, fresh,
    List.any_eq_true, List.mem_range, Bool.and_eq_true, Bool.not_eq_true', beq_self_eq_true, Bool.true_and, Bool.not_false, beq_iff_eq]
  refine exists_congr fun i => and_congr_right fun hi => ?_
  cases p.got.testBit i <;> simp [hi]

/-- R26, R224, R229: COPY_DELIVER of bytes for a window. -/
theorem copiesDeliver : CopiesDeliver := by
  intro s c e b off mask r bk y p alone started parts kind bar hb hy place drain todo kept dst len dpa low all
  have q : s.findReq c r.id = some (r, []) := s.findReq_of_alone c r alone
  let fresh := freshBytes r p mask
  let f := fun y : Block => (y.writeSome off (p.data.zip fresh) 0).unmarkLines r.id (linesLeft r b fresh) (linesOf off p.n)
  let u := s.modBlock b f
  let t := if (p.after fresh).done then u.modCore c fun k => { k with copyQ := k.copyQ.filter fun x => x.id != r.id }
    else u.modReq c r.id fun x => { x with parts := [p.after fresh] }
  have delivers : s.copyStep c r.id 0 mask = t := by
    have may : s.mayDeliver c r p = true := by simp [State.mayDeliver, dst, hy, place, Block.pausing, drain]
    have written : s.deliverWin r 0 b off p mask = u := by
      show s.modBlock b _ = _
      rw [keepMask_of_alone r p mask parts]; rfl
    calc s.copyStep c r.id 0 mask = s.deliverPart c r.id 0 mask := by
          simp [State.copyStep, q, parts, hb, started, todo, may, dpa, kind, MemSys.homeLost_nil, kept, State.dstVersions, State.inheritAll]
          cases r.node <;> simp
      _ = t := by
          simp [State.deliverPart, q, parts, todo, dst, written, State.countPart, bar, t, fresh]
  obtain ⟨bits, done⟩ := Part.after_freshBytes r p mask kind kept low
  have found : t.block? b = some (f y) := by
    have hu : u.block? b = some (f y) := by simp [u, hy]
    simp only [t]; split <;> exact hu
  refine ⟨t, f y, congrArg Host.Outcome.next delivers, ?_, ?_, found, fun a => ?_, fun d hd => ?_, fun h => ?_, fun h => ?_⟩
  · simp only [t]; split <;> rfl
  · simp only [t]; split <;> rfl
  · have size : (p.data.zip fresh).length = p.n := by simp [len, fresh, freshBytes]
    have bit := fun i => getD_freshBytes r p mask i kind kept
    simp only [f]
    rw [Block.unmarkLines_frame]
    show (y.writeSome off (p.data.zip fresh) 0).winByte a = _
    rw [Block.winByte_writeSome, size]
    by_cases inside : off ≤ a ∧ a < off + p.n
    · obtain ⟨lo, hi⟩ := inside
      have val : (p.data.zip fresh).getD (a - off) (0, false) = (p.data.getD (a - off) 0, fresh.getD (a - off) false) := by
        have h1 : a - off < p.data.length := by omega
        have h2 : a - off < fresh.length := by simp [fresh, freshBytes]; omega
        simp [List.getD_eq_getElem, h1, h2]
      rw [Nat.add_zero, val, bit]
      exact if_congr (by simp [lo, hi, show a - off < p.n by omega]) rfl rfl
    · rw [if_neg fun h => inside ⟨h.1, h.2.1⟩, if_neg fun h => inside ⟨h.1, h.2.1⟩]
  · have hu : u.block? d = s.block? d := by simp [u, hd]
    simp only [t]; split <;> exact hu
  · have ends : t = u.modCore c fun k => { k with copyQ := k.copyQ.filter fun x => x.id != r.id } := if_pos (done.mpr h)
    refine ⟨by simp [ends, u, alone], fun line mem mark => ?_⟩
    refine Block.lines_unmarkLines_full _ _ _ _ _ ?_ mem ?_
    · rw [Bool.eq_false_iff, Ne, linesLeft_iff r b off mask p line parts kind todo kept dst]
      rintro ⟨i, hi, -, g, m⟩
      rcases h i hi with h | h
      · rw [g] at h; cases h
      · rw [m] at h; cases h
    · rw [Block.writeSome_frame]; exact mark
  · have more : t = u.modReq c r.id fun x => { x with parts := [p.after fresh] } := if_neg fun d => h (done.mp d)
    refine ⟨⟨(p.after fresh).got, ?_, bits⟩, fun i hi g m => ?_⟩
    · have undone : (p.after fresh).done = false := Bool.eq_false_iff.mpr fun d => h (done.mp d)
      have next : p.after fresh = { p with got := (p.after fresh).got } := by
        conv_lhs => rw [show p.after fresh = { p with got := (p.after fresh).got, done := (p.after fresh).done } from rfl, undone, ← todo]
      rw [more, State.copyQ_modReq_alone u c r _ alone, ← next]
    · refine (Block.lines_unmarkLines_left _ _ _ _ _ ?_).trans ?_
      · exact (linesLeft_iff r b off mask p _ parts kind todo kept dst).mpr ⟨i, hi, rfl, g, m⟩
      · rw [Block.writeSome_frame]

/-! ### Promises that pass -/

/-- R234, R314: LATE. -/
theorem promisesMissed : PromisesMissed := by
  intro s c b d p r bk hb core alone own still steady once lt fresh due promise passed
  have q : (s.reqsOf c b).find? (·.id == r.id) = some r := by simp [State.reqsOf, alone, own]
  let f := fun bk : Block => bk.modThreads ((bk.liveLanes r.w).map fun l => (r.w, l)) fun t => { t with lates := t.lates ++ [BitVec.ofNat 64 p] }
  let u := s.mapReqs c b fun x => if x.id == r.id then { x with late := true } else x
  have runs : s.lateReq b r.id = u.modBlock b f := by
    unfold State.lateReq
    simp only [hb, core, q, due, promise]
    refine if_neg (Bool.eq_false_iff.mp (Bool.or_eq_false_iff.mpr ⟨by simp [lt, fresh, own, Nat.not_lt.mpr passed],
      Bool.or_eq_false_iff.mpr ⟨still, List.any_eq_false.mpr fun y hy => ?_⟩⟩))
    cases hd : y.dst with
    | glob a => simp
    | win t o => cases hz : s.block? t with
      | none => simp only [hz]; decide
      | some z => simp only [hz, steady y hy t o z hd hz]; decide
  have there : u.block? b = some { bk with carried := bk.carried.map fun x => if x.id == r.id then { x with late := true } else x } := by
    simp [u, State.mapReqs, hb]
  refine ⟨u.modBlock b f, _, congrArg Host.Outcome.next runs, rfl, ?_, by rw [State.block_modBlock_self, there]; rfl, fun l hl => ?_⟩
  · show (u.core c).copyQ = _
    simp [u, State.mapReqs, alone, own]
  · have named : ((bk.liveLanes r.w).map fun l => (r.w, l)).Nodup := once.map fun _ _ e => (Prod.mk.inj e).2
    refine (congrArg Thread.lates (Block.thread_modThreads { bk with carried := _ } _ _ named r.w l)).trans ?_
    rw [if_pos (List.mem_map_of_mem hl)]; rfl

end Sys2Proof.Machine

namespace Sys2Proof.Proofs

open Sys2Proof Sys2Proof.Machine

/-- Settles O50: a request alone in its queue has one step for each event, and a Deliver step is read off the window byte by byte. -/
theorem copySteps : Obligations.CopySteps := ⟨copiesStart, copiesDeliver, promisesMissed⟩

end Sys2Proof.Proofs
end

section
/-! PROOF. Translation: accesses that fail, and requests that go on (R19, R90, R106, R204, R223, R352). -/

namespace Sys2Proof.Machine

open Sys2Proof Sys2Proof.Claims

/-- R19, R90: an access that does not stand in line stays where it is. -/
theorem translationsKeepProgramOrder : TranslationsKeepProgramOrder := by
  intro s b q bk hb line
  refine congrArg Host.Outcome.next ?_
  simp [State.tryOp, hb, line]

/-! ### Operations of a block that end -/

/-- What is read of a thread after all threads of the block have changed alike, if the change leaves it alone. -/
theorem Block.thread_allThreads {α : Type} (bk : Block) (f : Thread → Thread) (w l : Nat) (g : Thread → α) (h : ∀ t, g (f t) = g t) :
    g ((bk.allThreads f).thread w l) = g (bk.thread w l) := by
  simp only [Block.thread, Block.warp, Block.allThreads, Tbl.getD, Tbl.get_mapVal, Warp.thread]
  cases Tbl.get? bk.warps w with
  | none => rfl
  | some wp =>
    simp only [Option.map_some, Option.getD_some, Tbl.get_mapVal]
    cases Tbl.get? wp.threads l with
    | none => rfl
    | some t => exact h t

/-- The end of operations leaves all but the operations and the threads' holds alone, and an operation with an access held stays. -/
theorem Block.retire_spec (bk : Block) (now : Nat) :
    (bk.retire now).win = bk.win ∧ (∀ w l, ((bk.retire now).thread w l).memFault = (bk.thread w l).memFault) ∧
      ∀ q ∈ bk.ops, q.held ≠ [] → q ∈ (bk.retire now).ops := by
  unfold Block.retire
  dsimp only
  split
  · exact ⟨rfl, fun _ _ => rfl, fun _ h _ => h⟩
  · refine ⟨rfl, fun w l => Block.thread_allThreads _ _ w l Thread.memFault fun _ => rfl, fun q h held => List.mem_filter.mpr ⟨h, ?_⟩⟩
    simp [held]

/-! ### Accesses that fail -/

/-! Where no access performs, no effect is read, no line is charged, no version is made, and nothing is marked. -/

@[simp] theorem State.saw_nil (s : State) (t : Nat) : s.saw t [] = s := rfl
@[simp] theorem State.inheritAll_nil (s : State) (t : Nat) : s.inheritAll t [] = s := rfl
@[simp] theorem State.newVersions_nil (s : State) (c n : Nat) : s.newVersions c n [] = 0 := by simp [State.newVersions]
@[simp] theorem State.chargeLines_nil (s : State) (m : MemSys) (c x : Nat) (i : Instr) : s.chargeLines m c x i [] = s := rfl
@[simp] theorem State.effectsRead_nil (s : State) (c x : Nat) (i : Instr) : s.effectsRead c x i [] = [] := by
  unfold State.effectsRead
  split
  · rfl
  · split
    · simp [State.effectsAt]
    · rfl

@[simp] theorem State.markWritten_nil (s : State) (c x t : Nat) (i : Instr) : s.markWritten c x t i [] = s := by
  unfold State.markWritten
  split
  · rfl
  · split
    · rfl
    · split
      · simp [MemSys.markEffects]
      · rfl

theorem State.performMem_of_failed (s : State) (b c : Nat) (bk : Block) (o : MemOp) (a : Access) (e : Code) (hb : s.block? b = some bk)
    (core : bk.core? = some c) (found : bk.ops.find? (·.id == o.id) = some o) (one : o.todo = [a])
    (plain : (∃ x, o.i = .stg x) ∨ ∃ x, o.i = .ldg x) (walked : s.walkBad c bk.ctx a.addr = none) (fails : s.xlat c bk.ctx o.i a = .error e) :
    ∃ (n : MemOp → Option Nat) (now : Nat), s.performMem b o.id =
      (((s.cached c bk.ctx a.addr).modBlock b fun bk => { bk with ops := bk.ops.map fun (q : MemOp) =>
        if q.id == o.id then { q with todo := [], held := q.held ++ [a], waits := false, arrive := n q } else q }).recordFaults b o.id o.pc
          [(a, e)]).modBlock b fun bk => bk.retire now := by
  have sorted : sortBy (fun (a : Access) => a.lane) o.todo = [a] := by rw [one]; rfl
  unfold State.performMem
  rcases plain with ⟨x, hi⟩ | ⟨x, hi⟩ <;>
  · simp only [hb, core, found, sorted, hi, onCounters] at fails ⊢
    cases tag : (s.cached c bk.ctx a.addr).nodeTag bk.task <;> simp [walked, fails, tag] <;> exact ⟨_, _, rfl⟩

/-- A fault found for one access of a live thread, which has none: it is the thread's to take (R106). -/
theorem State.recordFaults_one (s : State) (b id : Nat) (pc : DWord) (a : Access) (e : Code) (bk : Block) (hb : s.block? b = some bk)
    (he : e ≠ .integrity) (live : (bk.thread a.w a.lane).live = true) :
    s.recordFaults b id pc [(a, e)] = s.modThread b a.w a.lane fun t =>
      if t.memFault.isSome || (t.recorded.isSome && a.lv == .user) then t
      else { t with memFault := some (id, { code := e, fpc := pc, faddr := BitVec.ofNat 64 a.addr, fmask := maskOf [a.lane] }) } := by
  simp [State.recordFaults, State.foundFault, he, hb, live]

/-- The record of a MEMUE is the host's alone. -/
@[simp] theorem State.recordMemue_ms (s : State) (x : Nat) (e : Entry) : (s.recordMemue x e).ms = s.ms := by
  unfold State.recordMemue; split <;> rfl
@[simp] theorem State.recordMemue_blocks (s : State) (x : Nat) (e : Entry) : (s.recordMemue x e).blocks = s.blocks := by
  unfold State.recordMemue; split <;> rfl
@[simp] theorem State.recordMemue_ctxs (s : State) (x : Nat) (e : Entry) : (s.recordMemue x e).ctxs = s.ctxs := by
  unfold State.recordMemue; split <;> rfl

/-- R106, R352: an access whose translation fails. -/
theorem failedTranslationsAreFound : FailedTranslationsAreFound := by
  intro s b c bk o a x u hb core found line one plain hu
  have perform : s.tryOp b o.id = s.performMem b o.id := by
    rcases plain with hi | ⟨hi, -⟩ <;> simp [State.tryOp, State.perform, hb, line, found, hi]
  refine ⟨fun e walked fails he live fresh none => ?_, fun e walked => ?_⟩
  · obtain ⟨n, now, runs⟩ := s.performMem_of_failed b c bk o a e hb core found one (by tauto) walked fails
    obtain ⟨hm, ⟨-, -, hbs, -⟩, -⟩ := s.cached_only c bk.ctx a.addr
    let g := fun bk : Block => { bk with ops := bk.ops.map fun (q : MemOp) =>
      if q.id == o.id then { q with todo := [], held := q.held ++ [a], waits := false, arrive := n q } else q }
    have there : ((s.cached c bk.ctx a.addr).modBlock b g).block? b = some (g bk) := by
      rw [State.block_modBlock_self, State.block?, hbs]; exact congrArg (Option.map g) hb
    rw [State.recordFaults_one _ b o.id o.pc a e (g bk) there he live] at runs
    obtain ⟨win, faults, ops⟩ := Block.retire_spec ((g bk).modThread a.w a.lane fun t =>
      if t.memFault.isSome || (t.recorded.isSome && a.lv == .user) then t
      else { t with memFault := some (o.id, { code := e, fpc := o.pc, faddr := BitVec.ofNat 64 a.addr, fmask := maskOf [a.lane] }) }) now
    refine ⟨_, _, congrArg Host.Outcome.next (perform.trans runs), ?_, ?_, ?_, ?_, ?_, win, ?_, ?_⟩
    · exact (congrArg MemSys.truth hm :)
    · exact (congrArg MemSys.v hm :)
    · exact (congrArg MemSys.g hm :)
    · exact (congrArg MemSys.d hm :)
    · rw [State.block_modBlock_self, State.modThread, State.block_modBlock_self, there]; rfl
    · have same : (g bk).thread a.w a.lane = bk.thread a.w a.lane := rfl
      rw [faults, Block.thread_modThread_self, same, fresh, none]; rfl
    · have mem : o ∈ bk.ops := List.mem_of_find?_eq_some found
      refine ⟨_, ops _ (List.mem_map_of_mem mem) (by simp), by simp, by simp, by simp⟩
  · have ends : s.performMem b o.id =
        s.endCtx bk.ctx { code := e, fpc := o.pc, faddr := BitVec.ofNat 64 a.addr, fmask := maskOf [a.lane] } := by
      have sorted : sortBy (fun (a : Access) => a.lane) o.todo = [a] := by rw [one]; rfl
      have counters : onCounters o.i = false := by rcases plain with hi | ⟨hi, -⟩ <;> rw [hi] <;> rfl
      simp [State.performMem, hb, core, found, sorted, counters, walked]
    have ctx : Tbl.get? (s.endCtx bk.ctx { code := e, fpc := o.pc, faddr := BitVec.ofNat 64 a.addr, fmask := maskOf [a.lane] }).ctxs bk.ctx =
        some { u with ending := some (u.ending.getD (e.num, o.pc, BitVec.ofNat 64 a.addr)) } := by
      rw [State.endCtx, State.modCtx, Tbl.get_mod_self, State.recordMemue_ctxs, hu]
      cases hx : u.ending with
      | none => simp [hx]
      | some y => simp only [Option.map_some, hx, Option.getD_some]; rw [← hx]
    exact ⟨_, _, congrArg Host.Outcome.next (perform.trans ends), by simp [State.endCtx], by simp [State.endCtx], ctx, rfl⟩

/-- The translations of a part cache entries, and charge what their walks bring to home slices. -/
theorem State.cachePart_only (s : State) (c x : Nat) (p : Part) : ChargedOnly s (s.cachePart c x p) x := by
  have one : ∀ (t : State) (d : Side), ChargedOnly t (match d with
      | .glob va => t.cached c x va
      | .win _ _ => t) x := fun t d => by
    cases d with
    | glob va => exact t.cached_only c x va
    | win b o => exact ChargedOnly.refl t x
  unfold State.cachePart
  cases p.src with
  | none => exact one s p.dst
  | some d => exact (one s d).trans (one _ p.dst)

/-- R19, R223: a copy request. -/
theorem requestsTranslate : RequestsTranslate := by
  intro s c r bk p p' alone state owed kind parts hb
  have paid : s.payPromise c r.id = s := s.payPromise_of_not_owed c _ fun x hx => by
    rw [alone, List.mem_singleton] at hx; rw [hx, owed]
  refine ⟨fun early goes => ?_, fun late => congrArg Host.Outcome.next ?_⟩
  · have runs : s.xlatReq c r.id = (s.cachePart c bk.ctx p).modReq c r.id fun r => { r with state := .queued, again := false, parts := [p'] } := by
      simp [State.xlatReq, paid, alone, state, hb, CopyReq.isGather, kind, early, parts, goes]
    obtain ⟨hm, ⟨cyc, cores, blocks, -⟩, -⟩ := s.cachePart_only c bk.ctx p
    have queue : ((s.cachePart c bk.ctx p).core c).copyQ = [r] := by rw [State.core, cores]; exact alone
    exact ⟨_, congrArg Host.Outcome.next runs, blocks, (congrArg MemSys.truth hm :), cyc, State.copyQ_modReq_alone _ c r _ queue⟩
  · simp [State.xlatReq, paid, alone, state, hb, CopyReq.isGather, kind, late]

end Sys2Proof.Machine

namespace Sys2Proof.Proofs

open Sys2Proof Sys2Proof.Machine

/-- Settles O49: a failed access performs nothing and is held, and a request whose bytes translate is queued. -/
theorem translationsDecide : Obligations.TranslationsDecide :=
  ⟨translationsKeepProgramOrder, failedTranslationsAreFound, requestsTranslate⟩

end Sys2Proof.Proofs
end

section
/-! PROOF. Local stores and atomics of one thread, at once and by their event (R19, R21, R97, R198, R209, R213, R214). -/

namespace Sys2Proof.Machine

open Sys2Proof Sys2Proof.Claims

/-! ### A group of one thread -/

theorem Issuing.here_eq {s : State} {bk : Block} (h : Issuing s bk) : s.here = bk := by simp [State.here, h.here]

theorem warpsOf_one (w l : Nat) : warpsOf [(w, l)] = [w] := rfl

/-- The thread lags just where an earlier memory word of its own awaits its step (R19). -/
theorem lag_iff_lags {s : State} {bk : Block} {w l : Nat} (h : Alone s bk w l) : Lag s bk ↔ s.lags = true := by
  simp [Lag, State.lags, State.warps, h.grp, warpsOf_one, State.warpLags, State.lanesOf, h.issuing.here_eq]

/-- The threads of a guarded word. -/
theorem mGroup_of_alone {s : State} {bk : Block} {w l : Nat} (h : Alone s bk w l) (x : MWord) :
    s.mGroup x = if s.guard w l x.g x.gn then [(w, l)] else [] := by
  simp only [State.mGroup, State.guarded, h.grp, List.filter_cons, List.filter_nil]

/-- A change of the issuing block is a change of it alone. -/
theorem State.only_modHere (s : State) (f : Block → Block) : OnlyBlock s (s.modHere f) :=
  ⟨rfl, rfl, rfl, rfl, rfl, rfl, fun b hb => Tbl.get_mod_ne s.blocks s.iss.blk b f hb, fun _ => rfl⟩

/-! ### A local word that joins -/

/-- The issuing block is the same one after a change of it. -/
theorem OnlyBlock.blk {s t : State} (h : OnlyBlock s t) : t.iss.blk = s.iss.blk := by
  obtain ⟨-, -, -, -, -, iss, -⟩ := h
  rw [iss]

/-- The results of one thread's operation enter flight. -/
theorem State.posts_postGroup (s : State) (id w l : Nat) (regs : List Reg) (last : Bool) : Posts s (s.postGroup id w l regs last) := by
  cases regs with
  | nil => cases last with
    | true => exact s.posts_post ..
    | false => exact Posts.refl s
  | cons r rest => exact (s.posts_post ..).trans (Posts.foldl _ _ _ fun t a => t.posts_post ..)

/-- The operation that a local word of one thread makes joins its block's, and its result is in flight without a value (R19, R106). -/
theorem State.joined_local (s : State) (bk : Block) (i : Instr) (regs : List Reg) (last : Bool) (a : Access) (h : Issuing s bk)
    (few : ∀ r ∈ regs, regs = [r]) (kind : (∃ x, i = .stl x) ∨ ∃ x, i = .amol x) : Joined s (s.joinOp i regs last [a]) bk i regs [a] := by
  let s1 : State := { s.openAll (warpsOf [(a.w, a.lane)]) regs with seq := s.seq + 1 }
  let s2 := s1.postGroup s.seq a.w a.lane regs last
  have runs : s.joinOp i regs last [a] = s2.addOp s.seq i [a] := by
    rcases kind with ⟨x, rfl⟩ | ⟨x, rfl⟩ <;> rfl
  have local_ : scalarResult i = false := by rcases kind with ⟨x, rfl⟩ | ⟨x, rfl⟩ <;> rfl
  have opens : Opens s s1 := ⟨(s.opens_openAll _ regs).only, (s.opens_openAll _ regs).block⟩
  obtain ⟨only, kept⟩ := opens.posts bk h.here (s1.posts_postGroup s.seq a.w a.lane regs last)
  obtain ⟨x, hx, -⟩ := opens.block bk h.here
  obtain ⟨y, hy, -⟩ := (s1.posts_postGroup s.seq a.w a.lane regs last).block x (by rw [opens.only.blk]; exact hx)
  have there : s2.block? s2.iss.blk = some y := by rw [only.blk, ← opens.only.blk]; exact hy
  have at2 : s2.here = y := by simp [State.here, there]
  obtain ⟨-, -, -, -, win, -, -, -, -, -, ops⟩ := kept
  obtain ⟨o, here, hid, instr, pc, issued, todo, held, parked, arrive⟩ : ∃ o, (s2.addOp s.seq i [a]).here = { y with ops := y.ops ++ [o] } ∧
      o.id = s.seq ∧ o.i = i ∧ o.pc = s2.iss.addr ∧ o.issued = s2.cyc ∧ o.todo = [a] ∧ o.held = [] ∧ o.parked = [] ∧ o.arrive = none :=
    ⟨_, s2.here_modBlock _ y there, rfl, rfl, rfl, rfl, rfl, rfl, rfl, rfl⟩
  have cyc : s2.cyc = s.cyc := by obtain ⟨-, h, -⟩ := only; exact h
  have iss : s2.iss = s.iss := by obtain ⟨-, -, -, -, -, h, -⟩ := only; exact h
  rw [at2] at win ops
  rw [runs]
  refine ⟨only.trans (s2.only_modHere _), ⟨o, ?_, hid, instr, ?_, ?_, todo, held, parked, arrive⟩, ?_, fun _ b hb r hr => ?_, fun hs => ?_⟩
  · rw [here, ← ops]
  · rw [pc, iss]
  · rw [issued, cyc]
  · rw [here, ← win]
  · obtain rfl := List.mem_singleton.mp hb
    obtain rfl := few r hr
    have posted : s2.block? s1.iss.blk = _ := s1.here_post x (by rw [opens.only.blk]; exact hx) s.seq none (s1.target b.w b.lane r) 0
      (if last then s1.lastOf b.w b.lane else none)
    have pend := congrArg Block.pend (Option.some.inj (hy.symm.trans posted))
    rw [Block.pend_markEmpty] at pend
    rw [here]
    exact ⟨{ op := s.seq, due := none, seq := s1.seq, tgt := s1.target b.w b.lane r, val := 0, last := _, wrote := _ },
      by rw [show y.pend = _ from pend]; exact List.mem_append_right _ (List.mem_singleton_self _), rfl, rfl, rfl⟩
  · rw [local_] at hs; cases hs

/-! ### Stores at once -/

/-- A write to the window of the issuing block. -/
theorem State.here_winWrite (s : State) (bk : Block) (off : Nat) (bs : List Byte) (h : s.block? s.iss.blk = some bk) :
    (s.modHere fun k => k.winWrite off bs).here = { bk with win := (bk.winWrite off bs).win } := by
  rw [State.modHere, State.here_modBlock s _ bk h, Block.winWrite_frame]

/-- R198, R209: STL. -/
theorem localStores : LocalStores := by
  intro s bk w l x h
  have checked := h.issuing.checked
  refine ⟨fun lag guard => ⟨_, ?_, s.joined_local bk _ [] false _ h.issuing (by simp) (.inl ⟨x, rfl⟩)⟩, fun free => ?_⟩
  · have lags := (lag_iff_lags h).mp lag
    refine congrArg Host.Outcome.next ?_
    simp [checked, lags, mGroup_of_alone h, guard]
  · have now : (s.lags && !(s.mGroup x).isEmpty) = false := by
      rcases free with free | free
      · rw [Bool.eq_false_iff.mpr fun e => free ((lag_iff_lags h).mpr e)]; rfl
      · simp [mGroup_of_alone h, free]
    have runs : exec (.stl x) s = .next (s.localStore x) := by
      refine congrArg Host.Outcome.next ?_
      simp [checked, now]
    refine ⟨_, runs, ?_⟩
    cases guard : s.guard w l x.g x.gn with
    | false =>
      have same : s.localStore x = s := by simp [State.localStore, mGroup_of_alone h, guard]
      rw [same, h.issuing.here_eq]
      exact ⟨OnlyBlock.refl s, rfl, fun a => by simp⟩
    | true =>
      have one : s.localStore x = s.modHere fun k => k.winWrite (s.plainOff x w l) (s.dataOf w l x.b x.bytes) := by
        simp [State.localStore, mGroup_of_alone h, guard]
      rw [one, s.here_winWrite bk _ _ h.issuing.here]
      exact ⟨s.only_modHere _, rfl, fun a => by rw [if_pos rfl]; exact bk.winByte_winWrite _ _ a⟩

/-! ### Atomics at once -/

/-- One word comes from one bank (R97). -/
@[simp] theorem bankLoad_one (a : Nat) : bankLoad [a] = 1 := by
  have one : ∀ r < 32, maxBy (fun b => if r = b then 1 else 0) (List.range 32) = 1 := by decide
  have count : ∀ b, ([a].filter fun x => x % 32 == b).length = if a % 32 = b then 1 else 0 := fun b => by
    by_cases h : a % 32 = b <;> simp [h]
  simp only [bankLoad, count]
  exact one _ (Nat.mod_lt _ (by decide))

/-- The word of four bytes. -/
theorem wordAt_winRead (bk : Block) (off : Nat) : wordAt (bk.winRead off 4) 0 = BitVec.ofNat 32 (ofBytes (bk.winRead off 4)) := by
  simp [wordAt, List.take_of_length_le]

/-- What AMOL writes and loads for one thread: the state after its names are open and its window byte is written, and then its result (R214). -/
theorem localAtomic_of_alone {s : State} {bk : Block} {w l : Nat} (h : Alone s bk w l) (x : MWord) (guard : s.guard w l x.g x.gn = true) :
    let off := s.plainOff x w l
    let old := wordAt (bk.winRead off 4) 0
    s.localAtomic x = ((s.openAll (warpsOf [(w, l)]) (x.d.group 1)).modHere fun k =>
      k.winWrite off (toBytes 4 (atomicOp x.kind.toNat old (s.val w l (.reg x.b))).toNat)).writeGroup w l (x.d.group 1) 8 [old] := by
  intro off old
  have opens := s.opens_openAll (warpsOf [(w, l)]) (x.d.group 1)
  obtain ⟨y, hy, kept, -⟩ := opens.block bk h.issuing.here
  obtain ⟨-, -, -, -, win, -⟩ := kept
  obtain ⟨-, -, -, -, -, iss, -⟩ := opens.only
  have word : BitVec.ofNat 32 (ofBytes ((s.openAll (warpsOf [(w, l)]) (x.d.group 1)).here.winRead off 4)) = old := by
    rw [show old = _ from wordAt_winRead bk off, State.here, opens.only.blk, hy]
    simp [Block.winRead, Block.winByte, win]
  have offs : (s.openAll (warpsOf [(w, l)]) (x.d.group 1)).plainOff x w l = off := by
    simp only [State.plainOff, State.val, State.snap, iss, off]
  have vals : (s.openAll (warpsOf [(w, l)]) (x.d.group 1)).val w l (.reg x.b) = s.val w l (.reg x.b) := by
    simp only [State.val, State.snap, iss]
  simp [State.localAtomic, mGroup_of_alone h, guard, offs, word, vals]

/-- Where a result lands does not depend on window bytes. -/
theorem State.target_winWrite (s : State) (y : Block) (off : Nat) (bs : List Byte) (h : s.block? s.iss.blk = some y) (w l : Nat) (d : Reg) :
    (s.modHere fun k => k.winWrite off bs).target w l d = s.target w l d :=
  State.target_congr s (s.modHere fun k => k.winWrite off bs) rfl (fun v => by rw [s.here_winWrite y off bs h, State.here, h]; rfl) w l d

/-- A result of fixed latency in flight for a thread and its last-result register (R95, R99). -/
theorem State.fliesLast_post (s s0 : State) (bk : Block) (hb : s.block? s.iss.blk = some bk) (only : OnlyBlock s0 s) (g : Tgt) (v : DWord)
    (lat w l : Nat) : FliesLast s0 (s.post s.iss.blk 0 (some (s.now + lat)) g v (s.lastOf w l)) g v lat w l := by
  have last : s.lastOf w l = if s0.iss.half = .hi then none else some (w, l, s0.iss.pos) := by
    obtain ⟨-, -, -, -, -, iss, -⟩ := only
    rw [State.lastOf, iss]
    cases s0.iss.half <;> rfl
  have posted := s.here_post bk hb 0 (some (s.now + lat)) g v (s.lastOf w l)
  refine ⟨⟨0, some (s.now + lat), s.seq, g, v, s.lastOf w l, s.writer g (s.lastOf w l)⟩, ?_, rfl, rfl, ?_, last⟩
  · rw [State.here, State.post_iss, posted, Option.getD_some, Block.pend_markEmpty]
    exact List.mem_append_right _ (List.mem_singleton_self _)
  · rw [only.now]

/-- The frame of a window write by the issuing block once names are open, and of the result that it puts in flight then. -/
theorem Opens.winWrite_post {s s1 : State} {bk : Block} (h : s.block? s.iss.blk = some bk) (opens : Opens s s1) (off : Nat) (bs : List Byte)
    (g : Tgt) (v : DWord) (lat w l : Nat) :
    let s2 := s1.modHere fun k => k.winWrite off bs
    let t := s2.post s2.iss.blk 0 (some (s2.now + lat)) g v (s2.lastOf w l)
    OnlyBlock s t ∧ (∀ a, t.here.winByte a = overlaid bk off bs a) ∧ FliesLast s t g v lat w l ∧ (RowsKept bk s1.here → RowsKept bk t.here) := by
  intro s2 t
  obtain ⟨y, hy, kept, -⟩ := opens.block bk h
  obtain ⟨-, -, -, -, win, -⟩ := kept
  rw [← opens.only.blk] at hy
  have only : OnlyBlock s s2 := opens.only.trans (s1.only_modHere _)
  have there : s2.block? s2.iss.blk = some { y with win := (y.winWrite off bs).win } := by
    rw [← Block.winWrite_frame]; exact (State.block_modBlock_self ..).trans (congrArg (Option.map _) hy)
  have posts : Posts s2 t := s2.posts_post ..
  obtain ⟨z, hz, keptz, maps, vals, refs, -⟩ := posts.block _ there
  have at1 : s1.here = y := by simp [State.here, hy]
  have att : t.here = z := by rw [State.here, posts.only.blk, hz]; rfl
  obtain ⟨-, -, -, -, winz, -⟩ := keptz
  refine ⟨only.trans posts.only, fun a => ?_, s2.fliesLast_post s _ there only g v lat w l, fun ⟨m, va, re⟩ => ?_⟩
  · have bytes : z.winByte a = (y.winWrite off bs).winByte a := by rw [Block.winByte, winz, Block.winByte]
    rw [att, bytes, Block.winByte_winWrite, overlaid, Block.winByte, win]; rfl
  · rw [at1] at m va re
    rw [att]
    exact ⟨fun w => (maps w).trans (m w), fun r l => (vals r l).trans (va r l), fun r => (refs r).trans (re r)⟩

/-- AMOL joins where an earlier word of its bundle has not performed, or has emptied the line, and acts at once otherwise. -/
theorem exec_amol {s : State} {bk : Block} {w l : Nat} (h : Alone s bk w l) (x : MWord) (guard : s.guard w l x.g x.gn = true) :
    exec (.amol x) s = .next (if s.lags || bk.lineEmpty (s.plainOff x w l) then
      s.joinOp (.amol x) (x.d.group 1) true [s.accessOf w l (s.plainOff x w l) (toBytes 4 (s.val w l (.reg x.b)).toNat) 0]
      else s.localAtomic x) := by
  refine congrArg Host.Outcome.next ?_
  simp [h.issuing.checked, mGroup_of_alone h, guard, h.issuing.here_eq]

/-- R213, R214: AMOL. -/
theorem localAtomics : LocalAtomics := by
  intro s bk w l x d h guard group off old
  refine ⟨fun late => ⟨_, ?_, s.joined_local bk _ [d] true _ h.issuing (by simp) (.inr ⟨x, rfl⟩)⟩, fun free full => ?_⟩
  · rw [exec_amol h x guard, group, if_pos (by rw [Bool.or_eq_true, ← lag_iff_lags h]; exact late)]
  · have now : (s.lags || bk.lineEmpty (s.plainOff x w l)) = false := by
      rw [show bk.lineEmpty (s.plainOff x w l) = false from full, Bool.eq_false_iff.mpr fun e => free ((lag_iff_lags h).mpr e)]; rfl
    have opens := s.opens_openAll (warpsOf [(w, l)]) [d]
    obtain ⟨y, hy, -⟩ := opens.block bk h.issuing.here
    obtain ⟨only, win, flies, -⟩ := opens.winWrite_post h.issuing.here off (toBytes 4 (atomicOp x.kind.toNat old (s.val w l (.reg x.b))).toNat)
      ((s.openAll (warpsOf [(w, l)]) [d]).target w l d) (old.setWidth 64) 8 w l
    refine ⟨_, ?_, only, win, flies⟩
    rw [exec_amol h x guard, now, if_neg (by decide), localAtomic_of_alone h x guard, group, ← State.target_winWrite _ y off _ (by rw [opens.only.blk]; exact hy)]
    rfl

/-- R213, R214: AMOL with `$z`, or with a guard that is false. -/
theorem localAtomicsOfZ : LocalAtomicsOfZ := by
  intro s bk w l x h off old
  refine ⟨fun guard => ?_, fun guard free full dz => ?_⟩
  · refine congrArg Host.Outcome.next ?_
    simp [h.issuing.checked, mGroup_of_alone h, guard, State.localAtomic, State.openAll, warpsOf, sortBy]
  · have now : (s.lags || bk.lineEmpty (s.plainOff x w l)) = false := by
      rw [show bk.lineEmpty (s.plainOff x w l) = false from full, Bool.eq_false_iff.mpr fun e => free ((lag_iff_lags h).mpr e)]; rfl
    obtain ⟨only, win, flies, rows⟩ := (Opens.refl s).winWrite_post h.issuing.here off
      (toBytes 4 (atomicOp x.kind.toNat old (s.val w l (.reg x.b))).toNat) .none (old.setWidth 64) 8 w l
    refine ⟨_, ?_, only, rows ?_, win, flies⟩
    · rw [exec_amol h x guard, now, if_neg (by decide), localAtomic_of_alone h x guard, dz]
      rfl
    · rw [h.issuing.here_eq]; exact ⟨fun _ => rfl, fun _ _ => rfl, fun _ => rfl⟩

/-! ### Local words by their event -/

/-- A block's only operation, of one access, stands in line. -/
theorem Block.inLine_of_alone (bk : Block) (o : MemOp) (a : Access) (ops : bk.ops = [o]) (one : o.todo = [a]) : bk.inLine o.id = true := by
  simp [Block.inLine, ops, one]

/-- The block once a local word has taken its step: its one operation is over, and its results are on their way (R19, R97). -/
def Block.afterLocal (bk : Block) (o : MemOp) (a : Access) (now : Nat) : Block :=
  let next := (bk.localAccess o.i a).1.deliver o a.w a.lane (bk.localAccess o.i a).2
  Block.retire { next with
    pend := next.pend.map fun (p : Pending) => if p.op == o.id && p.due.isNone then { p with due := some (now + localTime o.i [a.addr]) } else p,
    ops := next.ops.map fun (q : MemOp) => if q.id == o.id then { q with todo := [] } else q } now

/-- A local word's event: nothing happens while it must wait for a full line, and its one step after that (R21, R90). -/
theorem State.exec_translation_local (s : State) (b c : Nat) (bk : Block) (o : MemOp) (a : Access) (hb : s.block? b = some bk)
    (core : bk.core? = some c) (ops : bk.ops = [o]) (one : o.todo = [a])
    (kind : (∃ x, o.i = .stl x) ∨ (∃ x, o.i = .amol x) ∨ ∃ x, o.i = .ldl x) :
    ∃ t, exec (.translation (.mem b o.id)) s = .next t ∧ t.ms = s.ms ∧ t.cores = s.cores ∧
      t.block? b = some (if needsFull o.i && bk.lineEmpty a.addr then bk else bk.afterLocal o a (s.coreNow c)) := by
  have found : bk.ops.find? (·.id == o.id) = some o := by simp [ops]
  have sorted : sortBy (fun (a : Access) => a.lane) o.todo = [a] := by rw [one]; rfl
  have now : s.nowOf b = s.coreNow c := by simp [State.nowOf, hb, core]
  have runs : s.tryOp b o.id = s.performWindow b o.id := by
    rw [State.tryOp, hb]
    simp only [Block.inLine_of_alone bk o a ops one, State.perform, hb, found]
    rcases kind with ⟨x, hi⟩ | ⟨x, hi⟩ | ⟨x, hi⟩ <;> simp [hi]
  refine ⟨_, congrArg Host.Outcome.next runs, rfl, rfl, ?_⟩
  rw [State.performWindow, State.block_modBlock_self, hb, Option.map_some]
  simp only [found, sorted, now]
  cases wait : needsFull o.i && bk.lineEmpty a.addr with
  | true => simp only [List.any_cons, List.any_nil, Bool.or_false, wait, if_true]
  | false => simp only [List.any_cons, List.any_nil, Bool.or_false, wait, Bool.false_eq_true, if_false]; rfl

/-- An operation that has done its one access ends, with no result of it left without a value (R98). -/
theorem Block.retire_alone (bk : Block) (o : MemOp) (now : Nat) (ops : bk.ops = [o]) (todo : o.todo = []) (held : o.held = [])
    (parked : o.parked = []) (valued : ∀ p ∈ bk.pend, p.op = o.id → p.due ≠ none) :
    (bk.retire now).ops = [] ∧ (bk.retire now).pend = bk.pend ∧ (bk.retire now).win = bk.win ∧
      ∀ v l, ((bk.retire now).thread v l).pc = (bk.thread v l).pc := by
  have none : (bk.pend.any fun p => p.op == o.id && p.due.isNone) = false := by
    rw [List.any_eq_false]
    intro p hp
    simpa [Option.isNone_iff_eq_none] using valued p hp
  have ids : (bk.ops.filter fun o => o.todo.isEmpty && o.held.isEmpty && o.parked.isEmpty && !bk.pend.any fun p => p.op == o.id && p.due.isNone) = [o] := by
    simp [ops, todo, held, parked, none]
  unfold Block.retire
  simp only [ids]
  refine ⟨?_, rfl, rfl, fun v l => Block.thread_allThreads { bk with ops := _ } _ v l Thread.pc fun _ => rfl⟩
  simp [Block.allThreads, ops, todo, held, parked, none]

/-- A result without a value that lands 8 core cycles on from now. -/
def Pending.landsSoon (p : Pending) (id now : Nat) : Pending := if p.op == id && p.due.isNone then { p with due := some (now + 8) } else p

/-- What a local word's step leaves of its block, where its access writes the window and gives its results their values. -/
theorem Block.afterLocal_spec (bk : Block) (o : MemOp) (a : Access) (now : Nat) (win : Tbl Byte) (pend : List Pending) (ops : bk.ops = [o])
    (held : o.held = []) (parked : o.parked = []) (time : localTime o.i [a.addr] = 8)
    (next : (bk.localAccess o.i a).1.deliver o a.w a.lane (bk.localAccess o.i a).2 = { bk with win, pend }) :
    (bk.afterLocal o a now).ops = [] ∧ (bk.afterLocal o a now).pend = pend.map (·.landsSoon o.id now) ∧ (bk.afterLocal o a now).win = win ∧
      ∀ v l, ((bk.afterLocal o a now).thread v l).pc = (bk.thread v l).pc := by
  unfold Block.afterLocal
  rw [next, time]
  refine Block.retire_alone _ { o with todo := [] } now (by simp [ops]) rfl held parked fun p hp own => ?_
  obtain ⟨q, -, rfl⟩ := List.mem_map.mp hp
  split
  · simp
  · next h =>
    rw [if_neg h] at own
    simpa [own] using h

/-- Results of other operations keep their values. -/
theorem Block.deliver_of_none (bk : Block) (o : MemOp) (w l : Nat) (vals : List Word) (vector : scalarResult o.i = false)
    (none : ∀ p ∈ bk.pend, p.op ≠ o.id) : bk.deliver o w l vals = bk := by
  have keep : ∀ (ps : List Pending) (acc : List Pending × List Word), (∀ p ∈ ps, p.op ≠ o.id) →
      (ps.foldl (fun (acc : List Pending × List Word) p => if p.op == o.id && p.forThread w l then
          (acc.1 ++ [{ p with val := (acc.2.headD 0).setWidth 64 }], acc.2.tail) else (acc.1 ++ [p], acc.2)) acc).1 = acc.1 ++ ps := by
    intro ps
    induction ps with
    | nil => simp
    | cons p r ih =>
      intro acc h
      rw [List.foldl_cons, ih _ fun q hq => h q (List.mem_cons_of_mem p hq)]
      simp [h p List.mem_cons_self]
  have same := keep bk.pend ([], vals) none
  simp only [Block.deliver, vector, Bool.false_eq_true, if_false]
  rw [same]; rfl

/-- The one result of an operation has its value. -/
theorem Block.deliver_of_alone (bk : Block) (o : MemOp) (w l : Nat) (vals : List Word) (p : Pending) (vector : scalarResult o.i = false)
    (pend : bk.pend = [p]) (own : p.op = o.id) (mine : p.forThread w l = true) :
    bk.deliver o w l vals = { bk with pend := [{ p with val := (vals.headD 0).setWidth 64 }] } := by
  simp [Block.deliver, vector, pend, own, mine]

/-- One word takes 8 core cycles (R97). -/
theorem localTime_one (i : Instr) (off : Nat)
    (kind : (∃ x, i = .stl x) ∨ (∃ x, i = .amol x) ∨ ∃ x, i = .ldl x ∧ 0 < x.bytes ∧ x.bytes ≤ 4) : localTime i [off] = 8 := by
  have word : 8 + (max 1 (bankLoad ([off].map (· / 4))) - 1) = 8 := by rw [List.map_singleton, bankLoad_one]; rfl
  rcases kind with ⟨x, rfl⟩ | ⟨x, rfl⟩ | ⟨x, rfl, pos, few⟩
  · exact word
  · exact word
  · show localLat [off] x.bytes = 8
    have one : (x.bytes + 3) / 4 = 1 := by omega
    have words : ([off].flatMap fun a => (List.range ((x.bytes + 3) / 4)).map fun i => a / 4 + i).dedup = [off / 4] := by
      rw [one]; rfl
    simp only [localLat, words, bankLoad_one]
    rfl

/-- R19, R21, R97, R209, R213, R214: local words that waited. -/
theorem localWordsActLater : LocalWordsActLater := by
  intro s b c bk o a hb core ops one held parked run did flight
  have acts : ∀ bs pend, ((∃ x, o.i = .stl x) ∨ (∃ x, o.i = .amol x) ∨ ∃ x, o.i = .ldl x ∧ 0 < x.bytes ∧ x.bytes ≤ 4) →
      (needsFull o.i && bk.lineEmpty a.addr) = false →
      (bk.localAccess o.i a).1.deliver o a.w a.lane (bk.localAccess o.i a).2 = { bk with win := (bk.winWrite a.addr bs).win, pend } →
      did bs (pend.map (·.landsSoon o.id (s.coreNow c))) := by
    intro bs pend kind go next
    obtain ⟨t, runs, ms, cores, ht⟩ := s.exec_translation_local b c bk o a hb core ops one (by tauto)
    rw [go, if_neg (by decide)] at ht
    obtain ⟨none, flies, win, pcs⟩ := bk.afterLocal_spec o a (s.coreNow c) _ pend ops held parked (localTime_one _ _ kind) next
    refine ⟨t, _, runs, ms, cores, ht, none, flies, fun k => ?_, pcs⟩
    rw [Block.winByte, win]
    exact bk.winByte_winWrite a.addr bs k
  have waits : ((∃ x, o.i = .amol x) ∨ ∃ x, o.i = .ldl x) → bk.lineEmpty a.addr = true → ∃ t, run = .next t ∧ t.block? b = some bk := by
    intro kind empty
    obtain ⟨t, runs, -, -, ht⟩ := s.exec_translation_local b c bk o a hb core ops one (.inr kind)
    rw [empty, if_pos (by rcases kind with ⟨x, hi⟩ | ⟨x, hi⟩ <;> rw [hi] <;> rfl)] at ht
    exact ⟨t, runs, ht⟩
  have lands : ∀ (p : Pending) (v : Word), p.op = o.id → p.due = none →
      [{ p with val := v.setWidth 64 }].map (·.landsSoon o.id (s.coreNow c)) = flight p v := by
    intro p v own due
    simp [Pending.landsSoon, own, due, flight]
  refine ⟨fun x hi none => ?_, fun x p hi pend own due mine => ⟨waits (.inl ⟨x, hi⟩), fun full => ?_⟩,
    fun x p hi pos few pend own due mine => ⟨waits (.inr ⟨x, hi⟩), fun full => ?_⟩⟩
  · have keep : bk.pend.map (·.landsSoon o.id (s.coreNow c)) = bk.pend :=
      (List.map_congr_left fun p hp => by simp [Pending.landsSoon, none p hp]).trans (List.map_id _)
    rw [← keep]
    refine acts _ _ (.inl ⟨x, hi⟩) (by rw [hi]; rfl) ?_
    have others : ∀ q ∈ (bk.localAccess o.i a).1.pend, q.op ≠ o.id := by
      rw [hi, Block.localAccess, Block.winWrite_frame]; exact none
    rw [Block.deliver_of_none _ _ _ _ _ (by rw [hi]; rfl) others, hi]
    exact Block.winWrite_frame ..
  · rw [← lands p _ own due]
    refine acts _ _ (.inr (.inl ⟨x, hi⟩)) (by rw [full, Bool.and_false]) ?_
    have only : (bk.localAccess o.i a).1.pend = [p] := by rw [hi, Block.localAccess, Block.winWrite_frame]; exact pend
    rw [Block.deliver_of_alone _ _ _ _ _ p (by rw [hi]; rfl) only own mine, hi, wordAt_winRead, Block.localAccess, Block.winWrite_frame]
    rfl
  · rw [← lands p _ own due]
    refine acts _ _ (.inr (.inr ⟨x, hi, pos, few⟩)) (by rw [full, Bool.and_false]) ?_
    have one : ((bk.winRead a.addr x.bytes).length + 3) / 4 = 1 := by rw [Block.length_winRead]; omega
    have word : wordsOf (bk.winRead a.addr x.bytes) = [wordAt (bk.winRead a.addr x.bytes) 0] := by rw [wordsOf, one]; rfl
    rw [Block.deliver_of_alone _ _ _ _ _ p (by rw [hi]; rfl) (by rw [hi]; exact pend) own mine, hi, Block.localAccess, word]
    rfl

end Sys2Proof.Machine

namespace Sys2Proof.Proofs

open Sys2Proof Sys2Proof.Machine

/-- Settles O33: a local word of one thread writes its window bytes at once, or joins, and its step later writes the same. -/
theorem localWritesStore : Obligations.LocalWritesStore := ⟨localStores, localAtomics, localAtomicsOfZ, localWordsActLater⟩

end Sys2Proof.Proofs
end

section
/-! PROOF. A sending atomic whose operation has a result in flight (R19, R106, R213, R214). -/

namespace Sys2Proof.Machine

open Sys2Proof Sys2Proof.Claims Sys2Proof.Tests

/-! ### The state in which AMOS gives a result its value -/

/-- AMOS at the core's scope. -/
def amosWord : Instr := .amos { mw with a := .s 2, b := .o 0 }

/-- A block with one operation, an AMOS, and a result of that operation in flight without a value. -/
def sendingBlock : Block := accessing amosWord accessOne

/-- A clean byte of a view. -/
def cleanByte (v : Byte) : VByte := { val := v, unpub := false, node := none }

/-- The block's machine, where core 0's view holds the word 7 at the operation's address. -/
def sending : State :=
  { withTlb sendingBlock 3 with
    ms := { (withTlb sendingBlock 3).ms with v := [(0, four.zip ([7, 0, 0, 0].map cleanByte))] } }

theorem ready_sending : Ready sending 0 0 sendingBlock (opOf amosWord accessOne) accessOne four :=
  ⟨rfl, rfl, rfl, rfl, rfl, rfl, by decide, rfl, rfl⟩

/-- The values of the results in flight of block 0 after a step. -/
def valuesAfter (o : Host.Outcome State Fault Refusal) : Option (List DWord) :=
  match o with
  | .next t => (t.block? 0).map fun z => z.pend.map (·.val)
  | _ => none

/-- The operation's result had no value, and has the old word after the step. -/
theorem values_sending : sendingBlock.pend.map (·.val) = [0] ∧ valuesAfter (exec (.translation (.mem 0 3)) sending) = some [7] := by
  decide

/-- AMOS does not leave its block's results in flight as they were. -/
theorem not_atomicsPerform : ¬ AtomicsPerform := by
  intro h
  obtain ⟨-, -, amos⟩ := h sending 0 0 sendingBlock (opOf amosWord accessOne) accessOne four { mw with a := .s 2, b := .o 0 } ready_sending
  obtain ⟨t, z, ⟨runs, hz, -⟩, same⟩ := amos rfl
  obtain ⟨before, after⟩ := values_sending
  have kept : valuesAfter (exec (.translation (.mem 0 3)) sending) = some (sendingBlock.pend.map (·.val)) := by
    rw [show exec (.translation (.mem 0 3)) sending = .next t from runs, ← same]
    simp [valuesAfter, hz]
  rw [kept, before] at after
  exact absurd after (by decide)

end Sys2Proof.Machine

namespace Sys2Proof.Proofs

open Sys2Proof Sys2Proof.Machine

/-- Refutes O48: AtomicsPerform asks that AMOS leave every result in flight as it was, of any block; in `sending` the operation has a result
of its own in flight, without a value, and the step gives it the old word, 7. -/
theorem not_accessesPerform : ¬ Obligations.AccessesPerform := by
  rintro ⟨-, -, -, -, -, atomics, -⟩
  exact not_atomicsPerform atomics

end Sys2Proof.Proofs
end

section
/-! PROOF. What the steps of a relocation leave alone, and blocks that leave their cores, are restored and migrate (R28, R267, R311–R320, R326). -/

namespace Sys2Proof.Machine

open Sys2Proof Sys2Proof.Claims

/-! ### Steps that change blocks by a relation alone -/

/-- Memory and the cycle are as before, and every block is there, related by R to what it was. -/
def BlocksKept (R : Block → Block → Prop) (s t : State) : Prop :=
  t.ms = s.ms ∧ t.cyc = s.cyc ∧ ∀ b bk, s.block? b = some bk → ∃ y, t.block? b = some y ∧ R bk y

section
variable {R : Block → Block → Prop} {s t u : State}

theorem BlocksKept.of_same (refl : ∀ x, R x x) (ms : t.ms = s.ms) (cyc : t.cyc = s.cyc) (blocks : t.blocks = s.blocks) : BlocksKept R s t :=
  ⟨ms, cyc, fun b bk hb => ⟨bk, by rw [State.block?, blocks]; exact hb, refl bk⟩⟩

theorem BlocksKept.trans (trans : ∀ x y z, R x y → R y z → R x z) (h : BlocksKept R s t) (k : BlocksKept R t u) : BlocksKept R s u := by
  obtain ⟨ms, cyc, blocks⟩ := h
  obtain ⟨ms', cyc', blocks'⟩ := k
  refine ⟨ms'.trans ms, cyc'.trans cyc, fun b bk hb => ?_⟩
  obtain ⟨y, hy, r⟩ := blocks b bk hb
  obtain ⟨z, hz, r'⟩ := blocks' b y hy
  exact ⟨z, hz, trans _ _ _ r r'⟩

/-- A change of one block by the relation. -/
theorem BlocksKept.modBlock (refl : ∀ x, R x x) (b : Nat) (f : Block → Block) (hf : ∀ x, s.block? b = some x → R x (f x)) :
    BlocksKept R s (s.modBlock b f) := by
  refine ⟨rfl, rfl, fun d bk hd => ?_⟩
  by_cases h : d = b
  · subst h; exact ⟨f bk, by simp [hd], hf bk hd⟩
  · exact ⟨bk, by simp [h, hd], refl bk⟩

/-- What every step of a fold keeps, the fold keeps. -/
theorem BlocksKept.foldl {α : Type} (refl : ∀ x, R x x) (trans : ∀ x y z, R x y → R y z → R x z) (f : State → α → State) (l : List α)
    (hf : ∀ u a, BlocksKept R u (f u a)) : BlocksKept R s (l.foldl f s) :=
  foldl_keep (BlocksKept R s) f l s (.of_same refl rfl rfl rfl) fun u a hu => hu.trans trans (hf u a)

end

/-! ### Tiles of a block that leaves (R267) -/

/-- The block is as before but for the tiles in its save area. -/
def Block.SaveAreaOnly (x y : Block) : Prop := y = { x with saved := y.saved, stale := y.stale, bad := y.bad }

theorem Block.SaveAreaOnly.refl (x : Block) : x.SaveAreaOnly x := rfl
theorem Block.SaveAreaOnly.trans (x y z : Block) (h : x.SaveAreaOnly y) (k : y.SaveAreaOnly z) : x.SaveAreaOnly z := by
  unfold Block.SaveAreaOnly at *; rw [k, h]

/-- What the end of a context, as far as a Trunk brings it, leaves alone (R311, R351). -/
theorem State.endTrunk_frame (s : State) (x : Nat) (e : Option Code) :
    s.endTrunk x e = { s with ctxs := (s.endTrunk x e).ctxs, mp := { s.mp with records := (s.endTrunk x e).mp.records } } := by
  unfold State.endTrunk
  split
  · rfl
  · simp only [State.endCtx, State.recordMemue]
    split <;> rfl

/-- A tile that is saved goes to a save area, and nothing else (R264). -/
theorem State.saveTile_kept (s : State) (c k : Nat) : BlocksKept Block.SaveAreaOnly s (s.saveTile c k) := by
  unfold State.saveTile
  dsimp only
  split
  · exact .of_same Block.SaveAreaOnly.refl rfl rfl rfl
  · split
    · exact .of_same Block.SaveAreaOnly.refl rfl rfl rfl
    · rw [State.endTrunk_frame]
      refine .trans Block.SaveAreaOnly.trans (.modBlock Block.SaveAreaOnly.refl _ _ ?_) (.of_same Block.SaveAreaOnly.refl rfl rfl rfl)
      exact fun _ _ => rfl

/-- A tile that is saved and loses its claim. -/
theorem State.saveUnclaim_kept (s : State) (c k e : Nat) : BlocksKept Block.SaveAreaOnly s ((s.saveTile c k).unclaim e k) :=
  (s.saveTile_kept c k).trans Block.SaveAreaOnly.trans (.of_same Block.SaveAreaOnly.refl rfl rfl rfl)

/-- The tiles of a block that leaves go with it or to a save area; nothing else changes (R267). -/
theorem State.moveTiles_kept (s : State) (b x c d : Nat) : BlocksKept Block.SaveAreaOnly s (s.moveTiles b x c d) := by
  refine .foldl Block.SaveAreaOnly.refl Block.SaveAreaOnly.trans _ _ fun u k => ?_
  dsimp only
  split
  · exact (u.saveUnclaim_kept d k c).trans Block.SaveAreaOnly.trans (.of_same Block.SaveAreaOnly.refl rfl rfl rfl)
  · exact u.saveUnclaim_kept c k c

/-- The tiles that a block left on another core go to its save area; nothing else changes (R267). -/
theorem State.saveElsewhere_kept (s : State) (b d : Nat) : BlocksKept Block.SaveAreaOnly s (s.saveElsewhere b d) := by
  refine .foldl Block.SaveAreaOnly.refl Block.SaveAreaOnly.trans _ _ fun u c => ?_
  split
  · exact .of_same Block.SaveAreaOnly.refl rfl rfl rfl
  · exact .foldl Block.SaveAreaOnly.refl Block.SaveAreaOnly.trans _ _ fun v k => v.saveUnclaim_kept c k c

/-! ### Blocks that begin to drain (R107, R316, R318) -/

/-- The block is as before but for its drain and the requests that it takes along. -/
def Block.DrainOnly (x y : Block) : Prop := y = { x with drain := y.drain, carried := y.carried }

theorem Block.DrainOnly.refl (x : Block) : x.DrainOnly x := rfl
theorem Block.DrainOnly.trans (x y z : Block) (h : x.DrainOnly y) (k : y.DrainOnly z) : x.DrainOnly z := by
  unfold Block.DrainOnly at *; rw [k, h]

/-- The block is as before but for its drain, and a drain that it had begun goes on. -/
def Block.DrainsOn (x y : Block) : Prop := x.drain.isSome = true → y.drain = x.drain

theorem Block.DrainsOn.refl (x : Block) : x.DrainsOn x := fun _ => rfl
theorem Block.DrainsOn.trans (x y z : Block) (h : x.DrainsOn y) (k : y.DrainsOn z) : x.DrainsOn z :=
  fun hx => (k (by rw [h hx]; exact hx)).trans (h hx)

/-- A block that begins to drain has its drain, its requests with it, and nothing else of a block changes (R107). -/
theorem State.startDrain_kept (s : State) (b : Nat) (d : Drain) :
    BlocksKept (fun x y => x.DrainOnly y ∧ x.DrainsOn y) s (s.startDrain b d) := by
  have same : BlocksKept (fun x y => x.DrainOnly y ∧ x.DrainsOn y) s s :=
    .of_same (fun x => ⟨.refl x, .refl x⟩) rfl rfl rfl
  unfold State.startDrain
  split
  · exact same
  case h_2 bk hb =>
    split
    · exact same
    · split
      · exact same
      case isFalse off =>
        refine BlocksKept.modBlock (fun x => ⟨.refl x, .refl x⟩) b _ fun x hx => ⟨rfl, fun hd => ?_⟩
        rw [State.block_modCore, hb] at hx
        cases hx
        exact absurd hd off

/-- Blocks that are to begin their way to the Trunk: only drains and the requests taken along change, and a drain that had begun goes on (R316). -/
theorem State.outAll_kept (s : State) (bs : List Nat) (parked : Bool) :
    BlocksKept (fun x y => x.DrainOnly y ∧ x.DrainsOn y) s (s.outAll bs parked) := by
  have refl : ∀ x : Block, x.DrainOnly x ∧ x.DrainsOn x := fun x => ⟨.refl x, .refl x⟩
  have trans : ∀ x y z : Block, x.DrainOnly y ∧ x.DrainsOn y → y.DrainOnly z ∧ y.DrainsOn z → x.DrainOnly z ∧ x.DrainsOn z :=
    fun x y z h k => ⟨h.1.trans _ _ _ k.1, h.2.trans _ _ _ k.2⟩
  unfold State.outAll
  dsimp only
  split
  · exact .of_same refl rfl rfl rfl
  · split
    · exact .foldl refl trans _ _ fun u b => u.startDrain_kept b _
    · exact .foldl refl trans _ _ fun u b => .of_same refl rfl rfl rfl

/-- A block that stands on a core and does not drain yet begins to: its core's queue and the block change (R107). -/
theorem State.startDrain_of_resident (s : State) (b c : Nat) (bk : Block) (d : Drain) (hb : s.block? b = some bk) (hc : bk.core? = some c)
    (off : bk.drain = none) : ∃ (f : Core → Core) (kept : List CopyReq),
      s.startDrain b d = (s.modCore c f).modBlock b fun bk => { bk with drain := some d, carried := kept ++ bk.carried } := by
  simp only [State.startDrain, hb, hc, off]
  exact ⟨_, _, rfl⟩

/-- One block that may be relocated begins its way to the Trunk, or the refusal is recorded (R316, R318). -/
theorem State.outAll_one (s : State) (b c : Nat) (bk : Block) (parked : Bool) (hb : s.block? b = some bk) (hc : bk.core? = some c)
    (may : s.movable b bk = true) (off : bk.drain = none) : ∃ y, (s.outAll [b] parked).block? b = some y ∧
      (y.drain = some (.toTrunk s.cyc parked) ∨ (y.drain = none ∧ .switchRefused b ∈ (s.outAll [b] parked).mp.records)) := by
  obtain ⟨f, kept, drains⟩ := s.startDrain_of_resident b c bk (.toTrunk s.cyc parked) hb hc off
  have either : s.outAll [b] parked = s.startDrain b (.toTrunk s.cyc parked) ∨ s.outAll [b] parked = s.note (.switchRefused b) := by
    unfold State.outAll
    rw [if_neg (by simp [hb, may])]
    dsimp only
    split
    · exact .inl rfl
    · exact .inr rfl
  rcases either with goes | refused
  · rw [goes, drains]; exact ⟨_, by rw [State.block_modBlock_self, State.block_modCore, hb, Option.map_some], .inl rfl⟩
  · rw [refused]; exact ⟨bk, hb, .inr ⟨off, by simp [State.note]⟩⟩

end Sys2Proof.Machine
end

section
/-! PROOF. Blocks that leave their cores, whose move is off, that are restored, and that migrate (R28, R107, R311–R322, R326). -/

namespace Sys2Proof.Machine

open Sys2Proof Sys2Proof.Claims

/-! ### Tables -/

@[simp] theorem Tbl.get_mapKV {α β : Type} (t : Tbl α) (f : Nat → α → β) (a : Nat) :
    Tbl.get? (Tbl.mapKV t f) a = (Tbl.get? t a).map (f a) := by
  induction t with
  | nil => rfl
  | cons e r ih =>
    obtain ⟨j, v⟩ := e
    by_cases h : j = a
    · subst h; simp [Tbl.mapKV]
    · simpa [Tbl.mapKV, Tbl.get?, h] using ih

/-- A change that leaves the entry of its key alone leaves the table alone. -/
theorem Tbl.mod_of_fixed {α : Type} (t : Tbl α) (k : Nat) (f : α → α) (v : α) (h : Tbl.get? t k = some v) (hf : f v = v) : Tbl.mod t k f = t := by
  induction t with
  | nil => rfl
  | cons e r ih =>
    obtain ⟨j, w⟩ := e
    by_cases hj : j = k
    · subst hj
      rw [Tbl.get_cons_self, Option.some.injEq] at h
      simp [Tbl.mod, h, hf]
    · rw [Tbl.get_cons_ne j k w r (Ne.symm hj)] at h
      simp [Tbl.mod, hj, ih h]

/-! ### Times that move by a pause (R244, R314, R315) -/

/-- The block is as before but for its requests, whose numbers stay, and the wake times and late notices of its threads. -/
structure Block.TimesOnly (x y : Block) : Prop where
  rest : y = { x with warps := y.warps, carried := y.carried }
  ids : y.carried.map (·.id) = x.carried.map (·.id)
  warp : ∀ w, y.warp w = { x.warp w with threads := (y.warp w).threads }
  thread : ∀ w l, { y.thread w l with wake := 0, lates := [] } = { x.thread w l with wake := 0, lates := [] }

/-- A change of requests that keeps their numbers. -/
theorem CopyReq.ids_map (l : List CopyReq) (g : CopyReq → CopyReq) (h : ∀ r, (g r).id = r.id) : (l.map g).map (·.id) = l.map (·.id) := by
  simp [Function.comp_def, h]

theorem Block.live_allThreads (bk : Block) (f : Thread → Thread) (h : ∀ t, (f t).live = t.live) : (bk.allThreads f).live = bk.live := by
  simp [Block.live, Block.allThreads, Tbl.mapVal, List.flatMap_map, List.filter_map, Function.comp_def, h]

/-- What is read of a warp after all threads of the block have changed. -/
theorem Block.warp_allThreads (bk : Block) (f : Thread → Thread) (w : Nat) :
    (bk.allThreads f).warp w = { bk.warp w with threads := ((bk.allThreads f).warp w).threads } := by
  simp only [Block.warp, Block.allThreads, Tbl.getD, Tbl.get_mapVal]
  cases Tbl.get? bk.warps w <;> rfl

/-- A pause moves deadlines and wake times, in the queues and with the blocks, and nothing else. -/
theorem State.shiftBy_spec (s : State) (b q pause : Nat) : ∃ (g : CopyReq → CopyReq) (f : Nat → Block → Block),
    s.shiftBy b q pause = { s with cores := Tbl.mapVal s.cores fun k => { k with copyQ := k.copyQ.map g }, blocks := Tbl.mapKV s.blocks f } ∧
      (∀ r, (g r).id = r.id) ∧ ∀ (k : Nat) (x : Block), x.TimesOnly (f k x) ∧ (f k x).live = x.live := by
  refine ⟨_, _, rfl, fun r => ?_, fun k x => ?_⟩
  · dsimp only; split <;> rfl
  · have ids := CopyReq.ids_map x.carried
    dsimp only
    split
    · refine ⟨⟨rfl, ids _ fun r => ?_, fun w => Block.warp_allThreads _ _ w, fun w l => ?_⟩, Block.live_allThreads _ _ fun t => ?_⟩
      · split <;> rfl
      · refine Block.thread_allThreads _ _ w l (fun t => { t with wake := 0, lates := [] }) fun t => ?_
        split <;> rfl
      · split <;> rfl
    · refine ⟨⟨rfl, ids _ fun r => ?_, fun _ => rfl, fun _ _ => rfl⟩, rfl⟩
      split <;> rfl

/-! ### The drain is done -/

/-- The block leaves core c for a place, with its threads, rows, window and requests, and the core publishes its view (R28). -/
def State.LeavesFor (s : State) (b c : Nat) (bk : Block) (place : Place) : Prop :=
  ∃ t y, exec (.drainEnd b) s = .next t ∧ t.ms = s.ms.leave s.dev c ∧ t.cyc = s.cyc ∧ t.block? b = some y ∧ y.drain = none ∧ y.origin = c ∧
    y.warps = bk.warps ∧ y.rows = bk.rows ∧ y.win = bk.win ∧ y.carried = bk.carried ∧ y.place = place

section
variable {s : State} {b c q : Nat} {bk : Block}

/-- A lease that is looked at again changes no block. -/
@[simp] theorem State.block_leaseCheck (s : State) (x d : Nat) : (s.leaseCheck x).block? d = s.block? d := rfl

/-- A drained block goes to the core that can take it. -/
theorem State.leavesFor_core {e d : Nat} (hb : s.block? b = some bk) (hc : bk.core? = some c) (done : s.drained b bk c = true)
    (going : s.ctxEnding bk.ctx = false) (drain : bk.drain = some (.toCore q e)) (land : s.landing b bk c e = some d) :
    s.LeavesFor b c bk (.moving d (s.cyc + (1024 + ceilDiv bk.size (if dieOf c = dieOf d then 256 else 128))) q) := by
  obtain ⟨ms, cyc, blocks⟩ := State.moveTiles_kept { s with ms := s.ms.leave s.dev c } b bk.ctx c d
  obtain ⟨y, hy, only⟩ := blocks b bk hb
  have leaves : s.leaveCore b = ((({ s with ms := s.ms.leave s.dev c } : State).moveTiles b bk.ctx c d).modBlock b fun bk' =>
      { bk' with drain := none, origin := c, leftAt := s.coreNow c, place := .moving d (s.cyc + bk.transfer (decide (dieOf c = dieOf d))) q }).leaseCheck
        bk.ctx := by
    simp [State.leaveCore, hb, hc, drain, done, going, land]
  refine ⟨_, { y with drain := none, origin := c, leftAt := s.coreNow c, place := .moving d (s.cyc + bk.transfer (decide (dieOf c = dieOf d))) q },
    congrArg Host.Outcome.next leaves, ms, cyc, by simp [hy], rfl, rfl, ?_⟩
  rw [only]; simp [Block.transfer]

/-- A drained block goes to the Trunk. -/
theorem State.leavesFor_trunk {parked : Bool} (hb : s.block? b = some bk) (hc : bk.core? = some c) (done : s.drained b bk c = true)
    (going : s.ctxEnding bk.ctx = false) (drain : bk.drain = some (.toTrunk q parked)) :
    s.LeavesFor b c bk (.trunk parked c q (s.cyc + (1024 + ceilDiv bk.size 128)) none) := by
  have leaves : s.leaveCore b = ((({ s with ms := s.ms.leave s.dev c } : State).toTrunk b c q parked).leaseCheck bk.ctx) := by
    simp [State.leaveCore, hb, hc, drain, done, going]
  have here : State.block? { s with ms := s.ms.leave s.dev c } b = some bk := hb
  have left := State.block_modBlock_self { s with ms := s.ms.leave s.dev c } b fun bk =>
    { bk with drain := none, origin := c, leftAt := s.coreNow c, bad := bk.bad.filter fun x => decide (x.1 ≤ headSector),
              place := .trunk parked c q (s.cyc + bk.transfer false) none }
  rw [here] at left
  exact ⟨_, _, congrArg Host.Outcome.next leaves, rfl, rfl, left, rfl, rfl, rfl, rfl, rfl, rfl, rfl⟩

/-- A move that is off: the block goes on where it stands, or begins its way to the Trunk from a core that has become absent (R7, log 129). -/
theorem State.stay_spec (hb : s.block? b = some bk) (hc : bk.core? = some c) (going : s.ctxEnding bk.ctx = false) :
    ∃ y, (s.stay b c q).ms = s.ms ∧ (s.stay b c q).cyc = s.cyc ∧ (s.stay b c q).block? b = some y ∧ y.place = bk.place ∧
      y.rows = bk.rows ∧ y.win = bk.win ∧ ((s.cap c).present = true → y.drain = none) ∧
      ((s.cap c).present = false → bk.isPop = false → bk.live ≠ [] →
        y.drain = some (.toTrunk s.cyc false) ∨ (y.drain = none ∧ .switchRefused b ∈ (s.stay b c q).mp.records)) := by
  obtain ⟨g, f, shifts, -, pauses⟩ := State.shiftBy_spec (s.modBlock b fun bk => { bk with drain := none }) b q (s.cyc - q)
  generalize hu : (s.modBlock b fun bk => { bk with drain := none }).shiftBy b q (s.cyc - q) = u at shifts
  obtain ⟨pause, lives⟩ := pauses b { bk with drain := none }
  generalize hz : f b { bk with drain := none } = z at pause lives
  have at_ : u.block? b = some z := by
    rw [shifts]
    show Tbl.get? (Tbl.mapKV (s.modBlock b _).blocks f) b = some z
    rw [Tbl.get_mapKV]
    show ((s.modBlock b _).block? b).map (f b) = some z
    simp [hb, hz]
  have rest := pause.rest
  have stays : s.stay b c q = if (s.cap c).present then u else u.outAll (u.wholeOf b z) false := by
    simp only [State.stay, hu, at_]
    rw [shifts]; rfl
  have ums : u.ms = s.ms := by rw [shifts]; rfl
  have ucyc : u.cyc = s.cyc := by rw [shifts]; rfl
  have uctx : u.ctxEnding bk.ctx = s.ctxEnding bk.ctx := by rw [shifts]; rfl
  rw [stays]
  by_cases present : (s.cap c).present = true
  · rw [if_pos present]
    exact ⟨z, ums, ucyc, at_, by rw [rest], by rw [rest], by rw [rest], fun _ => by rw [rest], fun h => absurd present (by simp [h])⟩
  · rw [if_neg present]
    obtain ⟨oms, ocyc, blocks⟩ := u.outAll_kept (u.wholeOf b z) false
    obtain ⟨y, hy, only, -⟩ := blocks b z at_
    refine ⟨y, oms.trans ums, ocyc.trans ucyc, hy, by rw [only, rest], by rw [only, rest], by rw [only, rest],
      fun h => absurd h present, fun _ alone live => ?_⟩
    have zc : z.core? = some c := by rw [rest]; exact hc
    have may : u.movable b z = true := by
      have zlive : z.live ≠ [] := by rw [lives]; exact live
      have zctx : u.ctxEnding z.ctx = false := by rw [show z.ctx = bk.ctx by rw [rest], uctx, going]
      simp [State.movable, zc, zlive, zctx, show z.drain = none by rw [rest]]
    have whole : u.wholeOf b z = [b] := by
      have : z.isPop = false := by rw [rest]; exact alone
      simp [State.wholeOf, this]
    rw [whole] at hy ⊢
    obtain ⟨y', hy', drains⟩ := u.outAll_one b c z false at_ zc may (by rw [rest])
    rw [hy, Option.some.injEq] at hy'
    subst hy'
    rwa [ucyc] at drains

end

/-- R28, R107, R311–R313, R318: the end of a drain. -/
theorem drainsEnd : DrainsEnd := by
  intro s b c q bk hb hc done
  refine ⟨fun ending => congrArg Host.Outcome.next ?_, ?_⟩
  · cases hd : bk.drain <;> simp [State.leaveCore, hb, hc, hd, done, ending]
  · intro going left kept goes other
    refine ⟨fun e drain => ⟨fun ok clear => ?_, fun off => ?_⟩, fun parked drain => State.leavesFor_trunk hb hc done going drain⟩
    · exact State.leavesFor_core hb hc done going drain (by simp [State.landing, ok, clear])
    · have lands : s.landing b bk c e = other := by rcases off with h | h <;> simp [State.landing, h, other]
      refine ⟨fun d land => State.leavesFor_core hb hc done going drain (lands.trans land), fun none => ?_⟩
      have stays : s.leaveCore b = s.stay b c q := by
        simp [State.leaveCore, hb, hc, drain, done, going, lands.trans none]
      obtain ⟨y, spec⟩ := State.stay_spec (q := q) hb hc going
      exact ⟨s.stay b c q, y, congrArg Host.Outcome.next stays, spec⟩

/-! ### Blocks in the Trunk -/

/-- The choice of a core that may take blocks stands. -/
theorem State.unchoose_of_ok (s : State) (b c left q saved : Nat) (parked : Bool) (bk : Block) (hb : s.block? b = some bk)
    (place : bk.place = .trunk parked left q saved (some c)) (ok : s.coreOk c = true) : s.unchoose b = s := by
  have fixed := Tbl.mod_of_fixed s.blocks b (fun bk => match bk.place with
    | .trunk parked left q saved (some c) => if s.coreOk c then bk else { bk with place := .trunk parked left q saved none }
    | .trunk _ _ _ _ none => bk
    | .core _ => bk
    | .moving _ _ _ => bk) bk hb (by simp [place, ok])
  exact congrArg (fun bs => { s with blocks := bs }) fixed

/-- R320: a block whose core is chosen. -/
theorem blocksAreRestored : BlocksAreRestored := by
  intro s b c left q saved parked bk hb alone place going ok
  have runs : s.restore b = if s.mayRestore bk then s.restore1 b else s := by
    have whole : s.wholeOf b bk = [b] := by simp [State.wholeOf, alone]
    cases may : s.mayRestore bk <;>
      simp [State.restore, hb, place, whole, s.unchoose_of_ok b c left q saved parked bk hb place ok, going, may]
  have mayRestore : s.mayRestore bk = (!s.outgoing c && decide (saved < s.cyc)) := by simp [State.mayRestore, place]
  refine ⟨fun none later => ?_, fun not => congrArg Host.Outcome.next ?_⟩
  · obtain ⟨ms, cyc, blocks⟩ := s.saveElsewhere_kept b c
    obtain ⟨y, hy, only⟩ := blocks b bk hb
    have begins : s.restore b = (s.saveElsewhere b c).modBlock b fun bk =>
        { bk with restoring := true, place := .moving c (s.cyc + bk.transfer false) q } := by
      rw [runs, if_pos (by simp [mayRestore, none, later])]
      simp [State.restore1, hb, place]
    refine ⟨_, _, congrArg Host.Outcome.next begins, ms, cyc, by rw [State.block_modBlock_self, hy]; rfl, ?_⟩
    rw [only]; simp [Block.transfer, Block.size]
  · rw [runs, if_neg]
    rcases not with h | h <;> simp [mayRestore, h]

/-! ### Migration -/

/-- A drain that block b has begun goes on through a step that keeps the drains of all blocks. -/
theorem State.drain_of_kept {R : Block → Block → Prop} {s t : State} {b : Nat} {d : Drain} (h : BlocksKept R s t) (hR : ∀ x y, R x y → x.DrainsOn y)
    (hd : (s.block? b).map (·.drain) = some (some d)) : (t.block? b).map (·.drain) = some (some d) := by
  obtain ⟨bk, hb, drain⟩ := Option.map_eq_some_iff.mp hd
  obtain ⟨y, hy, r⟩ := h.2.2 b bk hb
  rw [hy, Option.map_some, hR _ _ r (by simp [drain]), drain]

theorem Block.SaveAreaOnly.drainsOn (x y : Block) (h : x.SaveAreaOnly y) : x.DrainsOn y := fun _ => by rw [h]

/-- The tiles of a cluster that loses power go to save areas; nothing else changes (R338). -/
theorem State.saveTiles_kept (s : State) (k : Nat) : BlocksKept Block.SaveAreaOnly s (s.saveTiles k) := by
  have core : ∀ (u : State) (c : Nat), BlocksKept Block.SaveAreaOnly u ((List.range 16).foldl (fun u t => (u.saveTile c t).unclaim c t) u) :=
    fun u c => .foldl Block.SaveAreaOnly.refl Block.SaveAreaOnly.trans _ _ fun v n => v.saveUnclaim_kept c n c
  unfold State.saveTiles
  exact .foldl Block.SaveAreaOnly.refl Block.SaveAreaOnly.trans _ _ fun u i => core u (8 * k + i)

/-- Gating lets a drain that has begun go on (R338). -/
theorem State.drain_gate (s : State) (k b : Nat) (d : Drain) (hd : (s.block? b).map (·.drain) = some (some d)) :
    ((s.gate k).block? b).map (·.drain) = some (some d) := by
  have saved : ((s.saveTiles k).block? b).map (·.drain) = some (some d) := by
    refine State.drain_of_kept (R := Block.SaveAreaOnly) ?_ Block.SaveAreaOnly.drainsOn hd
    exact s.saveTiles_kept k
  have out : ∀ bs parked, ((s.outAll bs parked).block? b).map (·.drain) = some (some d) := fun bs parked =>
    State.drain_of_kept (s.outAll_kept bs parked) (fun _ _ h => h.2) hd
  unfold State.gate
  dsimp only
  split
  · exact hd
  · split
    · simpa only [State.block?, State.modCluster, State.publishCluster] using saved
    · split
      · exact hd
      · split
        · exact out _ _
        · exact out _ _

/-- R322, R326, R340: a block that must leave its core in a maintenance slot. -/
theorem blocksMigrate : BlocksMigrate := by
  intro s b c d bk hb hc slot may must place
  have off : bk.drain = none := by
    cases hd : bk.drain with
    | none => rfl
    | some e => simp [State.movable, hd] at may
  have begins : s.migrate b = s.startDrain b (.toCore s.cyc d) := by
    simp [State.migrate, hb, hc, slot, may, must, place]
  obtain ⟨f, kept, drains⟩ := s.startDrain_of_resident b c bk (.toCore s.cyc d) hb hc off
  have here : (s.startDrain b (.toCore s.cyc d)).block? b = some { bk with drain := some (.toCore s.cyc d), carried := kept ++ bk.carried } := by
    rw [drains, State.block_modBlock_self, State.block_modCore, hb, Option.map_some]
  refine ⟨s.startDrain b (.toCore s.cyc d), _, congrArg Host.Outcome.next begins, ?_, here, rfl, rfl, rfl, rfl, fun only => ?_⟩
  · rw [drains]
    exact ⟨rfl, rfl, rfl, rfl, rfl, fun e he => by rw [State.block_modBlock_ne _ _ _ _ he, State.block_modCore]⟩
  · have first : (Tbl.keys s.blocks).foldl (fun s b => s.migrate b) s = s.startDrain b (.toCore s.cyc d) := by
      rw [only]; exact begins
    rw [State.beginMaintenance, if_pos slot, first]
    exact foldl_keep (fun u : State => (u.block? b).map (·.drain) = some (some (.toCore s.cyc d))) _ _ _ (by rw [here]; rfl)
      fun u k hu => u.drain_gate k b _ hu

end Sys2Proof.Machine
end

section
/-! PROOF. Blocks that resume on a core (R4, R131, R222, R287, R311, R313–R315). -/

namespace Sys2Proof.Machine

open Sys2Proof Sys2Proof.Claims

/-! ### Late notices (R234) -/

theorem Block.TimesOnly.refl (x : Block) : x.TimesOnly x := ⟨rfl, rfl, fun _ => rfl, fun _ _ => rfl⟩
theorem Block.TimesOnly.trans (x y z : Block) (h : x.TimesOnly y) (k : y.TimesOnly z) : x.TimesOnly z :=
  ⟨by rw [k.rest, h.rest], k.ids.trans h.ids, fun w => by rw [k.warp, h.warp], fun w l => (k.thread w l).trans (h.thread w l)⟩

/-- Threads get late notices, and nothing else of the block changes. -/
theorem Block.modThreads_timesOnly (bk : Block) (ps : List (Nat × Nat)) (n : List DWord) :
    bk.TimesOnly (bk.modThreads ps fun t => { t with lates := t.lates ++ n }) := by
  refine foldl_keep bk.TimesOnly _ ps bk (.refl bk) fun k p hk => hk.trans _ _ _ ⟨rfl, rfl, fun w => ?_, fun w l => ?_⟩
  · by_cases h : w = p.1
    · subst h; simp [Block.modThread, Warp.modThread]
    · simp [Block.modThread, h]
  · by_cases h : (w, l) = (p.1, p.2)
    · cases h; simp
    · rw [Block.thread_modThread_ne _ _ _ _ _ _ h]

/-- Blocks are as before but for times, and every queue holds the same requests. -/
def LatesKept (s t : State) : Prop :=
  BlocksKept Block.TimesOnly s t ∧ ∀ c, (t.core c).copyQ.map (·.id) = (s.core c).copyQ.map (·.id)

theorem LatesKept.refl (s : State) : LatesKept s s := ⟨.of_same Block.TimesOnly.refl rfl rfl rfl, fun _ => rfl⟩
theorem LatesKept.trans {s t u : State} (h : LatesKept s t) (k : LatesKept t u) : LatesKept s u :=
  ⟨h.1.trans Block.TimesOnly.trans k.1, fun c => (k.2 c).trans (h.2 c)⟩

/-- A change of a block's requests that keeps their numbers. -/
theorem State.mapReqs_kept (s : State) (c b : Nat) (f : CopyReq → CopyReq) (h : ∀ r, (f r).id = r.id) : LatesKept s (s.mapReqs c b f) := by
  refine ⟨?_, fun d => ?_⟩
  · exact BlocksKept.modBlock (s := s.modCore c _) Block.TimesOnly.refl b _ fun x _ =>
      ⟨rfl, CopyReq.ids_map x.carried f h, fun _ => rfl, fun _ _ => rfl⟩
  · by_cases hd : d = c
    · subst hd
      simp only [State.mapReqs, State.core_modBlock, State.core_modCore_self]
      exact CopyReq.ids_map _ _ fun r => by split <;> simp [h]
    · simp [State.mapReqs, hd]

/-- A late request is marked, and its threads get the notice (R234). -/
theorem State.lateReq_kept (s : State) (b q : Nat) : LatesKept s (s.lateReq b q) := by
  unfold State.lateReq
  split
  · exact .refl s
  · split
    · exact .refl s
    · split
      · exact .refl s
      · split
        · dsimp only
          split
          · exact .refl s
          · refine (s.mapReqs_kept _ b _ fun r => ?_).trans ⟨.modBlock Block.TimesOnly.refl b _ fun x _ => x.modThreads_timesOnly _ _, fun _ => rfl⟩
            split <;> rfl
        · exact .refl s

/-- LATE raised for every request that has missed its deadline. -/
theorem State.raiseLates_kept (s : State) : LatesKept s s.raiseLates := by
  refine foldl_keep (LatesKept s) _ s.blocks s (.refl s) fun u p hu => ?_
  split
  · exact hu
  · exact foldl_keep (LatesKept s) _ _ u hu fun v r hv => hv.trans (v.lateReq_kept _ _)

/-! ### Requests that enter the queue (R222) -/

/-- Requests that enter a queue leave their blocks, of which nothing else changes. -/
theorem State.feed_kept (s : State) (c : Nat) : BlocksKept Block.DrainOnly s (s.feed c) := by
  refine .foldl Block.DrainOnly.refl Block.DrainOnly.trans _ _ fun u p => ?_
  split
  · exact .of_same Block.DrainOnly.refl rfl rfl rfl
  · exact .modBlock Block.DrainOnly.refl p.1 _ fun _ _ => rfl

/-- The step of `feed` for one block. -/
def State.feedOne (c : Nat) (s : State) (p : Nat × Block) : State :=
  if p.2.drain.isSome || p.2.carried.isEmpty then s
  else
    let n := 64 - (s.core c).copyQ.length
    (s.modCore c fun k => { k with copyQ := k.copyQ ++ p.2.carried.take n }).modBlock p.1 fun bk => { bk with carried := bk.carried.drop n }

theorem State.feed_eq (s : State) (c : Nat) : s.feed c = (s.blocksOn c).foldl (State.feedOne c) s := rfl

/-- Blocks that bring no request add none. -/
theorem State.feedOne_of_none (s : State) (c : Nat) (l : List (Nat × Block)) (h : ∀ p ∈ l, p.2.carried = []) : l.foldl (State.feedOne c) s = s := by
  induction l with
  | nil => rfl
  | cons p r ih =>
    have none : s.feedOne c p = s := by simp [State.feedOne, h p (by simp)]
    rw [List.foldl_cons, none, ih fun x hx => h x (List.mem_cons_of_mem _ hx)]

/-- Where one block alone brings requests, they enter as far as there is room, and the others wait with it (R222, log 141). -/
theorem State.feed_one (s : State) (c b : Nat) (z : Block) (before after : List (Nat × Block)) (hb : s.block? b = some z)
    (on : s.blocksOn c = before ++ (b, z) :: after) (others : ∀ p ∈ before ++ after, p.2.carried = []) (off : z.drain = none) :
    ((s.feed c).core c).copyQ = (s.core c).copyQ ++ z.carried.take (64 - (s.core c).copyQ.length) ∧
      (s.feed c).block? b = some { z with carried := z.carried.drop (64 - (s.core c).copyQ.length) } := by
  have runs : s.feed c = s.feedOne c (b, z) := by
    rw [State.feed_eq, on, List.foldl_append, List.foldl_cons, State.feedOne_of_none s c before fun p hp => others p (by simp [hp]),
      State.feedOne_of_none _ c after fun p hp => others p (by simp [hp])]
  rw [runs]
  by_cases empty : z.carried = []
  · have same : s.feedOne c (b, z) = s := by simp [State.feedOne, empty]
    rw [same, empty, List.take_nil, List.drop_nil, List.append_nil, hb, ← empty]
    exact ⟨rfl, rfl⟩
  · simp [State.feedOne, off, empty, hb]

/-! ### New row numbers and another clock (R4, R131, R313) -/

theorem Block.warp_renumber (bk : Block) (m : List (Nat × Nat)) (w : Nat) : (bk.renumber m).warp w = (bk.warp w).renumber m := by
  simp only [Block.warp, Block.renumber, Tbl.getD, Tbl.get_mapVal]
  cases Tbl.get? bk.warps w <;> rfl

/-- What a thread takes along to another core: all but its holds, and the times of the core that it leaves. -/
def Thread.luggage (t : Thread) : Thread :=
  { t with holds := [], kept := [], ready := 0, since := none, stood := none, wake := 0, lates := [] }

/-- Threads with the same luggage agree in it. -/
theorem Thread.of_luggage {t u : Thread} (h : t.luggage = u.luggage) :
    t.pc = u.pc ∧ t.o = u.o ∧ t.p = u.p ∧ t.stack = u.stack ∧ t.live = u.live := by
  have pc := congrArg Thread.pc h
  have o := congrArg Thread.o h
  have p := congrArg Thread.p h
  have stack := congrArg Thread.stack h
  have live := congrArg Thread.live h
  exact ⟨pc, o, p, stack, live⟩

theorem Block.TimesOnly.waits {x y : Block} (h : x.TimesOnly y) (w l : Nat) :
    (y.thread w l).ready = (x.thread w l).ready ∧ (y.thread w l).holds = (x.thread w l).holds := by
  have ready := congrArg Thread.ready (h.thread w l)
  have holds := congrArg Thread.holds (h.thread w l)
  exact ⟨ready, holds⟩

theorem Block.TimesOnly.luggage {x y : Block} (h : x.TimesOnly y) (w l : Nat) : (y.thread w l).luggage = (x.thread w l).luggage := by
  have same := congrArg Thread.luggage (h.thread w l)
  exact same

/-- After all threads have changed alike, a thread is changed or was never there. -/
theorem Block.thread_allThreads_or (bk : Block) (f : Thread → Thread) (w l : Nat) :
    (bk.allThreads f).thread w l = f (bk.thread w l) ∨ (bk.allThreads f).thread w l = .fresh ∧ bk.thread w l = .fresh := by
  simp only [Block.thread, Block.warp, Block.allThreads, Tbl.getD, Tbl.get_mapVal, Warp.thread]
  cases Tbl.get? bk.warps w with
  | none => exact .inr ⟨rfl, rfl⟩
  | some wp =>
    simp only [Option.map_some, Option.getD_some, Tbl.get_mapVal]
    cases Tbl.get? wp.threads l with
    | none => exact .inr ⟨rfl, rfl⟩
    | some t => exact .inl rfl

/-- The block as it stands on core c, with the new row numbers m, as core cycle `now` begins. -/
def Block.standing (bk : Block) (c : Nat) (m : List (Nat × Nat)) (now : Nat) : Block :=
  ({ (bk.renumber m) with place := .core c, restoring := false }.moveClock now).allThreads fun t =>
    { t with ready := 0, since := none, stood := none }

section
variable (bk : Block) (c : Nat) (m : List (Nat × Nat)) (now w l : Nat)

/-- Scalars stay, and the map has the new row numbers. -/
theorem Block.warp_standing : ((bk.standing c m now).warp w).s = (bk.warp w).s ∧
    ((bk.standing c m now).warp w).map = ((bk.warp w).renumber m).map := by
  have before : ({ (bk.renumber m) with place := .core c, restoring := false } : Block).warp w = (bk.warp w).renumber m := bk.warp_renumber m w
  unfold Block.standing
  rw [Block.warp_allThreads, Block.moveClock]
  dsimp only
  rw [Block.warp_allThreads, before]
  exact ⟨rfl, rfl⟩

/-- The thread before its clock moves. -/
theorem Block.thread_renumber : (bk.renumber m).thread w l = bk.thread w l := by
  rw [Block.thread, Block.warp_renumber]; rfl

theorem Block.luggage_standing : ((bk.standing c m now).thread w l).luggage = (bk.thread w l).luggage := by
  unfold Block.standing
  refine (Block.thread_allThreads _ _ w l Thread.luggage ?_).trans ?_
  · exact fun _ => rfl
  · unfold Block.moveClock
    refine (Block.thread_allThreads _ _ w l Thread.luggage ?_).trans (congrArg Thread.luggage (bk.thread_renumber m w l))
    exact fun _ => rfl

theorem Block.ready_standing : ((bk.standing c m now).thread w l).ready = 0 := by
  rw [Block.standing]
  rcases Block.thread_allThreads_or ({ (bk.renumber m) with place := .core c, restoring := false }.moveClock now)
    (fun t => { t with ready := 0, since := none, stood := none }) w l with moved | ⟨fresh, -⟩
  · rw [moved]
  · rw [fresh]; rfl

/-- A hold that counts core cycles has as many left on the core it comes to (R4, R315). -/
theorem Block.untilCore_standing (n : Nat) (h : .untilCore n ∈ (bk.thread w l).holds) :
    .untilCore (n - bk.leftAt + now) ∈ ((bk.standing c m now).thread w l).holds := by
  unfold Block.standing
  rw [Block.thread_allThreads _ (fun t => { t with ready := 0, since := none, stood := none }) w l Thread.holds fun _ => rfl, Block.moveClock]
  have before : ({ (bk.renumber m) with place := .core c, restoring := false } : Block).thread w l = bk.thread w l := bk.thread_renumber m w l
  rcases Block.thread_allThreads_or { (bk.renumber m) with place := .core c, restoring := false } _ w l with moved | ⟨-, fresh⟩
  · rw [moved, before]
    exact List.mem_map.mpr ⟨_, h, rfl⟩
  · rw [before] at fresh
    rw [fresh] at h
    cases h

end

end Sys2Proof.Machine
end

section
/-! PROOF. The arrival of a block on its core, and blocks that relocate (R4, R7, R131, R222, R287, R311, R313–R315). -/

namespace Sys2Proof.Machine

open Sys2Proof Sys2Proof.Claims

/-! ### The arrival -/

/-- Where the entry of a key stands, and what a change of it leaves of the table. -/
theorem Tbl.split_of_get {α : Type} (t : Tbl α) (k : Nat) (v : α) (h : Tbl.get? t k = some v) :
    ∃ before after : List (Nat × α), t = before ++ (k, v) :: after ∧ ∀ f, Tbl.mod t k f = before ++ (k, f v) :: after := by
  induction t with
  | nil => cases h
  | cons e r ih =>
    obtain ⟨j, w⟩ := e
    by_cases hj : j = k
    · subst hj
      rw [Tbl.get_cons_self, Option.some.injEq] at h
      subst h
      exact ⟨[], r, rfl, fun f => by simp [Tbl.mod]⟩
    · rw [Tbl.get_cons_ne j k w r (Ne.symm hj)] at h
      obtain ⟨before, after, here, mod⟩ := ih h
      exact ⟨(j, w) :: before, after, by rw [here]; rfl, fun f => by simp [Tbl.mod, hj, mod f]⟩

/-- A refresh leaves the truth alone (R22). -/
@[simp] theorem MemSys.truth_refresh (m : MemSys) (c lv : Nat) : (m.refresh c lv).truth = m.truth := by
  refine foldl_keep (fun n : MemSys => n.truth = m.truth) _ _ m rfl fun n k hn => ?_
  split
  · rw [MemSys.truth_dropAt, hn]
  · exact hn

/-- The core cycle at hand is that of the cluster's clock and of the core's part of the cycle (R4). -/
theorem State.coreNow_congr (s t : State) (c : Nat) (cyc : t.cyc = s.cyc) (clusters : t.mp.clusters = s.mp.clusters)
    (part : (t.core c).part = (s.core c).part) : t.coreNow c = s.coreNow c := by
  simp [State.coreNow, State.coreCycleAt, State.cluster, cyc, clusters, part]

/-- The new row numbers depend on the rows that the core's blocks hold and on the core's rows alone (R131). -/
theorem State.renumber_congr (s t : State) (c : Nat) (bk : Block) (blocks : t.blocks = s.blocks) (iss : t.iss = s.iss) (caps : t.mp.caps = s.mp.caps) :
    t.renumber c bk = s.renumber c bk := by
  have free : ∀ k used, t.freeRowBut c k used = s.freeRowBut c k used := fun k used => by
    simp only [State.freeRowBut, State.rowIdle, State.blocksOn, State.cap, blocks, iss, caps]
  simp only [State.renumber, free]

/-- Block b as it stands on core c, with the new row numbers m, before its requests enter the queue: the times are moved by the pause, the
core's rows are its own, and its clock is the core's. -/
def State.settled (s : State) (b c q : Nat) (m : List (Nat × Nat)) : State :=
  let moved := s.shiftBy b q (s.cyc - q)
  (moved.modBlock b fun x => x.standing c m (moved.coreNow c)).modCore c fun k =>
    { k with holders := (m.map (·.2)).foldl (fun h r => Tbl.put h r b) k.holders }

/-- A block in transfer whose core is there settles on it, and its requests enter the queue; an image that cannot be read ends the context. -/
theorem State.arriveCore_of_present (s : State) (b c q resume : Nat) (bk : Block) (hb : s.block? b = some bk) (place : bk.place = .moving c resume q)
    (due : resume ≤ s.cyc) (going : s.ctxEnding bk.ctx = false) (present : (s.cap c).present = true) :
    ∃ (ms : MemSys) (ctxs : Tbl Ctx) (records : List Record), ms.truth = s.ms.truth ∧
      s.arriveCore b = (((State.settled { s with ms, ctxs, mp := { s.mp with records } } b c q (s.renumber c bk)).feed c).leaseCheck
        bk.ctx).raiseLates.evalTasks := by
  have ended : ∃ ctxs records, (if bk.restoring then s.endTrunk bk.ctx (bk.trunkFault bk.badImage) else s) =
      { s with ctxs, mp := { s.mp with records } } := by
    split
    · exact ⟨_, _, s.endTrunk_frame _ _⟩
    · exact ⟨s.ctxs, s.mp.records, rfl⟩
  obtain ⟨ctxs, records, ended⟩ := ended
  have rows : State.renumber { s with ctxs, mp := { s.mp with records } } c bk = s.renumber c bk := State.renumber_congr _ _ c bk rfl rfl rfl
  let fresh := s.ms.refresh c (if clusterOf bk.origin = clusterOf c then 1 else 2)
  refine ⟨{ fresh with icache := Tbl.erase fresh.icache c }, ctxs, records, by simp [fresh], ?_⟩
  unfold State.arriveCore
  simp only [hb, place]
  rw [if_neg (by simp [going, due]), if_neg (by simp [present]), ended, rows]
  rfl

/-- What has settled: memory and the cycle are as before, the block stands with other times and new row numbers, every queue holds the same
requests, and the blocks that stand on the core besides it keep theirs. -/
theorem State.settled_spec (s : State) (b c q : Nat) (bk : Block) (m : List (Nat × Nat)) (hb : s.block? b = some bk) :
    ∃ (x : Block) (before after : List (Nat × Block)), (s.settled b c q m).ms = s.ms ∧ (s.settled b c q m).cyc = s.cyc ∧ bk.TimesOnly x ∧
      (s.settled b c q m).block? b = some (x.standing c m (s.coreNow c)) ∧
      ((s.settled b c q m).core c).copyQ.map (·.id) = (s.core c).copyQ.map (·.id) ∧
      (s.settled b c q m).blocksOn c = before ++ (b, x.standing c m (s.coreNow c)) :: after ∧
      ∀ p ∈ before ++ after, ∃ r ∈ s.blocksOn c, p.2.carried.map (·.id) = r.2.carried.map (·.id) := by
  obtain ⟨g, f, shifts, ids, times⟩ := s.shiftBy_spec b q (s.cyc - q)
  have found : Tbl.get? (Tbl.mapKV s.blocks f) b = some (f b bk) := by
    rw [Tbl.get_mapKV, show Tbl.get? s.blocks b = some bk from hb, Option.map_some]
  obtain ⟨before, after, here, mod⟩ := Tbl.split_of_get _ b _ found
  unfold State.settled
  dsimp only
  generalize s.shiftBy b q (s.cyc - q) = w at shifts
  have blocks : w.blocks = Tbl.mapKV s.blocks f := by rw [shifts]
  have core : w.core c = { s.core c with copyQ := (s.core c).copyQ.map g } := by
    rw [shifts, State.core, Tbl.getD, Tbl.get_mapVal, State.core, Tbl.getD]
    cases Tbl.get? s.cores c <;> rfl
  rw [State.coreNow_congr s w c (by rw [shifts]) (by rw [shifts]) (by rw [core])]
  refine ⟨f b bk, before.filter fun p => p.2.core? == some c, after.filter fun p => p.2.core? == some c, ?_, ?_, (times b bk).1, ?_, ?_, ?_,
    fun p hp => ?_⟩
  · rw [State.modCore_ms, State.modBlock_ms, shifts]
  · rw [State.modCore_cyc, State.modBlock_cyc, shifts]
  · rw [State.block_modCore, State.block_modBlock_self, State.block?, blocks, found, Option.map_some]
  · rw [State.core_modCore_self, State.core_modBlock, core]
    exact CopyReq.ids_map _ g ids
  · rw [State.blocksOn, State.modCore_blocks, State.modBlock, blocks, mod, List.filter_append, List.filter_cons]
    exact congrArg _ (if_pos (beq_self_eq_true _))
  · have there : p ∈ Tbl.mapKV s.blocks f ∧ p.2.core? = some c := by
      rw [here]
      rcases List.mem_append.mp hp with hp | hp <;> obtain ⟨mem, on⟩ := List.mem_filter.mp hp
      · exact ⟨List.mem_append_left _ mem, by simpa using on⟩
      · exact ⟨List.mem_append_right _ (List.mem_cons_of_mem _ mem), by simpa using on⟩
    obtain ⟨mem, on⟩ := there
    obtain ⟨r, hr, rfl⟩ := List.mem_map.mp mem
    have only := (times r.1 r.2).1
    have stood : (f r.1 r.2).core? = r.2.core? := by rw [only.rest]; rfl
    exact ⟨r, List.mem_filter.mpr ⟨hr, by rw [← stood, on]; exact beq_self_eq_true _⟩, only.ids⟩

/-! ### The row that a block comes with -/

/-- The only row of a block takes the lowest free number of its bank (R131). -/
theorem State.renumber_of_one (s : State) (c r r' : Nat) (bk : Block) (held : bk.held = [r]) (free : s.freeRow c (r % 4) = some r') :
    s.renumber c bk = [(r, r')] := by
  have olds : (([0, 1, 2, 3] : List Nat).flatMap fun k => (sortBy id bk.held).filter (· % 4 == k)) = [r] := by
    have lt : r % 4 < 4 := Nat.mod_lt r (by decide)
    rw [held]
    generalize hk : r % 4 = k at lt
    match k, lt with
    | 0, _ | 1, _ | 2, _ | 3, _ => simp [sortBy, insertBy, hk]
  unfold State.freeRow at free
  unfold State.renumber
  rw [olds]
  simp [free]

/-! ### The block that has resumed -/

/-- y is the block bk as it stands on core c with the row numbers m from core cycle `now` on: moved by its pause, less the requests that entered
the queue, and told what is late. -/
def Block.Resumed (bk : Block) (c : Nat) (m : List (Nat × Nat)) (now : Nat) (y : Block) : Prop :=
  ∃ x v, bk.TimesOnly x ∧ (x.standing c m now).DrainOnly v ∧ v.TimesOnly y

namespace Block.Resumed

variable {bk y : Block} {c now : Nat} {m : List (Nat × Nat)} (h : bk.Resumed c m now y)
include h

/-- It stands on its core with its window, and its rows under their new numbers. -/
theorem stands : y.place = .core c ∧ y.win = bk.win ∧ y.rows = sortBy (fun p => p.1) (m.map fun e => (e.2, bk.row e.1)) := by
  obtain ⟨x, v, times, fed, late⟩ := h
  rw [late.rest, fed, times.rest]
  exact ⟨rfl, rfl, rfl⟩

/-- Its threads are as they were, and wait for no core cycle of their own. -/
theorem threads (w l : Nat) : (y.thread w l).luggage = (bk.thread w l).luggage ∧ (y.thread w l).ready = 0 := by
  obtain ⟨x, v, times, fed, late⟩ := h
  have same : v.thread w l = (x.standing c m now).thread w l := by rw [fed]; rfl
  refine ⟨?_, by rw [(late.waits w l).1, same, Block.ready_standing]⟩
  calc (y.thread w l).luggage
    _ = (v.thread w l).luggage := late.luggage w l
    _ = (x.thread w l).luggage := by rw [same, Block.luggage_standing]
    _ = (bk.thread w l).luggage := times.luggage w l

/-- Its holds that count core cycles have as many left. -/
theorem holds (w l n : Nat) (hold : .untilCore n ∈ (bk.thread w l).holds) : .untilCore (n - bk.leftAt + now) ∈ (y.thread w l).holds := by
  obtain ⟨x, v, times, fed, late⟩ := h
  have same : v.thread w l = (x.standing c m now).thread w l := by rw [fed]; rfl
  have moved := x.untilCore_standing c m now w l n (by rw [(times.waits w l).2]; exact hold)
  rw [show x.leftAt = bk.leftAt by rw [times.rest]] at moved
  rwa [(late.waits w l).2, same]

/-- Its warps have their scalars, and their maps the new row numbers. -/
theorem warps (w : Nat) : (y.warp w).s = (bk.warp w).s ∧ (y.warp w).map = ((bk.warp w).renumber m).map := by
  obtain ⟨x, v, times, fed, late⟩ := h
  have same : v.warp w = (x.standing c m now).warp w := by rw [fed]; rfl
  obtain ⟨scalars, map⟩ := x.warp_standing c m now w
  rw [late.warp, same]
  exact ⟨scalars.trans (by rw [times.warp]), map.trans (by rw [times.warp]; rfl)⟩

end Block.Resumed

/-- A block that has one row finds it under its new number. -/
theorem Block.Resumed.row {bk y : Block} {c now r r' : Nat} (h : bk.Resumed c [(r, r')] now y) :
    y.row r' = bk.row r ∧ ∀ w n, bk.mapOf w n = some (.row r) → y.mapOf w n = some (.row r') := by
  obtain ⟨-, -, rows⟩ := h.stands
  refine ⟨by rw [Block.row, rows]; simp [sortBy, insertBy, Tbl.getD], fun w n maps => ?_⟩
  have here : Tbl.get? (bk.warp w).map n.toNat = some (.row r) := maps
  rw [Block.mapOf, (h.warps w).2, Warp.renumber, Tbl.get_mapVal, here]
  simp [newRow]

/-- R7: a block in transfer whose core has become absent goes on to another, with its threads, rows and window (log 139). -/
theorem State.reroute_spec (s : State) (b c q d : Nat) (bk : Block) (hb : s.block? b = some bk)
    (land : s.placeFor bk.ctx bk.task bk.blk bk.lpb (fun d => !s.tileClash b d) = some d) :
    ∃ y, (s.reroute b bk c q).ms = s.ms ∧ (s.reroute b bk c q).cyc = s.cyc ∧ (s.reroute b bk c q).block? b = some y ∧
      y.place = .moving d (s.cyc + (1024 + ceilDiv bk.size (if bk.restoring = false ∧ dieOf c = dieOf d then 256 else 128))) q ∧
      y.warps = bk.warps ∧ y.rows = bk.rows ∧ y.win = bk.win := by
  obtain ⟨ms, cyc, blocks⟩ := s.moveTiles_kept b bk.ctx c d
  obtain ⟨y, hy, only⟩ := blocks b bk hb
  rw [State.reroute, land]
  refine ⟨_, ms, cyc, by rw [State.block_modBlock_self, hy, Option.map_some], ?_⟩
  rw [only]; simp [Block.transfer, Block.size]

/-- R7, R4, R131, R222, R287, R311, R313–R315: the end of a transfer. -/
theorem blocksResume : BlocksResume := by
  intro s b c q resume bk hb place
  refine ⟨fun not => congrArg Host.Outcome.next ?_, fun due going absent => ?_, fun due going present => ?_⟩
  · rcases not with h | h <;> simp [State.arriveCore, hb, place, h]
  · have runs : s.arriveCore b = s.reroute b bk c q := by
      simp [State.arriveCore, hb, place, Nat.not_lt.mpr due, going, absent]
    refine ⟨fun none => congrArg Host.Outcome.next ?_, fun d land => ?_⟩
    · simp only [runs, State.reroute, none]
    · obtain ⟨y, spec⟩ := s.reroute_spec b c q d bk hb land
      exact ⟨_, y, congrArg Host.Outcome.next runs, spec⟩
  · obtain ⟨memory, ctxs, records, truth, runs⟩ := s.arriveCore_of_present b c q resume bk hb place due going present
    obtain ⟨x, before, after, ms, cyc, times, stands, queue, on, others⟩ :=
      State.settled_spec { s with ms := memory, ctxs, mp := { s.mp with records } } b c q bk (s.renumber c bk) hb
    generalize State.settled { s with ms := memory, ctxs, mp := { s.mp with records } } b c q (s.renumber c bk) = u at runs ms cyc stands queue on
    have now : State.coreNow { s with ms := memory, ctxs, mp := { s.mp with records } } c = s.coreNow c := rfl
    rw [now] at stands on
    have queue : (u.core c).copyQ.map (·.id) = (s.core c).copyQ.map (·.id) := queue
    obtain ⟨fms, fcyc, fblocks⟩ := u.feed_kept c
    obtain ⟨v, hv, fed⟩ := fblocks b _ stands
    obtain ⟨⟨lms, lcyc, lblocks⟩, lqueue⟩ := ((u.feed c).leaseCheck bk.ctx).raiseLates_kept
    obtain ⟨y, hy, late⟩ := lblocks b v hv
    have resumed : bk.Resumed c (s.renumber c bk) (s.coreNow c) y := ⟨x, v, times, fed, late⟩
    obtain ⟨standsAt, win, -⟩ := resumed.stands
    refine ⟨_, y, congrArg Host.Outcome.next runs, (congrArg MemSys.truth (lms.trans (fms.trans ms))).trans truth, lcyc.trans (fcyc.trans cyc),
      hy, standsAt, win, fun w l => ?_, resumed.holds, fun w => (resumed.warps w).1, ?_, fun r r' held free => ?_⟩
    · obtain ⟨luggage, ready⟩ := resumed.threads w l
      obtain ⟨pc, o, p, stack, live⟩ := Thread.of_luggage luggage
      exact ⟨pc, o, p, stack, live, ready⟩
    · intro room off alone
      have none : ∀ p ∈ before ++ after, p.2.carried = [] := fun p hp => by
        obtain ⟨r, hr, ids⟩ := others p hp
        rwa [alone r hr, List.map_nil, List.map_eq_nil_iff] at ids
      have length : (u.core c).copyQ.length = (s.core c).copyQ.length := by simpa using congrArg List.length queue
      obtain ⟨fqueue, fblock⟩ := u.feed_one c b _ before after stands on none (by show x.drain = _; rw [times.rest]; exact off)
      rw [hv, Option.some.injEq] at fblock
      have entered := (lqueue c).trans (congrArg (List.map (·.id)) fqueue)
      rw [List.map_append, queue, List.map_take, length] at entered
      have left : v.carried.map (·.id) = (x.carried.map (·.id)).drop room := by rw [fblock, ← List.map_drop, length]; rfl
      exact ⟨entered.trans (by rw [← times.ids]; rfl), by rw [late.ids, left, times.ids]⟩
    · rw [s.renumber_of_one c r r' bk held free] at resumed
      exact resumed.row

end Sys2Proof.Machine

namespace Sys2Proof.Proofs

open Sys2Proof Sys2Proof.Machine

/-- Settles O54: each step of a relocation changes of a block only its place, its drain and its times (and, for tiles, save areas), so that a
block leaves, comes back and arrives with the threads, rows, window and requests it had; on arrival its rows are renumbered and its clock moves. -/
theorem blocksRelocate : Obligations.BlocksRelocate := by
  unfold Obligations.BlocksRelocate
  exact ⟨drainsEnd, blocksResume, blocksAreRestored, blocksMigrate⟩

end Sys2Proof.Proofs
end

section
/-! PROOF. The decoder and the encoder are inverse to each other, on words and on halves of P words (R35–R43, R46–R49, R51). -/

namespace Sys2Proof

/-- A 9-bit specifier is the specifier of the register that it names. -/
theorem encodeReg9_of_decodeReg9 (x : BitVec 9) : ∀ r ∈ decodeReg9 x, encodeReg9 r = x := by
  revert x; decide

/-- An 8-bit specifier is the specifier of the register that it names, which has one. -/
theorem encodeReg8_of_decodeReg8 (x : BitVec 8) : ∀ r ∈ decodeReg8 x, encodeReg8 r = x ∧ r.fits8 = true := by
  revert x; decide

/-- A bit of a word is the field of width 1 at its place. -/
theorem ofBool_getLsbD {n : Nat} (x : BitVec n) (i : Nat) : BitVec.ofBool (x.getLsbD i) = x.extractLsb' i 1 := by
  ext j hj
  obtain rfl : j = 0 := by omega
  simp

/-! ### A word is the layout of its fields (R35, R36, R38, R39) -/

theorem packF_of_fieldsF (x : BitVec 64) (w : FWord) (form : x.extractLsb' 62 2 = 0#2) (h : fieldsF x = some w) :
    packF (x.extractLsb' 54 8) w = x := by
  simp only [fieldsF, Option.bind_eq_bind, Option.bind_eq_some_iff, Option.pure_def, Option.some.injEq] at h
  obtain ⟨d, hd, a, ha, b, hb, c, hc, rfl⟩ := h
  simp only [packF, encodeReg9_of_decodeReg9 _ _ hd, encodeReg9_of_decodeReg9 _ _ ha, encodeReg9_of_decodeReg9 _ _ hb,
    encodeReg9_of_decodeReg9 _ _ hc, ofBool_getLsbD, ← form, BitVec.extractLsb'_append_extractLsb'_eq_extractLsb']
  exact BitVec.extractLsb'_eq_self

theorem packI_of_fieldsI (x : BitVec 64) (w : IWord) (form : x.extractLsb' 62 2 = 2#2) (h : fieldsI x = some w) :
    packI (x.extractLsb' 54 8) w = x := by
  simp only [fieldsI, Option.bind_eq_bind, Option.bind_eq_some_iff, Option.pure_def, Option.some.injEq] at h
  obtain ⟨d, hd, a, ha, rfl⟩ := h
  simp only [packI, encodeReg9_of_decodeReg9 _ _ hd, encodeReg9_of_decodeReg9 _ _ ha, ofBool_getLsbD, ← form,
    BitVec.extractLsb'_append_extractLsb'_eq_extractLsb']
  exact BitVec.extractLsb'_eq_self

theorem packM_of_fieldsM (x : BitVec 64) (w : MWord) (form : x.extractLsb' 62 2 = 3#2) (h : fieldsM x = some w) :
    packM (x.extractLsb' 56 6) w = x := by
  simp only [fieldsM, Option.bind_eq_bind, Option.bind_eq_some_iff, Option.pure_def, Option.some.injEq] at h
  obtain ⟨d, hd, a, ha, b, hb, rfl⟩ := h
  simp only [packM, encodeReg9_of_decodeReg9 _ _ hd, encodeReg9_of_decodeReg9 _ _ ha, encodeReg9_of_decodeReg9 _ _ hb,
    ofBool_getLsbD, ← form, BitVec.extractLsb'_append_extractLsb'_eq_extractLsb']
  exact BitVec.extractLsb'_eq_self

theorem packP_of_fieldsP (x : BitVec 31) (h : PHalf) (hx : fieldsP x = some h) : packP (x.extractLsb' 25 6) h = x := by
  simp only [fieldsP, Option.bind_eq_bind, Option.bind_eq_some_iff, Option.pure_def, Option.some.injEq] at hx
  obtain ⟨d, hd, s, hs, rfl⟩ := hx
  simp only [packP, (encodeReg8_of_decodeReg8 _ _ hd).1, (encodeReg8_of_decodeReg8 _ _ hs).1, ofBool_getLsbD,
    BitVec.extractLsb'_append_extractLsb'_eq_extractLsb']
  exact BitVec.extractLsb'_eq_self

/-! ### Words (R37, R42, R43, R47, R48) -/

/-- The checks of a word pass just where the instruction is well formed (R51 row 4). -/
theorem Instr.check_eq_ok (i j : Instr) : i.check = .ok j ↔ i = j ∧ i.wf = true := by
  unfold Instr.check Instr.wf
  cases i.operandsOk <;> cases i.guardOk <;> cases i.modOk <;> simp

/-- An instruction stands under a word in one of the operation maps, that of the word's form (R47, R48). -/
inductive MappedAs : Instr → BitVec 64 → Prop where
  | formF (op : BitVec 8) (w : FWord) (i : Instr) (map : opF op.toNat w = some i) : MappedAs i (packF op w)
  | formI (op : BitVec 8) (w : IWord) (i : Instr) (map : opI op.toNat w = some i) : MappedAs i (packI op w)
  | formM (op : BitVec 6) (w : MWord) (i : Instr) (map : opM op.toNat w = some i) : MappedAs i (packM op w)

theorem encodeWord_of_opF (n : Nat) (w : FWord) (i : Instr) (h : opF n w = some i) : encodeWord i = some (packF (BitVec.ofNat 8 n) w) := by
  unfold opF at h
  split at h
  all_goals cases h
  all_goals rfl

theorem encodeWord_of_opI (n : Nat) (w : IWord) (i : Instr) (h : opI n w = some i) : encodeWord i = some (packI (BitVec.ofNat 8 n) w) := by
  unfold opI at h
  split at h
  all_goals cases h
  all_goals rfl

theorem encodeWord_of_opM (n : Nat) (w : MWord) (i : Instr) (h : opM n w = some i) : encodeWord i = some (packM (BitVec.ofNat 6 n) w) := by
  unfold opM at h
  split at h
  all_goals cases h
  all_goals rfl

/-- The encoder writes what the operation maps read. -/
theorem MappedAs.encodeWord {i : Instr} {x : BitVec 64} (h : MappedAs i x) : encodeWord i = some x := by
  cases h with
  | formF op w _ map => rw [encodeWord_of_opF _ w i map, BitVec.ofNat_toNat, BitVec.setWidth_eq]
  | formI op w _ map => rw [encodeWord_of_opI _ w i map, BitVec.ofNat_toNat, BitVec.setWidth_eq]
  | formM op w _ map => rw [encodeWord_of_opM _ w i map, BitVec.ofNat_toNat, BitVec.setWidth_eq]

/-- The encoder writes nothing else: only events and halves of P words have no word. -/
theorem MappedAs.of_encodeWord {i : Instr} {x : BitVec 64} (h : Sys2Proof.encodeWord i = some x) : MappedAs i x := by
  cases i with
  | nop w | br w | jmpi w | calli w | ret w | jset w | jwait w | elect w | exit w | sleepc w | napto w | hint w | yield w | eret w
  | srd w | swr w | rnew w | rfree w | rmov w | rswap w | ralias w | give w | take w | mapq w | sete w | empq w | iadd w | isub w
  | imul w | imulh w | imad w | imin w | imax w | iabs w | and w | or w | xor w | not w | shl w | shr w | sar w | rotl w | popc w | clz w
  | brev w | bfx w | bfi w | lea w | iset w | sel w | dup w | iaddx w | idot4 w | fadd w | fsub w | fmul w | ffma w | fmin w | fmax w
  | fset w | frcp w | frsq w | fsqrt w | fex2 w | flg2 w | fsin w | fcos w | ftnh w | fcvt w | cvtef w | hadd2 w | hmul2 w | hfma2 w
  | fdot8 w | topki w | frnd w | f2i w | i2f w | qswp w | qbrd w | shfl w | shflx w | vote w | redw w | scanw w | matchW w =>
    exact Option.some.inj h ▸ .formF _ w _ rfl
  | bra w | call w | jsetI w | trap w | bkpt w | sysc w | sleepcI w | iaddI w | isubI w | imulI w | imulhI w | iminI w | imaxI w | andI w
  | orI w | xorI w | shlI w | shrI w | sarI w | rotlI w | bfxI w | selI w | movi w | faddI w | fsubI w | fmulI w | fminI w | fmaxI w
  | hadd2I w | hmul2I w | shflI w | shflxI w => exact Option.some.inj h ▸ .formI _ w _ rfl
  | ldg w | stg w | ldl w | stl w | ldk w | pref w | phase w | fencel w | amo w | amol w | amos w | acas w | rctr w | rsnap w | cflsh w
  | tlbi w | cpyl w | bcpy w | bcpym w | bcpyg w | bcpya w | bcpyq w | bbini w | bbwt w | lnemp w | mma w | mmau w | accz w | accld w
  | accst w | accvq w | unfcf w | accsv w | accrs w | accown w | bar w | bara w | barw w | spawn w | tnext w | ftnew w | ftful w
  | ftget w | ftwait w | ftdrop w | resamp w | rand w => exact Option.some.inj h ▸ .formM _ w _ rfl
  | _ => cases h

/-- The decoder finds the instruction of an encoding, and checks it. -/
theorem MappedAs.decodeWord {i : Instr} {x : BitVec 64} (h : MappedAs i x) : decodeWord x = i.check := by
  cases h with
  | formF op w _ map => simp [Sys2Proof.decodeWord, packF_form, fieldsF_packF, packF_op, map]
  | formI op w _ map => simp [Sys2Proof.decodeWord, packI_form, fieldsI_packI, packI_op, map]
  | formM op w _ map => simp [Sys2Proof.decodeWord, packM_form, fieldsM_packM, packM_op, map]

/-- What the decoder accepts stands under the word in the map of its form, and is well formed. -/
theorem MappedAs.of_decodeWord {i : Instr} {x : BitVec 64} (h : Sys2Proof.decodeWord x = .ok i) : MappedAs i x ∧ i.wf = true := by
  unfold Sys2Proof.decodeWord at h
  split at h
  · next form =>
    obtain ⟨w, fields, map, wf⟩ : ∃ w, fieldsF x = some w ∧ opF (x.extractLsb' 54 8).toNat w = some i ∧ i.wf = true := by
      grind [Instr.check_eq_ok]
    exact ⟨packF_of_fieldsF x w (BitVec.eq_of_toNat_eq form) fields ▸ .formF _ w i map, wf⟩
  · next form =>
    obtain ⟨w, fields, map, wf⟩ : ∃ w, fieldsI x = some w ∧ opI (x.extractLsb' 54 8).toNat w = some i ∧ i.wf = true := by
      grind [Instr.check_eq_ok]
    exact ⟨packI_of_fieldsI x w (BitVec.eq_of_toNat_eq form) fields ▸ .formI _ w i map, wf⟩
  · next form =>
    obtain ⟨w, fields, map, wf⟩ : ∃ w, fieldsM x = some w ∧ opM (x.extractLsb' 56 6).toNat w = some i ∧ i.wf = true := by
      grind [Instr.check_eq_ok]
    exact ⟨packM_of_fieldsM x w (BitVec.eq_of_toNat_eq form) fields ▸ .formM _ w i map, wf⟩
  · cases h

/-- THE DECODER AND THE ENCODER ARE INVERSE on words: a word is accepted as an instruction just where that is well formed and has the word as
its encoding. -/
theorem decodeWord_eq_ok (x : BitVec 64) (i : Instr) : decodeWord x = .ok i ↔ i.wf = true ∧ encodeWord i = some x := by
  refine ⟨fun h => ?_, fun ⟨wf, h⟩ => ?_⟩
  · obtain ⟨map, wf⟩ := MappedAs.of_decodeWord h
    exact ⟨wf, map.encodeWord⟩
  · rw [(MappedAs.of_encodeWord h).decodeWord]
    exact (i.check_eq_ok i).mpr ⟨rfl, wf⟩

/-! ### Halves of P words (R38, R41, R46, R49) -/

theorem encodeHalf_of_opP (n : Nat) (p : PHalf) (i : Instr) (h : opP n p = some i) : encodeHalf i = some (packP (BitVec.ofNat 6 n) p) := by
  unfold opP at h
  split at h
  all_goals cases h
  all_goals rfl

theorem Reg.v_lt_of_fits8 {r : Reg} (h : r.fits8 = true) (n : BitVec 8) (e : r = .v n) : n.toNat < 128 := by
  subst e
  simpa [Reg.fits8, BitVec.ult] using h

/-- A half is accepted where its fields, its code, its tbd and the checks allow (R46 checks 1 to 4 and 8). -/
theorem decodeHalf_eq_ok (x : BitVec 31) (i : Instr) : decodeHalf x = .ok i ↔
    ∃ h, fieldsP x = some h ∧ opP (x.extractLsb' 25 6).toNat h = some i ∧ i.wf = true ∧
      (unaryCode (x.extractLsb' 25 6).toNat = true → h.tbd = false) := by
  unfold decodeHalf
  generalize (x.extractLsb' 25 6).toNat = n
  cases fieldsP x with
  | none => simp
  | some h =>
    cases map : opP n h with
    | none => simp [map]
    | some j =>
      by_cases trap : unaryCode n = true ∧ h.tbd = true
      · simp [map, trap]
      · have free : unaryCode n = true → h.tbd = false := fun u => Bool.eq_false_iff.mpr fun t => trap ⟨u, t⟩
        simp only [map, Bool.and_eq_true, trap, if_false, Instr.check_eq_ok, Option.some.injEq, exists_eq_left']
        exact ⟨fun ⟨e, wf⟩ => ⟨e, e ▸ wf, free⟩, fun ⟨e, wf, _⟩ => ⟨e, e ▸ wf⟩⟩

theorem encodeHalf_of_decodeHalf {x : BitVec 31} {i : Instr} (h : decodeHalf x = .ok i) : i.wf = true ∧ encodeHalf i = some x := by
  obtain ⟨p, fields, map, wf, -⟩ := (decodeHalf_eq_ok x i).mp h
  exact ⟨wf, by rw [encodeHalf_of_opP _ p i map, BitVec.ofNat_toNat, BitVec.setWidth_eq, packP_of_fieldsP x p fields]⟩

theorem decodeHalf_packP (op : BitVec 6) (p : PHalf) (i : Instr) (map : opP op.toNat p = some i) (wf : i.wf = true)
    (d : p.d.fits8 = true) (s : p.s.fits8 = true) (unary : unaryCode op.toNat = true → p.tbd = false) : decodeHalf (packP op p) = .ok i := by
  rw [decodeHalf_eq_ok, packP_op]
  exact ⟨p, fieldsP_packP op p (Reg.v_lt_of_fits8 d) (Reg.v_lt_of_fits8 s), map, wf, unary⟩

end Sys2Proof

namespace Sys2Proof.Proofs

open Sys2Proof

/-- Settles O1: the encoder writes what the operation maps read, and the fields of a layout are read back. -/
theorem wordsAndHalvesRoundTrip : Obligations.WordsAndHalvesRoundTrip := by
  unfold Obligations.WordsAndHalvesRoundTrip
  refine ⟨fun i x wf h => (decodeWord_eq_ok x i).mpr ⟨wf, h⟩, fun op p i map wf d s unary => ⟨?_, decodeHalf_packP op p i map wf d s unary⟩⟩
  rw [encodeHalf_of_opP _ p i map, BitVec.ofNat_toNat, BitVec.setWidth_eq]

/-- Settles O2: what the decoder finds in a map the encoder writes under the same number, and a word is the layout of its fields. -/
theorem acceptedWordsAreEncodings : Obligations.AcceptedWordsAreEncodings := by
  unfold Obligations.AcceptedWordsAreEncodings
  exact ⟨fun x i => (decodeWord_eq_ok x i).mp, fun x i => encodeHalf_of_decodeHalf⟩

/-- Settles O3: the two tables row by row; a register that an 8-bit specifier names has one, so it is no `$v128` or above. -/
theorem specifiersFollowTheTables : Obligations.SpecifiersFollowTheTables := by
  unfold Obligations.SpecifiersFollowTheTables
  refine ⟨?_, ?_, fun x n h => Reg.v_lt_of_fits8 (encodeReg8_of_decodeReg8 x _ h).2 n rfl⟩
  · decide
  · decide

/-- Settles O5: each word of the manual is decoded as it stands. -/
theorem wordsOfTheManual : Obligations.WordsOfTheManual := by
  unfold Obligations.WordsOfTheManual
  exact ⟨rfl, rfl, rfl, rfl, rfl, rfl, rfl, rfl, rfl⟩

end Sys2Proof.Proofs
end

section
/-! PROOF. Bundles: their control word, their slots, and a word that stands alone (R30, R33, R38, R45, R46, R51). -/

namespace Sys2Proof

/-! ### Slots and bundles -/

/-- A P word is accepted only where both its halves are (R46). -/
theorem decodePair_eq_ok {x : BitVec 64} {hi lo : Instr} (h : decodePair x = .ok (hi, lo)) :
    decodeHalf (highHalf x) = .ok hi ∧ decodeHalf (lowHalf x) = .ok lo := by
  unfold decodePair at h
  split at h
  · next hHi hLo =>
    split at h
    · cases h; exact ⟨hHi, hLo⟩
    · cases h
  all_goals cases h

/-- The words of a slot are well formed and stand at its position (R45, R51). -/
theorem wf_of_decodeSlot {pos : Nat} {cls : BitVec 2} {x : BitVec 64} {ws : List Placed} (h : decodeSlot pos cls x = .ok ws) :
    ∀ p ∈ ws, p.i.wf = true ∧ p.pos = pos := by
  unfold decodeSlot at h
  split at h
  · split at h
    · cases h; simp
    · cases h
  split at h
  · cases h
  split at h
  · split at h
    · next hi lo pair =>
      cases h
      obtain ⟨high, low⟩ := decodePair_eq_ok pair
      simp [(encodeHalf_of_decodeHalf high).1, (encodeHalf_of_decodeHalf low).1]
    · cases h
  · split at h
    · next i word => cases h; simp [((decodeWord_eq_ok x i).mp word).1]
    · cases h

/-- A code bundle's W0 is sound, and its words are those of its three slots (R30, R45, R51). -/
theorem decodeBundle_eq_ok {b : BundleBits} {B : Bundle} (h : decodeBundle b = .ok B) :
    (bundleWord b 0).extractLsb' 60 4 = 10#4 ∧ (bundleWord b 0).extractLsb' 0 49 = 0 ∧
    B.stall = ((bundleWord b 0).extractLsb' 50 4).toNat ∧ B.hint = (bundleWord b 0).getLsbD 49 ∧ composeOk B.words = true ∧
    ∃ x y z, decodeSlot 1 ((bundleWord b 0).extractLsb' 58 2) (bundleWord b 1) = .ok x ∧
      decodeSlot 2 ((bundleWord b 0).extractLsb' 56 2) (bundleWord b 2) = .ok y ∧
      decodeSlot 3 ((bundleWord b 0).extractLsb' 54 2) (bundleWord b 3) = .ok z ∧ B.words = x ++ y ++ z := by
  unfold decodeBundle at h
  dsimp only at h
  split at h
  · cases h
  split at h
  · cases h
  next kind =>
  split at h
  · cases h
  next reserved =>
  cases h1 : decodeSlot 1 ((bundleWord b 0).extractLsb' 58 2) (bundleWord b 1) with
  | error e => simp [h1, bind, Except.bind] at h
  | ok x =>
  cases h2 : decodeSlot 2 ((bundleWord b 0).extractLsb' 56 2) (bundleWord b 2) with
  | error e => simp [h1, h2, bind, Except.bind] at h
  | ok y =>
  cases h3 : decodeSlot 3 ((bundleWord b 0).extractLsb' 54 2) (bundleWord b 3) with
  | error e => simp [h1, h2, h3, bind, Except.bind] at h
  | ok z =>
  simp only [h1, h2, h3, bind, Except.bind] at h
  split at h
  · next limits =>
    cases h
    exact ⟨by simpa using kind, by simpa using reserved, rfl, rfl, limits, x, y, z, rfl, rfl, rfl, rfl⟩
  · cases h

/-! ### A bundle of one word in W1 -/

theorem bundleWord_bundleOf_zero (cls : BitVec 2) (x : BitVec 64) : bundleWord (bundleOf cls x) 0 = 0b1010#4 ++ cls ++ 0#58 := by
  show BitVec.extractLsb' (n := 128 + 64 + (4 + 2 + 58)) 0 64 _ = _
  rw [bundleOf, BitVec.extractLsb'_append_eq_of_add_le (by decide)]
  exact BitVec.extractLsb'_eq_self

theorem bundleWord_bundleOf_one (cls : BitVec 2) (x : BitVec 64) : bundleWord (bundleOf cls x) 1 = x := by
  show BitVec.extractLsb' (n := 128 + 64 + (4 + 2 + 58)) 64 64 _ = _
  rw [bundleOf, BitVec.extractLsb'_append_eq_of_le (by decide), BitVec.extractLsb'_append_eq_of_add_le (by decide)]
  exact BitVec.extractLsb'_eq_self

theorem bundleWord_bundleOf_high (cls : BitVec 2) (x : BitVec 64) (k : Nat) (h : 2 ≤ k) : bundleWord (bundleOf cls x) k = 0 := by
  show BitVec.extractLsb' (n := 128 + 64 + (4 + 2 + 58)) (64 * k) 64 _ = _
  rw [bundleOf, BitVec.extractLsb'_append_eq_of_le (by omega), BitVec.extractLsb'_append_eq_of_le (by omega)]
  simp

/-- The fields of the W0 of such a bundle. -/
theorem bundleOf_control (cls : BitVec 2) :
    let w0 : BitVec 64 := 0b1010#4 ++ cls ++ 0#58
    w0.extractLsb' 60 4 = 10#4 ∧ w0.extractLsb' 58 2 = cls ∧ w0.extractLsb' 56 2 = 0 ∧ w0.extractLsb' 54 2 = 0 ∧
      w0.extractLsb' 50 4 = 0 ∧ w0.getLsbD 49 = false ∧ w0.extractLsb' 0 49 = 0 := by
  revert cls; decide

/-- A word that is accepted alone is no P word. -/
theorem decodeWord_form {x : BitVec 64} {i : Instr} (h : decodeWord x = .ok i) : x.extractLsb' 62 2 ≠ 1#2 := by
  obtain ⟨map, -⟩ := MappedAs.of_decodeWord h
  cases map with
  | formF op w _ _ => rw [packF_form]; decide
  | formI op w _ _ => rw [packI_form]; decide
  | formM op w _ _ => rw [packM_form]; decide

theorem slotFits_classOf (x : BitVec 64) : slotFits (classOf x) x = true := by
  unfold slotFits classOf
  generalize (x.extractLsb' 62 2).toNat = form
  match form with
  | 0 | 1 | 2 | _ + 3 => exact beq_self_eq_true _

theorem classOf_ne_zero (x : BitVec 64) : classOf x ≠ 0#2 := by
  unfold classOf
  split
  · split <;> decide
  · decide
  · split <;> decide
  · decide

/-- A word in a slot of the class that its form asks for is that slot's one word. -/
theorem decodeSlot_classOf (pos : Nat) {x : BitVec 64} {i : Instr} (h : decodeWord x = .ok i) :
    decodeSlot pos (classOf x) x = .ok [⟨pos, .whole, i⟩] := by
  simp [decodeSlot, classOf_ne_zero, slotFits_classOf, decodeWord_form h, h]

@[simp] theorem decodeSlot_empty (pos : Nat) : decodeSlot pos 0#2 0#64 = .ok [] := rfl

end Sys2Proof

namespace Sys2Proof.Proofs

open Sys2Proof

/-- R30, R33, R51: the checks of W0 in their order, and what a bundle that passes them has. -/
theorem bundlesAreChecked : Claims.BundlesAreChecked := by
  intro b
  refine ⟨fun kind => ?_, fun pool code => ?_, fun kind reserved => ?_, fun x h => ?_⟩
  · have : (bundleWord b 0).extractLsb' 60 4 = 6#4 := BitVec.eq_of_toNat_eq kind
    simp [decodeBundle, this]
  · have hp : (bundleWord b 0).extractLsb' 60 4 ≠ 6#4 := fun e => pool (by rw [e]; rfl)
    have hc : (bundleWord b 0).extractLsb' 60 4 ≠ 10#4 := fun e => code (by rw [e]; rfl)
    simp [decodeBundle, hp, hc]
  · have : (bundleWord b 0).extractLsb' 60 4 = 10#4 := BitVec.eq_of_toNat_eq kind
    simp only [decodeBundle, this]
    rw [if_neg (by decide), if_neg (by decide), if_pos (by simpa using reserved)]
  · obtain ⟨kind, reserved, stall, hint, limits, xs, ys, zs, h1, h2, h3, words⟩ := decodeBundle_eq_ok h
    refine ⟨by rw [kind]; rfl, reserved, stall, hint, limits, fun p hp => ?_⟩
    simp only [words, List.mem_append, or_assoc] at hp
    rcases hp with hp | hp | hp
    · obtain ⟨wf, pos⟩ := wf_of_decodeSlot h1 p hp
      exact ⟨wf, by omega, by omega⟩
    · obtain ⟨wf, pos⟩ := wf_of_decodeSlot h2 p hp
      exact ⟨wf, by omega, by omega⟩
    · obtain ⟨wf, pos⟩ := wf_of_decodeSlot h3 p hp
      exact ⟨wf, by omega, by omega⟩

/-- R45, R51: W0 asks for one slot, of the word's class; the other slots are empty. -/
theorem wordsStandAlone : Claims.WordsStandAlone := by
  intro x i word limits
  obtain ⟨kind, c1, c2, c3, stall, hint, reserved⟩ := bundleOf_control (classOf x)
  simp only [decodeBundle, bundleWord_bundleOf_zero, bundleWord_bundleOf_one, bundleWord_bundleOf_high _ _ 2 (by decide),
    bundleWord_bundleOf_high _ _ 3 (by decide), kind, c1, c2, c3, stall, hint, reserved, decodeSlot_classOf 1 word]
  simp [bind, Except.bind, limits]

/-- Settles O4: the decoder's own order of checks, each slot's words well formed at its position, and the fields of a bundle of one word. -/
theorem bundlesAreDecoded : Obligations.BundlesAreDecoded := by
  unfold Obligations.BundlesAreDecoded
  exact ⟨bundlesAreChecked, wordsStandAlone⟩

end Sys2Proof.Proofs
end

section

/-! PROOF. Advice and sleep (R142, R143). -/

namespace Sys2Proof.Claims

open Sys2Proof Sys2Proof.Machine

theorem OnlyThreads.refl (x : Block) (ps : List (Nat × Nat)) : OnlyThreads x x ps := ⟨fun _ _ _ => rfl, fun _ => rfl, rfl⟩

theorem OnlyThreads.trans {x y z : Block} {ps : List (Nat × Nat)} (h : OnlyThreads x y ps) (k : OnlyThreads y z ps) : OnlyThreads x z ps := by
  obtain ⟨threads, warps, rest⟩ := h
  obtain ⟨threads', warps', rest'⟩ := k
  exact ⟨fun w l out => (threads' w l out).trans (threads w l out), fun w => (warps' w).trans (warps w), rest'.trans rest⟩

theorem OnlyThreads.mono {x y : Block} {ps qs : List (Nat × Nat)} (h : OnlyThreads x y ps) (sub : ps ⊆ qs) : OnlyThreads x y qs := by
  obtain ⟨threads, rest⟩ := h
  exact ⟨fun w l out => threads w l fun hp => out (sub hp), rest⟩

theorem onlyThreads_modThread (bk : Block) (p : Nat × Nat) (f : Thread → Thread) : OnlyThreads bk (bk.modThread p.1 p.2 f) [p] := by
  refine ⟨fun w l out => bk.thread_modThread_ne p.1 p.2 w l f fun e => out (e ▸ List.mem_singleton_self p), fun w => ?_, rfl⟩
  by_cases h : w = p.1
  · subst h; rw [Block.modThread, Block.warp_modWarp_self]; rfl
  · rw [Block.modThread, Block.warp_modWarp_ne _ _ _ _ h]

end Sys2Proof.Claims

namespace Sys2Proof.Machine

open Sys2Proof Sys2Proof.Claims

/-- A word that changes one issuing thread after another, each once and by a function of its own. -/
theorem State.foldl_modThread_spec {s : State} (step : State → Nat × Nat → State) (f : Nat × Nat → Thread → Thread)
    (acts : ∀ t p, OnlyBlock s t → step t p = t.modThread t.iss.blk p.1 p.2 (f p)) (ps : List (Nat × Nat)) (once : ps.Nodup)
    {t : State} {x : Block} (only : OnlyBlock s t) (here : t.block? t.iss.blk = some x) :
    OnlyBlock s (ps.foldl step t) ∧ OnlyThreads x (ps.foldl step t).here ps ∧
      ∀ p ∈ ps, (ps.foldl step t).here.thread p.1 p.2 = f p (x.thread p.1 p.2) := by
  induction ps generalizing t x with
  | nil => exact ⟨only, by simp [State.here, here, OnlyThreads.refl], fun p hp => absurd hp (List.not_mem_nil)⟩
  | cons p r ih =>
    obtain ⟨fresh, rest⟩ := List.nodup_cons.mp once
    rw [List.foldl_cons, acts t p only]
    have first : OnlyBlock t (t.modThread t.iss.blk p.1 p.2 (f p)) := t.only_modHere _
    obtain ⟨last, threads, own⟩ := ih rest (only.trans first)
      (show (t.modThread t.iss.blk p.1 p.2 (f p)).block? t.iss.blk = some (x.modThread p.1 p.2 (f p)) by
        rw [State.modThread, State.block_modBlock_self, here, Option.map_some])
    refine ⟨last, ((onlyThreads_modThread x p (f p)).mono (by simp)).trans (threads.mono (by simp)), fun q hq => ?_⟩
    rcases List.mem_cons.mp hq with rfl | hq
    · rw [threads.1 q.1 q.2 fresh, Block.thread_modThread_self]
    · rw [own q hq, Block.thread_modThread_ne]
      exact fun same => fresh (Prod.ext_iff.mpr (Prod.mk.inj same) ▸ hq)

/-- Core cycles of the issuing core last as long as before (R4). -/
theorem OnlyBlock.cycles {s t : State} (h : OnlyBlock s t) (n : Nat) : t.cycles n = s.cycles n := by
  obtain ⟨-, -, -, -, mp, iss, -⟩ := h
  simp only [State.cycles, State.lat, State.cluster, mp, iss]

end Sys2Proof.Machine

namespace Sys2Proof.Proofs

open Sys2Proof Sys2Proof.Machine Sys2Proof.Claims

theorem nopsDoNothing : Claims.NopsDoNothing := by
  intro s w checked
  have same := s.checkIssue_of_checked checked
  exact ⟨congrArg _ same, congrArg _ same, congrArg _ same⟩

theorem hintsAdvise : Claims.HintsAdvise := by
  intro s bk w l x alone
  have runs : exec (.hint x) s = .next (s.modBlock s.iss.blk fun bk => bk.modWarp w fun wp => { wp with hint := x.mod.setWidth 2 }) := by
    show execHint x s = _
    simp only [execHint, s.checkIssue_of_checked alone.issuing.checked, State.warps, alone.grp, warpsOf_one, List.foldl_cons, List.foldl_nil]
  refine ⟨_, runs, s.only_modHere _, ?_⟩
  rw [s.here_modBlock _ bk alone.issuing.here]
  exact ⟨rfl, fun v hv => bk.warp_modWarp_ne w v _ hv, bk.warp_modWarp_self w _⟩

/-- SLEEPC gives every issuing thread its wake time, by the core's cycles and its own count (R142). -/
theorem sleepc_spec {s : State} {bk : Block} (h : Issuing s bk) (once : s.iss.grp.Nodup) (n : Nat → Nat → Word) :
    OnlyBlock s (s.sleepc n) ∧ OnlyThreads bk (s.sleepc n).here s.iss.grp ∧ ∀ p ∈ s.iss.grp, (s.sleepc n).here.thread p.1 p.2 =
      { bk.thread p.1 p.2 with nap := false, wake := s.cyc + s.cycles (1 + s.iss.stall) + (n p.1 p.2).toNat } := by
  refine State.foldl_modThread_spec _ (fun p t => { t with nap := false, wake := s.cyc + s.cycles (1 + s.iss.stall) + (n p.1 p.2).toNat })
    (fun t p only => ?_) s.iss.grp once (OnlyBlock.refl s) h.here
  have cycles := only.cycles (1 + s.iss.stall)
  obtain ⟨-, cyc, -, -, -, iss, -⟩ := only
  rw [cyc, iss, cycles]

/-- NAPTO gives every issuing thread the wake time it reads (R142). -/
theorem napto_spec {s : State} {bk : Block} (h : Issuing s bk) (once : s.iss.grp.Nodup) (a : Reg) :
    OnlyBlock s (s.napto a) ∧ OnlyThreads bk (s.napto a).here s.iss.grp ∧ ∀ p ∈ s.iss.grp, (s.napto a).here.thread p.1 p.2 =
      { bk.thread p.1 p.2 with nap := true, wake := (s.val64 p.1 p.2 a).toNat } := by
  refine State.foldl_modThread_spec _ (fun p t => { t with nap := true, wake := (s.val64 p.1 p.2 a).toNat })
    (fun t p only => ?_) s.iss.grp once (OnlyBlock.refl s) h.here
  obtain ⟨-, -, -, -, -, iss, -⟩ := only
  simp only [State.val64, State.snap, iss]

theorem sleeps : Claims.Sleeps := by
  intro s bk h once
  have same := s.checkIssue_of_checked h.checked
  refine ⟨fun x => ⟨s.sleepc fun v l => s.val v l (.reg x.b), ?_, sleepc_spec h once _⟩, fun x => ⟨s.sleepc fun _ _ => x.imm, ?_, sleepc_spec h once _⟩,
    fun x => ⟨s.napto x.a, ?_, napto_spec h once _⟩⟩
  · show execSleepc x s = _
    rw [execSleepc, same]
  · show execSleepcI x s = _
    rw [execSleepcI, same]
  · show execNapto x s = _
    rw [execNapto, same]

/-- Settles O22: the checks passed, NOP and YIELD end at once, HINT changes its warp's field, and SLEEPC and NAPTO are one fold over the
issuing threads. -/
theorem adviceAndSleep : Obligations.AdviceAndSleep := by
  unfold Obligations.AdviceAndSleep
  exact ⟨nopsDoNothing, hintsAdvise, sleeps⟩

end Sys2Proof.Proofs

end

section
/-! PROOF. A fault of one thread at issue (R105, R145, R309, R352). -/

namespace Sys2Proof.Machine

open Sys2Proof Sys2Proof.Claims

/-! ### A fault of one thread (R105, R145) -/

/-- A fault that is neither a machine check nor an integrity fault is the thread's own to take (R309, R352). -/
theorem State.raise_plain (s : State) (b w l : Nat) (e : Entry) (hr : e.code ≠ .regue) (hm : e.code ≠ .memue) (hi : e.code ≠ .integrity) :
    s.raise b w l e = s.takeFault b w l e := by
  unfold State.raise
  split
  next gone => rw [State.takeFault, gone]
  next bk here =>
    have record : s.recordMemue bk.ctx e = s := by simp [State.recordMemue, hm]
    have regue : (e.code == .regue) = false := beq_false_of_ne hr
    have memue : (e.code == .memue) = false := beq_false_of_ne hm
    simp only [hr, hm, hi, record, regue, memue, or_self, false_and, if_false, Bool.or_self, Bool.and_false]
    cases Tbl.get? s.cp.tasks bk.task <;> rfl

/-- A thread at user level enters its handler (R145). -/
theorem State.takeFault_user {s : State} {b w l : Nat} {bk : Block} {k : Ctx} (e : Entry) (here : s.block? b = some bk)
    (ctx : Tbl.get? s.ctxs bk.ctx = some k) (user : (bk.thread w l).level = .user) :
    s.takeFault b w l e = s.modBlock b fun x =>
      (x.modThread w l fun t => t.enter k.tvec e (s.nowOf b)).modWarp w fun wp => { wp with fmask := e.fmask } := by
  simp [State.takeFault, here, ctx, user]

/-- The core cycle at hand for a block does not depend on the block's threads. -/
theorem State.nowOf_modThread (s : State) (b w l : Nat) (f : Thread → Thread) : (s.modThread b w l f).nowOf b = s.nowOf b := by
  simp only [State.nowOf, State.modThread, State.block_modBlock_self]
  cases s.block? b <;> rfl

theorem Block.thread_setFmask (bk : Block) (w : Nat) (m : Word) (v l : Nat) :
    (bk.modWarp w fun wp => { wp with fmask := m }).thread v l = bk.thread v l := by
  by_cases h : v = w
  · subst h; simp only [Block.thread, Block.warp_modWarp_self, Warp.thread]
  · simp only [Block.thread, Block.warp_modWarp_ne _ _ _ _ h]

/-- A thread without its own holds: it has left the bundle it waited at (R105). -/
def Thread.unheld (t : Thread) : Thread := { t with holds := [] }

/-- The entry of a thread that fails a check alone (R105). -/
def Bad.entry (e : Bad) (a : DWord) (l : Nat) : Entry := { code := e.code, fpc := a, faddr := BitVec.ofNat 64 e.faddr, fmask := maskOf [l] }

/-- The block after the fault of one of its threads: the thread in its handler, the warp's `%fmask` of it alone (R105, R145). -/
def Block.faulted (bk : Block) (w l : Nat) (tvec : DWord) (e : Entry) (now : Nat) : Block :=
  ((bk.modThread w l Thread.unheld).modThread w l fun t => t.enter tvec e now).modWarp w fun wp => { wp with fmask := e.fmask }

theorem Block.thread_faulted (bk : Block) (w l : Nat) (tvec : DWord) (e : Entry) (now : Nat) :
    (bk.faulted w l tvec e now).thread w l = (bk.thread w l).unheld.enter tvec e now := by
  rw [Block.faulted, Block.thread_setFmask, Block.thread_modThread_self, Block.thread_modThread_self]

theorem Block.othersKept_faulted (bk : Block) (w l : Nat) (tvec : DWord) (e : Entry) (now : Nat) :
    OthersKept bk (bk.faulted w l tvec e now) [(w, l)] := by
  intro v m out
  have other : (v, m) ≠ (w, l) := fun h => out (h ▸ List.mem_singleton_self _)
  rw [Block.faulted, Block.thread_setFmask, Block.thread_modThread_ne _ _ _ _ _ _ other, Block.thread_modThread_ne _ _ _ _ _ _ other]

theorem sameFault_one (w l : Nat) (e : Bad) : sameFault [((w, l), e)] w e = maskOf [l] := by simp [sameFault]

/-- One failing thread raises its fault; ACCUSE then sets the switch latch of the core (R105, R263). -/
theorem State.takeAll_one (s : State) (key c : Nat) (a : DWord) (w l : Nat) (e : Bad) (stays : e.ends = false) :
    let t := (s.modThread key w l Thread.unheld).raise key w l (e.entry a l)
    (s.takeAll key c a [((w, l), e)]).blocks = t.blocks ∧ (s.takeAll key c a [((w, l), e)]).ms = t.ms ∧
      (s.takeAll key c a [((w, l), e)]).iss = t.iss := by
  simp only [State.takeAll, List.foldl_cons, List.foldl_nil, sameFault_one, stays]
  split <;> exact ⟨rfl, rfl, rfl⟩

/-- One thread at user level that fails takes its fault, and memory stays (R105, R145). -/
theorem State.takeAll_user {s : State} {key : Nat} (c : Nat) (a : DWord) {w l : Nat} {bk : Block} {k : Ctx} {e : Bad} (here : s.block? key = some bk)
    (ctx : Tbl.get? s.ctxs bk.ctx = some k) (user : (bk.thread w l).level = .user) (stays : e.ends = false) (hr : e.code ≠ .regue)
    (hm : e.code ≠ .memue) (hi : e.code ≠ .integrity) :
    (s.takeAll key c a [((w, l), e)]).block? key = some (bk.faulted w l k.tvec (e.entry a l) (s.nowOf key)) ∧
      (s.takeAll key c a [((w, l), e)]).ms = s.ms ∧ (s.takeAll key c a [((w, l), e)]).iss = s.iss := by
  obtain ⟨blocks, ms, iss⟩ := s.takeAll_one key c a w l e stays
  have cleared : (s.modThread key w l Thread.unheld).block? key = some (bk.modThread w l Thread.unheld) := by
    rw [State.modThread, State.block_modBlock_self, here, Option.map_some]
  have still : ((bk.modThread w l Thread.unheld).thread w l).level = .user := by rw [Block.thread_modThread_self]; exact user
  rw [State.raise_plain _ _ _ _ _ hr hm hi, State.takeFault_user _ cleared ctx still, State.nowOf_modThread] at blocks ms iss
  refine ⟨?_, ms, iss⟩
  rw [State.block?, blocks, ← State.block?, State.block_modBlock_self, cleared, Option.map_some, Block.faulted]

end Sys2Proof.Machine

end

section
/-! PROOF. The checks at issue that end a context are faults of the walker (R104, R352). -/

namespace Sys2Proof.Machine

open Sys2Proof Sys2Proof.Claims

/-! ### Checks that end the context (R104, R352) -/

theorem foldl_orElseBad {x : Option Bad} {l : List (Option Bad)} {b : Bad} (h : l.foldl orElseBad x = some b) : x = some b ∨ some b ∈ l := by
  induction l generalizing x with
  | nil => exact .inl h
  | cons y r ih =>
    rcases ih h with h | h
    · cases x with
      | none => exact .inr (h ▸ List.mem_cons_self)
      | some z => exact .inl h
    · exact .inr (List.mem_cons_of_mem _ h)

/-- The first failing check of a list is one of the list. -/
theorem mem_of_firstBad {l : List (Option Bad)} {b : Bad} (h : firstBad l = some b) : some b ∈ l := by
  rcases foldl_orElseBad h with h | h
  · cases h
  · exact h

/-- A check that ends the context, if it fails so, only for a fault of the walker (R352). -/
def WalkEnds (x : Option Bad) : Prop := ∀ b, x = some b → b.ends = true → b.code = .memue ∨ b.code = .integrity

@[simp] theorem walkEnds_none : WalkEnds none := fun _ h => nomatch h

@[simp] theorem walkEnds_some (code : Code) (faddr : Nat) : WalkEnds (some { code, faddr }) := by
  rintro b ⟨⟩ ends
  cases ends

@[simp] theorem walkEnds_need (c : Bool) (code : Code) (faddr : Nat) : WalkEnds (need c code faddr) := by
  unfold need
  split
  · exact walkEnds_none
  · exact walkEnds_some code faddr

@[simp] theorem walkEnds_map {α : Type} (x : Option α) (code : α → Code) (faddr : α → Nat) :
    WalkEnds (x.map fun k => { code := code k, faddr := faddr k }) := by
  cases x with
  | none => exact walkEnds_none
  | some k => exact walkEnds_some (code k) (faddr k)

@[simp] theorem walkEnds_ite (c : Prop) [Decidable c] (x y : Option Bad) :
    WalkEnds (if c then x else y) ↔ (c → WalkEnds x) ∧ (¬c → WalkEnds y) := by
  split <;> simp [*]

theorem WalkEnds.orElse {x y : Option Bad} (hx : WalkEnds x) (hy : WalkEnds y) : WalkEnds (orElseBad x y) := by
  cases x with
  | none => exact hy
  | some b => exact hx

theorem WalkEnds.firstBad {l : List (Option Bad)} (h : ∀ x ∈ l, WalkEnds x) : WalkEnds (firstBad l) :=
  fun b hb => h _ (mem_of_firstBad hb) b rfl

theorem walkEnds_findSome {α β : Type} (l : List α) (f : α → Option β) (code : α → β → Code) (faddr : α → β → Nat) :
    WalkEnds (l.findSome? fun p => (f p).map fun r => { code := code p r, faddr := faddr p r }) := by
  intro b h
  obtain ⟨p, -, hp⟩ := List.exists_of_findSome?_eq_some h
  exact walkEnds_map (f p) (code p) (faddr p) b hp

theorem State.walkEnds_codeBad (s : State) (c x : Nat) (lv : Level) (d : DWord) : WalkEnds (s.codeBad c x lv d) := by
  intro b h ends
  obtain ⟨e, found, rfl⟩ := Option.map_eq_some_iff.mp h
  unfold State.codeFault at found
  split at found
  · cases found; cases ends
  · split at found
    · cases found
    next e' _ =>
      split at found <;> cases found
      next walk => exact walk
      · cases ends

theorem cpylBad_walkEnds (win dir : Nat) (b : Word) (src : Nat) : WalkEnds (cpylBad win dir b src) := walkEnds_need _ _ _

theorem mmaBad_walkEnds (bk : Block) (w : Nat) (full : Bool) (ao bo : Nat) (checkA : Bool) : WalkEnds (mmaBad bk w full ao bo checkA) :=
  .firstBad (by simp)

theorem State.mmauBad_walkEnds (s : State) (bk : Block) (w fmt : Nat) (full : Bool) (a : DWord) : WalkEnds (s.mmauBad bk w fmt full a) := by
  cases unfold : bk.unfold with
  | none => simp [State.mmauBad, unfold]
  | some u =>
    simp only [State.mmauBad, unfold]
    refine .firstBad ?_
    simp only [List.forall_mem_cons, walkEnds_need, true_and, mmaBad_walkEnds, walkEnds_ite, walkEnds_none, implies_true]
    refine ⟨?_, ?_, ?_⟩
    · split <;> simp
    · split <;> simp
    · simp

theorem State.boxBad_walkEnds (s : State) (bk : Block) (op : BoxOp) (off : Nat) (h : Word) (zf : Bool) : WalkEnds (s.boxBad bk op off h zf) := by
  refine .firstBad ?_
  simp only [List.forall_mem_cons, walkEnds_need, true_and, walkEnds_ite, walkEnds_none, implies_true, walkEnds_map]
  refine ⟨?_, ?_, ?_, ?_, ?_, by simp⟩
  · split <;> simp
  · split <;> simp
  · split <;> simp
  · split <;> simp
  · split <;> simp [WalkEnds.firstBad]

theorem State.unfoldOf_error {s : State} {bk : Block} {off : Nat} {h : Word} {b : Bad} (e : s.unfoldOf bk off h = .error b) : b.ends = false := by
  simp only [State.unfoldOf] at e
  repeat' split at e
  all_goals (cases e <;> rfl)

/-- No check of a word's own chapter ends the context (R104 row 7). -/
theorem State.ownBad_walkEnds (s : State) (c : Nat) (bk : Block) (i : Instr) (w l : Nat) : WalkEnds (s.ownBad c bk i w l) := by
  unfold State.ownBad
  refine .orElse ?_ ?_
  · split <;> simp
  · split
    case h_16 x =>
      split
      next b refused => intro b' same ends; cases same; rw [State.unfoldOf_error refused] at ends; cases ends
      next => exact walkEnds_none
    case h_20 =>
      split
      next => exact s.boxBad_walkEnds bk _ _ _ _
      next => exact walkEnds_none
    all_goals simp [WalkEnds.firstBad, Block.countBad, cpylBad_walkEnds, mmaBad_walkEnds, State.mmauBad_walkEnds]

/-- A transfer that is refused ends no context. -/
theorem transferOf_bad {bk : Block} {a : DWord} {i : Instr} {w l : Nat} {b : Bad} (h : transferOf bk a i w l = .bad b) : b.ends = false := by
  simp only [transferOf] at h
  repeat' split at h
  all_goals (cases h <;> rfl)

theorem depthBad_walkEnds (bk : Block) (a : DWord) (i : Instr) (w l : Nat) : WalkEnds (depthBad bk a i w l) := by
  unfold depthBad
  split
  · exact walkEnds_none
  · split
    next b refused =>
      split
      · intro b' same ends; cases same; rw [transferOf_bad refused] at ends; cases ends
      · exact walkEnds_none
    all_goals exact walkEnds_none

theorem raiseBad_walkEnds (r : Option Refused) (n : Nat) : WalkEnds (raiseBad r n) := by
  cases r <;> simp [raiseBad]

theorem State.targetBad_walkEnds (s : State) (c : Nat) (bk : Block) (a : DWord) (ws : List Placed) (w l : Nat) : WalkEnds (s.targetBad c bk a ws w l) := by
  unfold State.targetBad
  dsimp only
  split
  · simp [State.walkEnds_codeBad]
  · split
    · exact walkEnds_none
    · simp [State.walkEnds_codeBad]
    · exact s.walkEnds_codeBad _ _ _ _
    next b refused =>
      split
      · intro b' same ends; cases same; rw [transferOf_bad refused] at ends; cases ends
      · exact walkEnds_none

/-- Rows 7 and 8 (R104). -/
theorem State.lateBad_walkEnds (s : State) (c : Nat) (bk : Block) (a : DWord) (ws : List Placed) (r : Option Refused) (w l : Nat) :
    WalkEnds (s.lateBad c bk a ws r w l) := by
  refine .firstBad fun x hx => ?_
  rcases List.mem_append.mp hx with hx | hx
  · obtain ⟨p, -, rfl⟩ := List.mem_map.mp hx
    split
    · exact .firstBad (by simp [s.ownBad_walkEnds, raiseBad_walkEnds, depthBad_walkEnds])
    · exact walkEnds_none
  · rw [List.mem_singleton.mp hx]
    exact s.targetBad_walkEnds c bk a ws w l

theorem State.eccBad_walkEnds (s : State) (bk : Block) (a : DWord) (all ws : List Placed) (w l : Nat) : WalkEnds (s.eccBad bk a all ws w l) := by
  unfold State.eccBad
  split
  · exact walkEnds_none
  · exact .firstBad (by simp [walkEnds_findSome])

/-- Rows 1 to 5 (R104). -/
theorem State.firstRows_walkEnds (s : State) (bk : Block) (a : DWord) (ws : List Placed) (g : List (Nat × Nat)) (w l : Nat) :
    WalkEnds (s.firstRows bk a ws g w l) := by
  unfold State.firstRows
  split
  · exact walkEnds_some _ _
  · exact .firstBad (by simp [walkEnds_findSome, s.eccBad_walkEnds])

/-- R352: a check at issue that ends the context is a fault of the walker. -/
theorem State.groupBad_walkEnds {s : State} {c : Nat} {bk : Block} {a : DWord} {ws : List Placed} {g : List (Nat × Nat)} {q : Nat × Nat} {b : Bad}
    (h : (q, b) ∈ s.groupBad c bk a ws g) : b.ends = true → b.code = .memue ∨ b.code = .integrity := by
  obtain ⟨x, hx, hb⟩ := List.mem_filterMap.mp h
  obtain ⟨p, -, rfl⟩ := List.mem_map.mp hx
  split at hb
  next b' early =>
    cases hb
    have first := s.firstRows_walkEnds bk a ws g p.1 p.2 b' early
    split <;> exact first
  next =>
    split at hb
    · cases hb; intro ends; cases ends
    · obtain ⟨b', late, same⟩ := Option.map_eq_some_iff.mp hb
      cases same
      exact s.lateBad_walkEnds c bk a ws _ _ _ _ late

end Sys2Proof.Machine

end

section
/-! PROOF. The checks of a group of one thread, and their order (R31, R104, R105, R196). -/

namespace Sys2Proof.Machine

open Sys2Proof Sys2Proof.Claims

/-! ### The checks of a group of one thread (R104, R105) -/

/-- A thread that issues a bundle stands at the next one, until its stall field lets it issue (R29, R31). -/
def Thread.goOn (t : Thread) (a : DWord) (next : Nat) : Thread := { t with pc := a + 32, from? := some a, since := none, ready := next, holds := [] }

section
variable {s : State} {bk : Block} {w l : Nat}

/-- One thread that is its whole fragment and passes the checks goes on to the next bundle (R31, R105). -/
theorem State.checkIssue_passed (snap : s.snap = bk) (unchecked : s.iss.checked = false) (grp : s.iss.grp = [(w, l)])
    (whole : ∀ m ∈ bk.fragment w s.iss.addr, m = l) (passes : s.groupBad s.iss.core bk s.iss.addr s.iss.words [(w, l)] = []) :
    s.checkIssue = { (s.modThread s.iss.blk w l fun t => t.goOn s.iss.addr (s.now + 1 + s.iss.stall)) with
      iss := { s.iss with checked := true, grp := [(w, l)] } } := by
  have none_left : ¬∃ m ∈ bk.fragment w s.iss.addr, ¬m = l := fun ⟨m, hm, other⟩ => other (whole m hm)
  simp [State.checkIssue, unchecked, snap, grp, passes, State.warps, warpsOf_one, none_left, State.takeAll]
  rfl

/-- One thread that fails, in a bundle without a cross-lane word, takes its fault and nothing issues (R105). -/
theorem State.checkIssue_failed (snap : s.snap = bk) (unchecked : s.iss.checked = false) (grp : s.iss.grp = [(w, l)]) {e : Bad}
    (fails : s.groupBad s.iss.core bk s.iss.addr s.iss.words [(w, l)] = [((w, l), e)])
    (plain : (s.iss.words.any fun p => p.i.family == .crossLane) = false) :
    let t := s.takeAll s.iss.blk s.iss.core s.iss.addr [((w, l), e)]
    s.checkIssue = { t.modBlock s.iss.blk id with iss := { t.iss with checked := true, grp := [] } } := by
  simp [State.checkIssue, unchecked, snap, grp, fails, plain, Block.modThreads]
  rfl
end

end Sys2Proof.Machine

namespace Sys2Proof.Machine

open Sys2Proof Sys2Proof.Claims

/-! ### The order of the checks for one thread (R104) -/

theorem firstBad_cons_some (b : Bad) (l : List (Option Bad)) : firstBad (some b :: l) = some b := by
  show l.foldl orElseBad (some b) = some b
  induction l with
  | nil => rfl
  | cons _ _ ih => exact ih

theorem firstBad_cons_none (l : List (Option Bad)) : firstBad (none :: l) = firstBad l := rfl

section
variable {s : State} {c w l : Nat} {a : DWord} {bk : Block}

/-- A thread that fails one of the first rows fails by it; an unmapped name is that of the threads which raise it (R104, R196). -/
theorem State.groupBad_of_first {ws : List Placed} {b : Bad} (first : s.firstRows bk a ws [(w, l)] w l = some b) :
    s.groupBad c bk a ws [(w, l)] = [((w, l), if b.code == .unmapped then { b with faddr := firstUnmapped bk ws [(w, l)] } else b)] := by
  by_cases unmapped : b.code = .unmapped <;> simp [State.groupBad, first, unmapped]

/-- A thread that passes the first rows and gets no row fails by ROWQUOTA (R104 row 6). -/
theorem State.groupBad_of_refused {ws : List Placed} {e : Refused} (first : s.firstRows bk a ws [(w, l)] w l = none)
    (refused : ∀ g, g = [] ∨ g = [(w, l)] → refusedBeside (allotAll bk ws) (admitted (refusals bk ws) g) g (w, l) = some e) :
    s.groupBad c bk a ws [(w, l)] = [((w, l), { code := .rowquota, faddr := e.detail })] := by
  cases late : s.lateBad c bk a ws none w l with
  | none => simp [State.groupBad, first, late, refused [(w, l)] (.inr rfl)]
  | some b => simp [State.groupBad, first, late, refused [] (.inl rfl)]

variable {p : Placed}

/-- The allotment of one word's row to one thread, where the bank's share is spent (R114). -/
theorem allotAll_spent (part : takesPart bk p.i w l = true) {n : Nat} (alloc : allocsOf bk p w = [n]) (spent : bk.share ≤ bk.heldIn n) :
    allotAll bk [p] [(w, l)] = [⟨[(w, l)], 0, n⟩] := by
  simp [allotAll, warpsOf_one, Allot.word, stillIn, partIn, part, refusalOf, alloc, spentBank, spent]

theorem raiseAll_nil : raiseAll bk [p] [] = [] := rfl

theorem refusalOf_one (n m : Nat) : refusalOf [⟨[(w, l)], n, m⟩] (w, l) = some ⟨[(w, l)], n, m⟩ := by simp [refusalOf]

/-- Where the one thread that asks is refused its row, none is let on. -/
theorem admitted_spent (part : takesPart bk p.i w l = true) {n : Nat} (alloc : allocsOf bk p w = [n]) (spent : bk.share ≤ bk.heldIn n)
    {g : List (Nat × Nat)} (hg : g = [] ∨ g = [(w, l)]) : admitted (refusals bk [p]) g = [] := by
  rcases hg with rfl | rfl
  · rfl
  · have out : refusals bk [p] [(w, l)] = [⟨[(w, l)], 0, n⟩] := by
      simp [refusals, allotAll_spent part alloc spent, refusalOf_one, raiseAll_nil]
    simp [admitted, out, refusalOf_one]

theorem refusedBeside_spent (part : takesPart bk p.i w l = true) {n : Nat} (alloc : allocsOf bk p w = [n]) (spent : bk.share ≤ bk.heldIn n)
    {g : List (Nat × Nat)} (hg : g = [] ∨ g = [(w, l)]) :
    refusedBeside (allotAll bk [p]) (admitted (refusals bk [p]) g) g (w, l) = some ⟨[(w, l)], 0, n⟩ := by
  rw [admitted_spent part alloc spent hg]
  rcases hg with rfl | rfl <;> simp [refusedBeside, allotAll_spent part alloc spent, refusalOf_one]

/-- The first rows of one word for a thread that takes part in it, its warp whole or not needed so. -/
theorem State.firstRows_plain (part : takesPart bk p.i w l = true) (plain : p.i.convergent = false) :
    s.firstRows bk a [p] [(w, l)] w l = s.earlyBad bk a [p] [p] w l := by
  simp [State.firstRows, partialBad, plain, part]

theorem State.firstRows_partial (conv : p.i.convergent = true) {m : Nat} (live : m ∈ bk.liveLanes w) (ne : m ≠ l) (away : m ∉ bk.fragment w a) :
    s.firstRows bk a [p] [(w, l)] w l = some { code := .partialWarp, faddr := s.openFaddr .partialWarp a } := by
  have part : partialBad bk ([(w, l)] ++ (bk.fragment w a).map fun l => (w, l)) [p] w = true := by
    simp only [partialBad, conv, List.any_cons, List.any_nil, Bool.or_false, Bool.true_and, Bool.or_eq_true, List.any_eq_true]
    exact .inl ⟨m, live, by simp [ne, away]⟩
  rw [State.firstRows, if_pos part]

/-- An unmapped name comes first (R104 row 2, R196). -/
theorem State.earlyBad_unmapped {r : Reg} (found : (namesOf bk p).find? (fun q => bk.isUnmapped w q) = some r) :
    s.earlyBad bk a [p] [p] w l = some { code := .unmapped, faddr := nameDetail p.pos r } := by
  rw [State.earlyBad, List.findSome?_cons, found]
  exact firstBad_cons_some _ _

theorem firstUnmapped_one (part : takesPart bk p.i w l = true) {r : Reg} (found : (namesOf bk p).find? (fun q => bk.isUnmapped w q) = some r) :
    firstUnmapped bk [p] [(w, l)] = nameDetail p.pos r := by
  simp [firstUnmapped, part, found]

section
variable (mapped : ∀ r ∈ namesOf bk p, bk.isUnmapped w r = false)
include mapped

theorem find_unmapped_none : (namesOf bk p).find? (fun q => bk.isUnmapped w q) = none :=
  List.find?_eq_none.mpr fun r hr => by simp [mapped r hr]

/-- Then an early read (R104 row 3). -/
theorem State.earlyBad_earlyread (reads : ((usesOf bk p).any fun u => u.trap && bk.emptyAt w l u.r) = true) :
    s.earlyBad bk a [p] [p] w l = some { code := .earlyread, faddr := s.openFaddr .earlyread a } := by
  obtain ⟨u, found⟩ : ∃ u, (usesOf bk p).find? (fun u => u.trap && bk.emptyAt w l u.r) = some u :=
    Option.isSome_iff_exists.mp (by rw [List.find?_isSome]; simpa using reads)
  simp only [State.earlyBad, List.findSome?_cons, List.findSome?_nil, find_unmapped_none mapped, found, Option.map_none, Option.map_some]
  rw [firstBad_cons_none, firstBad_cons_some]

/-- A thread passes rows 2 to 5 and R309's checks. -/
theorem State.earlyBad_none (quiet : ((usesOf bk p).any fun u => u.trap && bk.emptyAt w l u.r) = false)
    (sound : ∀ x ∈ wordsRead bk p w l, bk.errAt w x.1 x.2 = false) (ecc : bk.ecc = []) (bank : bankBad p.i bk w l = false)
    (own : ∀ r ∈ changes p.i, bk.isShared w r = false) : s.earlyBad bk a [p] [p] w l = none := by
  have early : (usesOf bk p).find? (fun u => u.trap && bk.emptyAt w l u.r) = none :=
    List.find?_eq_none.mpr fun u hu => by simpa using List.any_eq_false.mp quiet u hu
  have parity : (wordsRead bk p w l).find? (fun x => bk.errAt w x.1 x.2 && (bk.replayOf w x.1 x.2).isNone) = none :=
    List.find?_eq_none.mpr fun x hx => by simp [sound x hx]
  have shared : ((changes p.i).any fun r => bk.isShared w r) = false := List.any_eq_false.mpr fun r hr => by simp [own r hr]
  simp [State.earlyBad, find_unmapped_none mapped, early, parity, State.eccBad, ecc, bank, shared, firstBad_cons_none]
  rfl
end
end

end Sys2Proof.Machine

namespace Sys2Proof.Proofs

open Sys2Proof Sys2Proof.Machine Sys2Proof.Claims

theorem checksDecideTheGroup : Claims.ChecksDecideTheGroup := by
  intro s bk w l k here snap unchecked grp ctx user whole
  refine ⟨fun passes => ?_, fun e fails hr hm hi plain => ?_⟩
  · rw [State.checkIssue_passed snap unchecked grp whole passes]
    refine ⟨bk.modThread w l fun t => t.goOn s.iss.addr (s.now + 1 + s.iss.stall), ?_, rfl, rfl, Block.thread_modThread_self bk w l _⟩
    show (s.modBlock _ _).block? _ = _
    rw [State.block_modBlock_self, here, Option.map_some]
  · have stays : e.ends = false := by
      cases ends : e.ends with
      | false => rfl
      | true =>
        have walk := State.groupBad_walkEnds (fails ▸ List.mem_singleton_self _ : ((w, l), e) ∈ _) ends
        exact absurd walk (by simp [hm, hi])
    obtain ⟨block, ms, -⟩ := State.takeAll_user s.iss.core s.iss.addr here ctx user stays hr hm hi
    rw [State.checkIssue_failed snap unchecked grp fails plain]
    refine ⟨_, ?_, rfl, ms, Block.thread_faulted bk w l k.tvec (e.entry s.iss.addr l) (s.nowOf s.iss.blk)⟩
    show (State.modBlock _ _ _).block? _ = _
    rw [State.block_modBlock_self, block, Option.map_some, id]


theorem checksHaveTheirOrder : Claims.ChecksHaveTheirOrder := by
  intro s c w l a bk p part
  refine ⟨fun conv ⟨m, live, ne, away⟩ => ⟨_, State.groupBad_of_first (State.firstRows_partial conv live ne away)⟩,
    fun plain => ⟨fun r found => ?_, fun mapped => ⟨fun reads => ?_, fun quiet sound ecc bank own n alloc spent => ?_⟩⟩⟩
  · rw [State.groupBad_of_first ((State.firstRows_plain part plain).trans (State.earlyBad_unmapped found)), firstUnmapped_one part found]
    rfl
  · exact ⟨_, State.groupBad_of_first ((State.firstRows_plain part plain).trans (State.earlyBad_earlyread mapped reads))⟩
  · exact State.groupBad_of_refused ((State.firstRows_plain part plain).trans (State.earlyBad_none mapped quiet sound ecc bank own))
      fun g hg => refusedBeside_spent part alloc spent hg

/-- Settles O9: one thread's checks send it on or into its handler, and of its word's rows the first that fails decides. -/
theorem checksAtIssue : Obligations.ChecksAtIssue := by
  unfold Obligations.ChecksAtIssue
  exact ⟨checksDecideTheGroup, checksHaveTheirOrder⟩

end Sys2Proof.Proofs

end

section
/-! PROOF. Faults before the words (R34, R51, R52, R145). -/

namespace Sys2Proof.Machine

open Sys2Proof Sys2Proof.Claims

/-! ### A step that issues a bundle (R89) -/

section
variable {s v : State} {c b : Nat} {a : DWord} {wait : Bool} {r : List Choice} {bk : Block} {g : List (Nat × Nat)}

/-- A group that is ready issues the bundle it fetches (R89). -/
theorem issueGroup_of_got {first : Option Nat} {d : Except Reject Bundle} (here : v.block? b = some bk) (may : v.mayIssue c bk = true)
    (group : v.groupWith c b bk a first = g) (nonempty : g ≠ []) (fetched : v.groupFetch c bk a g = .got d) :
    issueGroup c b a first wait v = runBundle (v.begin c b bk a (.got d) g wait) := by
  cases g with
  | nil => exact absurd rfl nonempty
  | cons p ps => simp [issueGroup, State.readyGroup, here, may, group, fetched]

/-- A step whose choice is the group that may issue begins its bundle and runs it (R89, R91). -/
theorem step_of_chosen {d : Except Reject Bundle} (agenda : s.agenda = .issue c b a wait :: r) (turned : v = ({ s with agenda := r } : State).turnCore c)
    (here : v.block? b = some bk) (may : v.mayIssue c bk = true) (group : Chosen v c b a bk g) (nonempty : g ≠ [])
    (fetched : v.groupFetch c bk a g = .got d) : step s = runBundle (v.begin c b bk a (.got d) g wait) := by
  subst turned
  rcases group with ⟨free, group⟩ | ⟨w, due, group⟩
  · simp only [step, agenda, perform1, free]
    exact issueGroup_of_got here may group nonempty fetched
  · simp only [step, agenda, perform1, due, and_self, if_true]
    exact issueGroup_of_got here may group nonempty fetched

/-- What one thread's group fetches (R34, R354). -/
theorem State.groupFetch_one {w l pa : Nat} {x : BundleBits} (aligned : a.toNat % 32 = 0) (pas : v.fetchPa c bk w (bk.fragment w a) a = some pa)
    (bytes : v.cachedBundle c pa = some x) : v.groupFetch c bk a [(w, l)] = .got (decodeBundle x) := by
  simp [State.groupFetch, warpsOf_one, State.fetch, aligned, pas, bytes]

/-- Translating the fetch changes nothing that the thread's fault depends on (R203, R220). -/
theorem State.cached_user {k : Ctx} (ctx : Tbl.get? v.ctxs bk.ctx = some k) :
    ∃ k', Tbl.get? (v.cached c bk.ctx a.toNat).ctxs bk.ctx = some k' ∧ k'.tvec = k.tvec := by
  have same := ((v.cached_only c bk.ctx a.toNat).ctxs bk.ctx).2
  rw [ctx, Option.map_some] at same
  obtain ⟨k', found, eq⟩ := Option.map_eq_some_iff.mp same
  exact ⟨k', found, by simpa using congrArg Ctx.tvec eq⟩

theorem State.coreNow_cached (x va : Nat) : (v.cached c x va).coreNow c = v.coreNow c := by
  obtain ⟨cyc, cores, -, -, mp, -, -⟩ := (v.cached_only c x va).rest
  simp only [State.coreNow, State.coreCycleAt, State.cluster, State.core, cyc, cores, mp]

/-- A core that may issue for a block holds it (R89). -/
theorem State.core_of_mayIssue (may : v.mayIssue c bk = true) : bk.core? = some c := by
  simp only [State.mayIssue, State.coreOpen, Bool.and_eq_true, beq_iff_eq] at may
  tauto

theorem State.nowOf_eq (here : v.block? b = some bk) (core : bk.core? = some c) : v.nowOf b = v.coreNow c := by
  simp [State.nowOf, here, core]

/-- A bundle that one thread may not decode or execute is its fault, at user level (R51, R145). -/
theorem begin_refused {w l : Nat} {k : Ctx} {d : Except Reject Bundle} {e : Bad} (here : v.block? b = some bk) (ctx : Tbl.get? v.ctxs bk.ctx = some k)
    (may : v.mayIssue c bk = true) (user : (bk.thread w l).level = .user) (refused : v.decodeBad c bk a (.got d) w l = some e) (stays : e.ends = false)
    (hr : e.code ≠ .regue) (hm : e.code ≠ .memue) (hi : e.code ≠ .integrity) :
    ∃ t, runBundle (v.begin c b bk a (.got d) [(w, l)] wait) = .next t ∧ t.ms = { v.ms with tlb := t.ms.tlb } ∧
      t.block? b = some (bk.faulted w l k.tvec (e.entry a l) (v.coreNow c)) := by
  have begun : (v.begin c b bk a (.got d) [(w, l)] wait).iss.grp = [] ∧
      (v.begin c b bk a (.got d) [(w, l)] wait).blocks = ((v.cached c bk.ctx a.toNat).takeAll b c a [((w, l), e)]).blocks ∧
      (v.begin c b bk a (.got d) [(w, l)] wait).ms = ((v.cached c bk.ctx a.toNat).takeAll b c a [((w, l), e)]).ms := by
    have order : laneOrder [(w, l)] = [(w, l)] := rfl
    simp only [State.begin, order, List.filterMap_cons, List.filterMap_nil, refused, Option.map_some, List.map_cons, List.map_nil]
    exact ⟨by simp, rfl, rfl⟩
  obtain ⟨grp, blocks, ms⟩ := begun
  obtain ⟨k', ctx', tvec⟩ := State.cached_user (c := c) (a := a) ctx
  have only := v.cached_only c bk.ctx a.toNat
  have here' : (v.cached c bk.ctx a.toNat).block? b = some bk := by rw [State.block?, only.rest.2.2.1]; exact here
  obtain ⟨fault, mem, -⟩ := State.takeAll_user c a here' ctx' user stays hr hm hi
  refine ⟨(v.begin c b bk a (.got d) [(w, l)] wait).endBundle, by simp [runBundle, grp], ?_, ?_⟩
  · show (v.begin c b bk a (.got d) [(w, l)] wait).ms = { v.ms with tlb := (v.begin c b bk a (.got d) [(w, l)] wait).ms.tlb }
    rw [ms, mem]; exact only.memory
  · show Tbl.get? (v.begin c b bk a (.got d) [(w, l)] wait).blocks b = _
    rw [blocks, ← State.block?, fault, tvec, State.nowOf_eq here' (State.core_of_mayIssue may), State.coreNow_cached]

/-- A step whose choice is one user-level thread's bundle, which it may not decode or execute (R51, R145). -/
theorem step_refused {w l pa : Nat} {k : Ctx} {x : BundleBits} {e : Bad} (agenda : s.agenda = .issue c b a wait :: r)
    (turned : v = ({ s with agenda := r } : State).turnCore c) (here : v.block? b = some bk) (ctx : Tbl.get? v.ctxs bk.ctx = some k)
    (may : v.mayIssue c bk = true) (group : Chosen v c b a bk [(w, l)]) (aligned : a.toNat % 32 = 0)
    (pas : v.fetchPa c bk w (bk.fragment w a) a = some pa) (bytes : v.cachedBundle c pa = some x) (user : (bk.thread w l).level = .user)
    (refused : v.decodeBad c bk a (.got (decodeBundle x)) w l = some e) (stays : e.ends = false)
    (hr : e.code ≠ .regue) (hm : e.code ≠ .memue) (hi : e.code ≠ .integrity) :
    ∃ t y, step s = .next t ∧ t.ms = { v.ms with tlb := t.ms.tlb } ∧ t.block? b = some y ∧ OthersKept bk y [(w, l)] ∧
      y.thread w l = (bk.thread w l).unheld.enter k.tvec (e.entry a l) (v.coreNow c) := by
  have runs := step_of_chosen agenda turned here may group (by simp) (State.groupFetch_one (l := l) aligned pas bytes)
  obtain ⟨t, next, ms, block⟩ := begin_refused (wait := wait) here ctx may user refused stays hr hm hi
  exact ⟨t, _, runs.trans next, ms, block, bk.othersKept_faulted w l k.tvec (e.entry a l) (v.coreNow c), bk.thread_faulted w l k.tvec _ _⟩

/-- A thread that may execute at the bundle's address faults at decode only by what the bundle is (R51, R52). -/
theorem State.codeBad_of_codeOk {w l : Nat} (ok : v.codeOk c bk.ctx (bk.thread w l).level a = true) :
    v.codeBad c bk.ctx (bk.thread w l).level a = none := by
  simpa [State.codeBad, State.codeOk] using ok

end

end Sys2Proof.Machine

namespace Sys2Proof.Proofs

open Sys2Proof Sys2Proof.Machine Sys2Proof.Claims

theorem badBundlesFault : Claims.BadBundlesFault := by
  intro s c b w l pa a wait r bk k x e agenda v
  have turned : v = ({ s with agenda := r } : State).turnCore c := rfl
  clear_value v
  intro here ctx may group aligned pas bytes ok user bad
  have entry := State.codeBad_of_codeOk ok
  by_cases pool : e = .pool
  · have refused : v.decodeBad c bk a (.got (decodeBundle x)) w l = some { code := .poolfetch, faddr := ((bk.thread w l).from?.getD 0).toNat } := by
      simp [State.decodeBad, entry, bad, pool]
    have met : Bad.entry { code := .poolfetch, faddr := ((bk.thread w l).from?.getD 0).toNat } a l =
        { code := .poolfetch, fpc := a, faddr := (bk.thread w l).from?.getD 0, fmask := maskOf [l] } := by simp [Bad.entry]
    rw [if_pos pool, ← met]
    exact step_refused agenda turned here ctx may group aligned pas bytes user refused rfl nofun nofun nofun
  · have refused : v.decodeBad c bk a (.got (decodeBundle x)) w l = some { code := .illegal, faddr := 0 } := by
      simp only [State.decodeBad, entry, bad]
    rw [if_neg pool]
    exact step_refused agenda turned here ctx may group aligned pas bytes user refused rfl nofun nofun nofun

theorem privilegedWordsTrap : Claims.PrivilegedWordsTrap := by
  intro s c b w l pa a wait r bk k x B agenda v
  have turned : v = ({ s with agenda := r } : State).turnCore c := rfl
  clear_value v
  intro here ctx may group aligned pas bytes ok user decoded privileged
  have refused : v.decodeBad c bk a (.got (decodeBundle x)) w l = some { code := .priv, faddr := 0 } := by
    simp only [State.decodeBad, State.codeBad_of_codeOk ok, decoded]
    simp [privileged, user]
  obtain ⟨t, y, next, ms, block, others, own⟩ :=
    step_refused agenda turned here ctx may group aligned pas bytes user refused rfl nofun nofun nofun
  exact ⟨t, y, next, ms, block, others, own⟩

/-- Settles O8: the group's one thread is refused at decode, its fault enters the handler, and no word is left to run. -/
theorem faultsBeforeTheWords : Obligations.FaultsBeforeTheWords := by
  unfold Obligations.FaultsBeforeTheWords
  exact ⟨badBundlesFault, privilegedWordsTrap⟩

end Sys2Proof.Proofs

end

section
/-! PROOF. A core cycle leaves the choices to come: each function that `coreStep` reaches keeps the agenda (log 1). -/

namespace Sys2Proof.Machine

open Sys2Proof

/-! ### A core cycle leaves the choices to come (log 1) -/

/-- What every step of a fold keeps, the fold keeps. -/
theorem foldl_keeps {σ α β : Type} (m : σ → β) (f : σ → α → σ) (hf : ∀ t a, m (f t a) = m t) (l : List α) (s : σ) : m (l.foldl f s) = m s := by
  induction l generalizing s with
  | nil => rfl
  | cons a r ih => rw [List.foldl_cons, ih, hf]

theorem State.foldl_agenda {α : Type} {f : State → α → State} (hf : ∀ t a, (f t a).agenda = t.agenda) (l : List α) (s : State) :
    (l.foldl f s).agenda = s.agenda := foldl_keeps State.agenda f hf l s

theorem State.ite_agenda (c : Prop) [Decidable c] (s t : State) : (if c then s else t).agenda = if c then s.agenda else t.agenda := apply_ite _ _ _ _

/-! #### Threads and results -/

@[simp] theorem State.holdThread_agenda (s : State) (w l : Nat) (h : Hold) : (s.holdThread w l h).agenda = s.agenda := rfl

@[simp] theorem State.recordMemue_agenda (s : State) (x : Nat) (e : Entry) : (s.recordMemue x e).agenda = s.agenda := by
  unfold State.recordMemue; split <;> rfl

@[simp] theorem State.endCtx_agenda (s : State) (x : Nat) (e : Entry) : (s.endCtx x e).agenda = s.agenda := by simp [State.endCtx]

@[simp] theorem State.endTrunk_agenda (s : State) (x : Nat) (e : Option Code) : (s.endTrunk x e).agenda = s.agenda := by
  cases e <;> simp [State.endTrunk]

@[simp] theorem State.saveTile_agenda (s : State) (c t : Nat) : (s.saveTile c t).agenda = s.agenda := by
  unfold State.saveTile
  dsimp only
  split
  · rfl
  · split <;> simp

@[simp] theorem State.accsv_agenda (s : State) (c : Nat) (own : Word) (m : Nat) : (s.accsv c own m).1.agenda = s.agenda := by
  unfold State.accsv
  split
  · rfl
  · exact State.foldl_agenda (fun t a => t.saveTile_agenda c a) _ s

@[simp] theorem State.passBbwt_agenda (s : State) (b w : Nat) (bk : Block) (c off : Nat) (d : Reg) (pos : Nat) :
    (s.passBbwt b w bk c off d pos).agenda = s.agenda := by
  unfold State.passBbwt
  dsimp only
  split
  · rfl
  · rw [State.modBlock_agenda, State.foldl_agenda fun t a => by simp]
    split <;> simp

@[simp] theorem State.endHold_agenda (s : State) (b w l c : Nat) (h : Hold) : (s.endHold b w l c h).agenda = s.agenda := by
  unfold State.endHold
  split
  · rfl
  · cases h <;> simp [State.ite_agenda]

@[simp] theorem State.passBars_agenda (s : State) (c : Nat) : (s.passBars c).agenda = s.agenda :=
  State.foldl_agenda (fun t p => State.foldl_agenda (fun u q => State.foldl_agenda (fun x h => by split <;> simp) _ u) _ t) _ s

/-! #### Local memory and barriers -/

@[simp] theorem State.charge_agenda (s : State) (x i n : Nat) : (s.charge x i n).agenda = s.agenda := rfl

@[simp] theorem State.flushStep_agenda (s : State) (c x sc : Nat) : (s.flushStep c x sc).1.agenda = s.agenda := by
  simp [State.flushStep, State.ite_agenda]

@[simp] theorem State.arriveOne_agenda (s : State) (b id w l : Nat) (n : Option Nat) (hold : Bool) : (s.arriveOne b id w l n hold).agenda = s.agenda := rfl

@[simp] theorem State.performBar_agenda (s : State) (key id : Nat) : (s.performBar key id).agenda = s.agenda := by
  unfold State.performBar
  split
  · rfl
  · split
    · rw [State.modBlock_agenda, State.foldl_agenda fun t a => by simp [State.ite_agenda], State.modBlock_agenda]
    · rfl

@[simp] theorem State.performLocal_agenda (s : State) (key id : Nat) (f : Block → Nat → Nat → Block) : (s.performLocal key id f).agenda = s.agenda := rfl

@[simp] theorem State.performWindow_agenda (s : State) (key id : Nat) : (s.performWindow key id).agenda = s.agenda := rfl

/-! #### Global memory -/

@[simp] theorem State.chargeFills_agenda (s : State) (x sc top : Nat) : (s.chargeFills x sc top).agenda = s.agenda := by
  simp [State.chargeFills, State.ite_agenda]

@[simp] theorem State.setCounter_agenda (s : State) (x n : Nat) (node : Option Nat) (v : Word) : (s.setCounter x n node v).agenda = s.agenda := rfl

@[simp] theorem State.access1_agenda (s : State) (c x : Nat) (i : Instr) (node : Option Nat) (a : Access) (pas : List Nat) :
    (s.access1 c x i node a pas).1.agenda = s.agenda := by
  cases i <;> simp [State.access1]

@[simp] theorem State.after_agenda (s : State) (c x : Nat) (i : Instr) (node : Option Nat) (good : List (Access × List Nat)) :
    (s.after c x i node good).agenda = s.agenda := by
  unfold State.after
  split
  · rfl
  · split <;> rfl
  · split <;> rfl
  · exact State.foldl_agenda (fun t n => t.setCounter_agenda x n node 0) _ s
  · rfl

@[simp] theorem State.before_agenda (s : State) (c : Nat) (i : Instr) : (s.before c i).agenda = s.agenda := by
  unfold State.before
  repeat' split
  all_goals rfl

@[simp] theorem State.chargeSlice_agenda (s : State) (x lv pa : Nat) : (s.chargeSlice x lv pa).agenda = s.agenda := by
  simp [State.chargeSlice, State.ite_agenda]

@[simp] theorem State.tlbPut_agenda (s : State) (c : Nat) (e : TlbEnt) : (s.tlbPut c e).agenda = s.agenda := rfl

@[simp] theorem State.tlbAdd_agenda (s : State) (c x va : Nat) (f : Leaf) : (s.tlbAdd c x va f).agenda = s.agenda := by
  simp [State.tlbAdd, State.ite_agenda]

@[simp] theorem State.tlbPath_agenda (s : State) (c x va : Nat) : (s.tlbPath c x va).agenda = s.agenda := by
  unfold State.tlbPath
  split
  · exact State.foldl_agenda (fun t y => t.tlbPut_agenda c _) _ s
  · rfl

@[simp] theorem State.cached_agenda (s : State) (c x va : Nat) : (s.cached c x va).agenda = s.agenda := by
  have walked := (State.tlbPath_agenda _ c x va).trans
    (State.foldl_agenda (fun t pa => t.chargeSlice_agenda x (truthLevel t.dev pa) pa) (s.walkReads c x va) s)
  unfold State.cached
  split
  · rfl
  · dsimp only
    split
    · exact walked
    · rw [State.tlbAdd_agenda]; exact walked

@[simp] theorem State.chargeLines_agenda (s : State) (m : MemSys) (c x : Nat) (i : Instr) (pas : List Nat) : (s.chargeLines m c x i pas).agenda = s.agenda :=
  State.foldl_agenda (fun t _ => t.chargeSlice_agenda x _ _) _ s

@[simp] theorem State.inherit_agenda (s : State) (t : Nat) (m : Option Nat) : (s.inherit t m).agenda = s.agenda := by
  cases m <;> simp [State.inherit, State.ite_agenda]

@[simp] theorem State.inheritAll_agenda (s : State) (t : Nat) (ms : List (Option Nat)) : (s.inheritAll t ms).agenda = s.agenda :=
  State.foldl_agenda (fun u m => u.inherit_agenda t m) ms s

@[simp] theorem State.makeReady_agenda (s : State) (c : Nat) (i : Instr) (node : Option Nat) (pas : List Nat) : (s.makeReady c i node pas).agenda = s.agenda := by
  unfold State.makeReady
  dsimp only
  split <;> rfl

@[simp] theorem State.markWritten_agenda (s : State) (c x task : Nat) (i : Instr) (good : List (Access × List Nat)) :
    (s.markWritten c x task i good).agenda = s.agenda := by
  unfold State.markWritten
  split
  · rfl
  · simp [State.ite_agenda]

@[simp] theorem State.foundFault_agenda (s : State) (key w l id : Nat) (lv : Level) (e : Entry) : (s.foundFault key w l id lv e).agenda = s.agenda := by
  unfold State.foundFault
  split
  · split <;> simp
  · simp [State.ite_agenda]

@[simp] theorem State.recordFaults_agenda (s : State) (key id : Nat) (pc : DWord) (bad : List BadAccess) : (s.recordFaults key id pc bad).agenda = s.agenda := by
  unfold State.recordFaults
  exact State.foldl_agenda (fun t x => by simp) bad s

@[simp] theorem State.saw_agenda (s : State) (t : Nat) (es : List Word) : (s.saw t es).agenda = s.agenda := by
  simp [State.saw, State.ite_agenda]

/-- One access after another of an operation (R19). -/
theorem performMem_loop_agenda (s : State) (key c x : Nat) (o : MemOp) (node : Option Nat) (good : List (Access × List Nat)) :
    (good.foldl (fun (acc : State × Nat) p =>
      let (s, vals, t) := acc.1.access1 c x o.i node p.1 p.2
      (s.modBlock key fun bk => bk.deliver o p.1.w p.1.lane vals, max acc.2 t)) (s, 0)).1.agenda = s.agenda :=
  foldl_keeps (fun acc : State × Nat => acc.1.agenda) _ (fun acc p => acc.1.access1_agenda c x o.i node p.1 p.2) good (s, 0)

@[simp] theorem State.performMem_agenda (s : State) (key id : Nat) : (s.performMem key id).agenda = s.agenda := by
  unfold State.performMem
  split
  · rfl
  · split
    next bk _ _ _ c o _ _ =>
      extract_lets x todo walks tr s1 found torn good bad vers node need stay mp s2 s3 away m kept
      have walked : s1.agenda = s.agenda := by
        have all : (todo.foldl (fun s a => s.cached c x a.addr) s).agenda = s.agenda := State.foldl_agenda (fun t a => t.cached_agenda c x a.addr) todo s
        simp only [s1, State.ite_agenda, all, ite_self]
      have ready : s3.agenda = s.agenda := by
        simp only [s3, s2, State.ite_agenda, State.makeReady_agenda, State.before_agenda, State.saw_agenda, State.inheritAll_agenda, ite_self, walked]
      split
      · exact State.endCtx_agenda s x _
      · split
        · exact walked
        · split
          · split
            · exact walked
            · exact walked
          · have looped := performMem_loop_agenda s3 key c x o node good
            rw [ready] at looped
            split
            next s4 time done =>
              have settled : s4.agenda = s.agenda := (congrArg (fun acc : State × Nat => acc.1.agenda) done).symm.trans looped
              clear looped done ready walked
              extract_lets s5 s6 now upd s7 s8 s9
              rw [State.modBlock_agenda]
              have written : s7.agenda = s.agenda := by
                show s6.agenda = s.agenda
                simp only [s6, s5, State.markWritten_agenda, State.chargeLines_agenda, State.ite_agenda, State.after_agenda, ite_self, settled]
              have held : s8.agenda = s.agenda := by
                simp only [s8]
                split
                · simp only [State.ite_agenda, State.modBlock_agenda, ite_self, written]
                · exact written
              simp only [s9]
              split
              · exact held
              · rw [State.recordFaults_agenda, held]
    · rfl

@[simp] theorem State.performStep_agenda (s : State) (key id : Nat) (f : State → Nat → Nat → List Nat → State × Nat)
    (hf : ∀ t c x l, (f t c x l).1.agenda = t.agenda) : (s.performStep key id f).agenda = s.agenda := by
  unfold State.performStep
  split
  · rfl
  · split
    · exact hf s _ _ _
    · rfl

/-! #### Tasks and futures -/

@[simp] theorem State.tookView_agenda (s : State) (t : Nat) (v : View) : (s.tookView t v).agenda = s.agenda := by simp [State.tookView]

@[simp] theorem State.setWaiters_agenda (s : State) (h : Word) (l : List (Nat × Nat × Nat)) : (s.setWaiters h l).agenda = s.agenda := by
  simp [State.setWaiters, State.ite_agenda]

@[simp] theorem State.wake1_agenda (s : State) (h : Word) (v : View) (b w l : Nat) : (s.wake1 h v b w l).1.agenda = s.agenda := by
  unfold State.wake1
  split
  · rfl
  · split
    · rfl
    · split
      · rfl
      · split
        · rfl
        · split
          · rfl
          · exact State.tookView_agenda s _ v
      · dsimp only
        split
        · rfl
        · simp

@[simp] theorem State.wake_agenda (s : State) (x : Nat) (h : Word) : (s.wake x h).agenda = s.agenda := by
  unfold State.wake
  split
  · rfl
  next v _ =>
    rw [State.setWaiters_agenda]
    exact foldl_keeps (fun acc : State × List (Nat × Nat × Nat) => acc.1.agenda) _ (fun acc p => acc.1.wake1_agenda h v p.1 p.2.1 p.2.2) _ (s, [])

@[simp] theorem State.freeFuture_agenda (s : State) (slot : Nat) : (s.freeFuture slot).agenda = s.agenda := rfl

@[simp] theorem State.settleMade_agenda (s : State) (n : Nat) : (s.settleMade n).agenda = s.agenda :=
  State.foldl_agenda (fun (t : State) (p : Nat × Future) => t.freeFuture_agenda p.1) _ s

@[simp] theorem State.freeTask_agenda (s : State) (t : Nat) : (s.freeTask t).agenda = s.agenda := by
  unfold State.freeTask
  split
  · rfl
  · exact State.settleMade_agenda _ t

@[simp] theorem State.stale1_agenda (s : State) (x task : Nat) (a : Access) : (s.stale1 x task a).1.agenda = s.agenda := by
  unfold State.stale1
  dsimp only
  split <;> simp

@[simp] theorem State.drop1_agenda (s : State) (x task : Nat) (a : Access) : (s.drop1 x task a).1.agenda = s.agenda := by
  unfold State.drop1
  dsimp only
  split
  · exact s.stale1_agenda x task a
  · split
    · rfl
    · split
      · exact s.tookView_agenda task _
      · split
        · split <;> simp
        · dsimp only
          split <;> simp

@[simp] theorem State.clearEdges_agenda (s : State) : s.clearEdges.agenda = s.agenda :=
  State.foldl_agenda (fun t p => State.foldl_agenda (fun u m => by simp [State.ite_agenda]) _ t) _ s

@[simp] theorem State.evalTask_agenda (s : State) (t : Nat) : (s.evalTask t).agenda = s.agenda := by
  unfold State.evalTask
  split
  · rfl
  · split
    · rfl
    · split
      · split
        · rfl
        · exact State.foldl_agenda (fun u v => u.tookView_agenda t v) _ s
      · split <;> simp
      all_goals rfl

@[simp] theorem State.evalOnce_agenda (s : State) : s.evalOnce.agenda = s.agenda := by
  unfold State.evalOnce
  rw [State.foldl_agenda fun t a => t.evalTask_agenda a, State.clearEdges_agenda]

@[simp] theorem State.evalTasks_agenda (s : State) : s.evalTasks.agenda = s.agenda := by
  unfold State.evalTasks
  split
  · rfl
  · dsimp only
    rw [State.foldl_agenda fun (t : State) (p : Nat × Word) => t.wake_agenda p.1 p.2, State.foldl_agenda fun t _ => t.evalOnce_agenda]

@[simp] theorem State.fulfil1_agenda (s : State) (x task : Nat) (flt : Bool) (a : Access) : (s.fulfil1 x task flt a).1.agenda = s.agenda := by
  unfold State.fulfil1
  dsimp only
  split
  · exact s.stale1_agenda x task a
  · split
    · rfl
    · split
      · exact s.tookView_agenda task _
      · split
        · exact s.tookView_agenda task _
        · rw [State.evalTasks_agenda, State.modFuture_agenda]
          exact s.inherit_agenda task _

@[simp] theorem State.newFuture_agenda (s : State) (x : Nat) (target : DWord) : (s.newFuture x target).1.agenda = s.agenda := by
  unfold State.newFuture
  split <;> rfl

@[simp] theorem State.makeFuture_agenda (s : State) (x task : Nat) (target : DWord) : (s.makeFuture x task target).1.agenda = s.agenda := by
  unfold State.makeFuture
  split
  · rfl
  · simp [State.ite_agenda]

@[simp] theorem State.read1_agenda (s : State) (x task : Nat) (code wait : Bool) (a : Access) : (s.read1 x task code wait a).1.agenda = s.agenda := by
  unfold State.read1
  split
  · exact s.stale1_agenda x task a
  · split
    · rfl
    · split
      · split <;> simp
      · exact s.tookView_agenda task _

@[simp] theorem State.newTask_agenda (s : State) (x : Nat) (addr : DWord) (p : Lpb) (node : Bool) : (s.newTask x addr p node).1.agenda = s.agenda := by
  unfold State.newTask
  split <;> rfl

@[simp] theorem State.makeTask_agenda (s : State) (x task : Nat) (addr : DWord) (p : Lpb) (node : Bool) :
    (s.makeTask x task addr p node).1.agenda = s.agenda := by
  unfold State.makeTask
  split
  · rfl
  · simp [State.ite_agenda]

theorem State.readPath_agenda {s t : State} {c x task : Nat} {lv : Level} {va n : Nat} {bs : List Byte}
    (h : s.readPath c x task lv va n = .ok (t, bs)) : t.agenda = s.agenda := by
  unfold State.readPath at h
  split at h
  · cases h
  · split at h
    · cases h
    · dsimp only at h
      split at h
      · cases h
      · split at h
        · cases h
        · cases h
          show State.agenda (List.foldl _ _ _) = _
          rw [State.foldl_agenda fun t ln => by simp]
          simp

@[simp] theorem State.spawn1_agenda (s : State) (c x task : Nat) (node : Bool) (a : Access) : (s.spawn1 c x task node a).1.agenda = s.agenda := by
  unfold State.spawn1
  split
  · rfl
  · split
    · rfl
    next s1 bs read =>
      have read1 := State.readPath_agenda read
      dsimp only
      split
      · rfl
      · split
        · simp [read1]
        · split
          · simp [read1]
          · split
            · rfl
            · simp [read1]
            next s2 es again =>
              have read2 := State.readPath_agenda again
              split <;> simp [read1, read2]

@[simp] theorem State.task1_agenda (s : State) (c x task blk : Nat) (i : Instr) (a : Access) : (s.task1 c x task blk i a).1.agenda = s.agenda := by
  unfold State.task1
  split
  case h_7 => split <;> rfl
  all_goals simp


@[simp] theorem State.performTask_agenda (s : State) (key id : Nat) : (s.performTask key id).agenda = s.agenda := by
  unfold State.performTask
  split
  · rfl
  · split
    next bk _ _ _ _ c o _ _ _ _ =>
      extract_lets x now s0 run walk t1 parked bad held t2 upd t3 t4
      have published : s0.agenda = s.agenda := by simp only [s0, State.ite_agenda, ite_self]
      have looped : run.s.agenda = s0.agenda :=
        foldl_keeps (fun r : TaskRun => r.s.agenda) _ (fun r a => r.s.task1_agenda c x bk.task bk.blk o.i a) _ { s := s0, did := [] }
      clear_value run walk
      have acted : t3.agenda = s.agenda := by
        show t2.agenda = s.agenda
        simp only [t2, t1, State.ite_agenda, ite_self, looped, published]
      have answered : t4.agenda = s.agenda := by
        refine (State.foldl_agenda (fun t p => ?_) run.did t3).trans acted
        split <;> simp
      split
      · exact s.endCtx_agenda x _
      · split
        · rfl
        · rw [State.modBlock_agenda, State.recordFaults_agenda, answered]
    · rfl

/-! #### The press of a core cycle, its matrix engine, and repairs -/

@[simp] theorem State.perform_agenda (s : State) (key id : Nat) : (s.perform key id).agenda = s.agenda := by
  unfold State.perform
  split
  · rfl
  · split
    · rfl
    · split
      case h_17 =>
        split
        · exact s.performStep_agenda key id _ fun t c x l => t.flushStep_agenda c x _
        · exact s.performMem_agenda key id
      case h_15 => exact s.performStep_agenda key id _ fun t c x l => rfl
      case h_16 => exact s.performStep_agenda key id _ fun t c x l => rfl
      all_goals simp

@[simp] theorem State.tryOp_agenda (s : State) (b q : Nat) : (s.tryOp b q).agenda = s.agenda := by
  unfold State.tryOp
  split
  · simp [State.ite_agenda]
  · rfl

@[simp] theorem State.pressLocals_agenda (s : State) (c : Nat) : (s.pressLocals c).agenda = s.agenda :=
  State.foldl_agenda (fun (t : State) (p : Nat × Block) => State.foldl_agenda (fun (u : State) (o : MemOp) => u.tryOp_agenda p.1 o.id) _ t) _ s

@[simp] theorem State.pressStores_agenda (s : State) (c : Nat) : (s.pressStores c).agenda = s.agenda :=
  State.foldl_agenda (fun (t : State) (p : Nat × Block) => State.foldl_agenda (fun u (_ : MemOp) =>
    State.foldl_agenda (fun v n => v.tryOp_agenda p.1 n) _ u) _ t) _ s

@[simp] theorem State.matBegin_agenda (s : State) (c q : Nat) : (s.matBegin c q).agenda = s.agenda := by
  unfold State.matBegin
  split
  · rfl
  · split
    · rfl
    · dsimp only
      split <;> rfl

@[simp] theorem State.startMats_agenda (s : State) (c : Nat) : (s.startMats c).agenda = s.agenda :=
  State.foldl_agenda (fun (t : State) (r : MatReq) => t.matBegin_agenda c r.id) _ s

@[simp] theorem State.closeCore_agenda (s : State) (c : Nat) : (s.closeCore c).agenda = s.agenda := by simp [State.closeCore]

@[simp] theorem State.storeTile_agenda (s : State) (r : MatReq) (now : Nat) : (s.storeTile r now).agenda = s.agenda := by
  unfold State.storeTile
  split <;> rfl

@[simp] theorem State.matEnd_agenda (s : State) (c q : Nat) : (s.matEnd c q).agenda = s.agenda := by
  unfold State.matEnd
  split
  · rfl
  · split
    · rfl
    · split
      · rfl
      · exact s.storeTile_agenda _ _

@[simp] theorem State.endMats_agenda (s : State) (c : Nat) : (s.endMats c).agenda = s.agenda :=
  State.foldl_agenda (fun (t : State) (r : MatReq) => t.matEnd_agenda c r.id) _ s

@[simp] theorem State.feed_agenda (s : State) (c : Nat) : (s.feed c).agenda = s.agenda := (s.feed_frame c).2.2.2.2.2.2

@[simp] theorem State.landCore_agenda (s : State) (c : Nat) : (s.landCore c).agenda = s.agenda := rfl

@[simp] theorem State.repair_agenda (s : State) (b w l : Nat) (r : Reg) : (s.repair b w l r).agenda = s.agenda := by
  unfold State.repair
  split
  · rfl
  · split
    · rfl
    · split <;> rfl

@[simp] theorem State.repairAt_agenda (s : State) (c b w : Nat) (a : DWord) : (s.repairAt c b w a).agenda = s.agenda := by
  unfold State.repairAt
  split
  · rfl
  · dsimp only
    split
    · exact State.foldl_agenda (fun (t : State) (x : Nat × Reg) => t.repair_agenda b w x.1 x.2) _ s
    · rfl

@[simp] theorem State.repairCore_agenda (s : State) (c : Nat) : (s.repairCore c).agenda = s.agenda := by
  refine State.foldl_agenda (fun t p => ?_) _ s
  split
  · exact State.foldl_agenda (fun u w => State.foldl_agenda (fun v a => v.repairAt_agenda c p.1 w a) _ u) _ t
  · rfl

@[simp] theorem State.coreStep_agenda (s : State) (c : Nat) : (s.coreStep c).agenda = s.agenda := by simp [State.coreStep]

@[simp] theorem State.turnCore_agenda (s : State) (c : Nat) : (s.turnCore c).agenda = s.agenda := by
  simp [State.turnCore, State.ite_agenda]

end Sys2Proof.Machine

end

section
/-! PROOF. A step runs the instructions that its bytes decode to (R29 to R32, R89). -/

namespace Sys2Proof.Machine

open Sys2Proof Sys2Proof.Claims

/-! ### Lists in order -/

theorem mem_insertBy {α : Type} (m : α → Nat) (x y : α) (l : List α) : y ∈ insertBy m x l ↔ y = x ∨ y ∈ l := by
  induction l with
  | nil => simp [insertBy]
  | cons z r ih =>
    rw [insertBy]
    split
    · exact List.mem_cons
    · rw [List.mem_cons, ih, List.mem_cons]; tauto

/-- A sorted list has the members of the list. -/
theorem mem_sortBy {α : Type} (m : α → Nat) (y : α) (l : List α) : y ∈ sortBy m l ↔ y ∈ l := by
  suffices h : ∀ acc, y ∈ l.foldl (fun acc x => insertBy m x acc) acc ↔ y ∈ acc ∨ y ∈ l from (h []).trans (by simp)
  intro acc
  induction l generalizing acc with
  | nil => simp
  | cons x r ih => rw [List.foldl_cons, ih, mem_insertBy, List.mem_cons]; tauto

theorem mem_laneOrder (p : Nat × Nat) (g : List (Nat × Nat)) : p ∈ laneOrder g ↔ p ∈ g := mem_sortBy _ p g

theorem mem_warpsOf (w : Nat) (g : List (Nat × Nat)) : w ∈ warpsOf g ↔ ∃ p ∈ g, p.1 = w := by simp [warpsOf, mem_sortBy]

/-- Of values that are either absent or one, the first is that one, if it is there. -/
theorem findSome_eq_some {α β : Type} (f : α → Option β) (z : β) {l : List α} {a : α} (mem : a ∈ l) (here : f a = some z)
    (same : ∀ b ∈ l, f b = none ∨ f b = some z) : l.findSome? f = some z := by
  cases found : l.findSome? f with
  | none => exact absurd (List.findSome?_eq_none_iff.mp found a mem) (by simp [here])
  | some y =>
    obtain ⟨b, hb, hy⟩ := List.exists_of_findSome?_eq_some found
    rcases same b hb with h | h <;> simp_all

/-! ### What a group fetches (R34, R202) -/

section
variable {v : State} {c : Nat} {bk : Block} {a : DWord} {g : List (Nat × Nat)} {pa : Nat} {x : BundleBits}

/-- An address has one physical address, whatever level asks (R200, R202). -/
theorem State.translate_unique {y va : Nat} {lv lv' : Level} {n n' : Need} {pa pa' : Nat} (h : v.translate c y lv n va = .ok pa)
    (h' : v.translate c y lv' n' va = .ok pa') : pa' = pa := by
  unfold State.translate at h h'
  cases leaf : v.leaf c y va <;> simp only [leaf] at h h'
  · split at h <;> cases h
  · split at h
    · cases h
    · rw [if_neg ‹_›] at h'
      split at h <;> split at h' <;> cases h <;> cases h'
      rfl

theorem State.fetchPa_unique {w u : Nat} {ls ms : List Nat} {pa pa' : Nat} (h : v.fetchPa c bk w ls a = some pa)
    (h' : v.fetchPa c bk u ms a = some pa') : pa' = pa := by
  obtain ⟨l, -, hl⟩ := List.exists_of_findSome?_eq_some h
  obtain ⟨m, -, hm⟩ := List.exists_of_findSome?_eq_some h'
  split at hl <;> cases hl
  split at hm <;> cases hm
  exact State.translate_unique ‹_› ‹_›

/-- A group whose first thread's bundle is in the instruction cache fetches it, whichever of its warps is asked (R34, R354). -/
theorem State.groupFetch_of_head (nonempty : g ≠ []) (aligned : a.toNat % 32 = 0)
    (bytes : ∀ p ∈ g.head?, ∃ pa, v.fetchPa c bk p.1 (bk.fragment p.1 a) a = some pa ∧ v.cachedBundle c pa = some x) :
    v.groupFetch c bk a g = .got (decodeBundle x) := by
  obtain ⟨p, r, rfl⟩ := List.exists_cons_of_ne_nil nonempty
  obtain ⟨pa, pas, cached⟩ := bytes p rfl
  have fetches : ∀ w, v.fetchPa c bk w (bk.fragment w a) a = some pa → v.fetch c bk w (bk.fragment w a) a = .got (decodeBundle x) :=
    fun w found => by simp [State.fetch, aligned, found, cached]
  refine congrArg (Option.getD · Fetched.none) (findSome_eq_some _ (Fetched.got (decodeBundle x))
    ((mem_warpsOf p.1 (p :: r)).mpr ⟨p, List.mem_cons_self, rfl⟩) (by rw [fetches p.1 pas]) fun w _ => ?_)
  cases found : v.fetchPa c bk w (bk.fragment w a) a with
  | none => exact .inl (by simp [State.fetch, aligned, found])
  | some pa' => exact .inr (by rw [fetches w (State.fetchPa_unique pas found ▸ found)])

end

/-! ### A bundle that begins (R31, R32, R89) -/

section
variable {s v : State} {c b : Nat} {a : DWord} {wait : Bool} {r : List Choice} {bk : Block} {g : List (Nat × Nat)} {x : BundleBits} {B : Bundle}

/-- No thread of a group that may run its bundle is refused at decode. -/
theorem decodeBad_none (may : ∀ p ∈ g, v.codeOk c bk.ctx (bk.thread p.1 p.2).level a = true ∧
    ((B.words.any fun q => q.i.privileged) = true → (bk.thread p.1 p.2).level = .supervisor)) {p : Nat × Nat} (mem : p ∈ g) :
    v.decodeBad c bk a (.got (.ok B)) p.1 p.2 = none := by
  obtain ⟨ok, level⟩ := may p mem
  have entry := State.codeBad_of_codeOk ok
  cases privileged : B.words.any fun q => q.i.privileged with
  | false => simp [State.decodeBad, entry, privileged]
  | true =>
    have sup := level privileged
    simp only [State.decodeBad, entry, privileged]
    rw [sup]
    rfl

/-- The issue begins for the whole group. -/
theorem begin_whole (sound : ∀ p ∈ g, v.decodeBad c bk a (.got (.ok B)) p.1 p.2 = none) :
    (laneOrder g).filterMap (fun p => (v.decodeBad c bk a (.got (.ok B)) p.1 p.2).map fun b => (p, b)) = [] :=
  List.filterMap_eq_nil_iff.mpr fun p hp => by rw [sound p ((mem_laneOrder p g).mp hp)]; rfl

/-- Where no thread is refused, what stands ready is as R32 and R89 say. -/
theorem State.begun (agenda : v.agenda = r) (sound : ∀ p ∈ g, v.decodeBad c bk a (.got (.ok B)) p.1 p.2 = none) :
    Begun v (v.begin c b bk a (.got (.ok B)) g wait) c b a wait r bk g B := by
  have only := v.cached_only c bk.ctx a.toNat
  obtain ⟨cyc, -, blocks, -⟩ := only.rest
  have all : (laneOrder g).filter (fun p => !([] : List (Nat × Nat)).contains p) = laneOrder g := by simp
  simp only [State.begin, begin_whole sound, List.map_nil, all, State.takeAll, List.foldl_nil]
  refine ⟨(v.cached_agenda c bk.ctx a.toNat).trans agenda, blocks, only.memory, rfl, rfl, cyc, ?_, ?_, rfl, rfl, rfl, rfl, rfl, rfl, rfl, rfl, rfl, rfl⟩
  · exact (congrArg Core.issued (State.core_modCore_self (v.cached c bk.ctx a.toNat) c fun k =>
      { k with issued := some (v.cached c bk.ctx a.toNat).cyc, spent := true })).trans (congrArg some cyc)
  · exact congrArg Core.spent (State.core_modCore_self (v.cached c bk.ctx a.toNat) c fun k =>
      { k with issued := some (v.cached c bk.ctx a.toNat).cyc, spent := true })

/-- R29–R32, R89: the step runs the bundle that stands ready. -/
theorem step_of_fetches (h : Fetches s v c b a wait r bk g x B) :
    Begun v (v.begin c b bk a (.got (.ok B)) g wait) c b a wait r bk g B ∧
      step s = runBundle (v.begin c b bk a (.got (.ok B)) g wait) := by
  obtain ⟨chosen, turned, here, may, group, nonempty, aligned, bytes, decodes, mayRun⟩ := h
  have agenda : v.agenda = r := by rw [turned, State.turnCore_agenda]
  refine ⟨State.begun agenda fun p mem => decodeBad_none mayRun mem, ?_⟩
  rw [step_of_chosen chosen turned here may group nonempty (State.groupFetch_of_head nonempty aligned bytes), decodes]

/-- The group that stands ready is not empty, and its words are the bundle's. -/
theorem begun_grp_words {u : State} (h : Begun v u c b a wait r bk g B) (nonempty : g ≠ []) : u.iss.grp.isEmpty = false ∧ u.iss.words = B.words := by
  obtain ⟨-, -, -, -, -, -, -, -, -, -, -, -, grp, words, -⟩ := h
  obtain ⟨p, mem⟩ := List.exists_mem_of_ne_nil g nonempty
  refine ⟨?_, words⟩
  rw [grp, List.isEmpty_eq_false_iff]
  exact List.ne_nil_of_mem ((mem_laneOrder p g).mpr mem)

/-- Words run in their order (R32). -/
theorem runBundle_words {u : State} (grp : u.iss.grp.isEmpty = false) (nonempty : u.iss.words ≠ []) : runBundle u = runWords (inOrder u.iss.words) u := by
  obtain ⟨p, ws, words⟩ := List.exists_cons_of_ne_nil nonempty
  simp [runBundle, grp, words]

end

end Sys2Proof.Machine

namespace Sys2Proof.Proofs

open Sys2Proof Sys2Proof.Machine Sys2Proof.Claims

/-- A bundle's one word is alone in its order (R32). -/
theorem inOrder_one (p : Placed) : inOrder [p] = [p] := by
  cases h : p.i.family == .transfer <;> simp_all [inOrder]

theorem stepRunsTheWord : Claims.StepRunsTheWord := by
  intro s v c b a wait r bk g x B p h one
  obtain ⟨begun, runs⟩ := step_of_fetches h
  obtain ⟨grp, words⟩ := begun_grp_words begun h.nonempty
  refine ⟨(v.begin c b bk a (.got (.ok B)) g wait).atWord p, begun, rfl, rfl, ?_⟩
  rw [runs, runBundle_words grp (by simp [words, one]), words, one, inOrder_one]
  rfl

theorem stepRunsTheBundle : Claims.StepRunsTheBundle := by
  intro s v c b a wait r bk g x B h
  obtain ⟨begun, runs⟩ := step_of_fetches h
  obtain ⟨grp, words⟩ := begun_grp_words begun h.nonempty
  refine ⟨_, begun, fun _ => ?_, fun empty => ?_⟩
  · rw [runs, runBundle_words grp (by rwa [words]), words]
  · rw [runs, runBundle]
    simp only [grp, words, empty]
    rfl

/-- Settles O6: the first choice's group, none of whom is refused at decode, begins its bundle, and its words run in their order. -/
theorem stepRunsTheDecodedInstruction : Obligations.StepRunsTheDecodedInstruction := by
  unfold Obligations.StepRunsTheDecodedInstruction
  exact ⟨stepRunsTheWord, stepRunsTheBundle⟩

end Sys2Proof.Proofs

end
